-- ==== Sys2Proof/Word.lean ====
section
/-! DEFINITION. The plain types of the part: bytes of a frame, the numbers of cranes, zones and channels, fixed tables. -/

namespace Sys2Proof

/-- One byte of a frame (R162). -/
abbrev Byte := BitVec 8

/-- Crane n, 1 to 6, is index n − 1 (00_scope, "Cranes, ports and channels"). -/
abbrev CraneId := Fin 6

/-- Zone n, 1 to 48, is index n − 1 (R1: "The zone number is the index of the record, 1 to 48"). -/
abbrev ZoneId := Fin 48

/-- Anemometer channel and line, 0 to 7 (R87). -/
abbrev ChannelId := Fin 8

/-- A fixed number of like records, one for each index. -/
abbrev Table (α : Type) (n : Nat) := Vector α n

/-- The entry at an index. -/
def Table.entry {α : Type} {n : Nat} (t : Table α n) (i : Fin n) : α := t[i]

/-- The table with the entry at `i` replaced by its image under `f`. -/
def Table.edit {α : Type} {n : Nat} (t : Table α n) (i : Fin n) (f : α → α) : Table α n :=
  t.set i (f t[i])

/-- The table with every entry replaced by its image under `f`, which is told the index. -/
def Table.mapAll {α β : Type} {n : Nat} (t : Table α n) (f : Fin n → α → β) : Table β n :=
  Vector.ofFn fun i => f i t[i]

@[simp] theorem Table.entry_edit_same {α : Type} {n : Nat} (t : Table α n) (i : Fin n) (f : α → α) :
    Table.entry (Table.edit t i f) i = f (Table.entry t i) := by
  simp [Table.entry, Table.edit]

theorem Table.entry_edit_other {α : Type} {n : Nat} (t : Table α n) {i j : Fin n} (f : α → α)
    (h : j ≠ i) : Table.entry (Table.edit t i f) j = Table.entry t j := by
  have h' : (i : Nat) ≠ (j : Nat) := fun e => h (Fin.ext e.symm)
  simp [Table.entry, Table.edit, h']

theorem Table.entry_edit {α : Type} {n : Nat} (t : Table α n) (i j : Fin n) (f : α → α) :
    Table.entry (Table.edit t i f) j = if j = i then f (Table.entry t j) else Table.entry t j := by
  by_cases h : j = i
  · subst h; simp
  · simp [h, Table.entry_edit_other t f h]

@[simp] theorem Table.entry_mapAll {α β : Type} {n : Nat} (t : Table α n) (f : Fin n → α → β)
    (i : Fin n) : Table.entry (Table.mapAll t f) i = f i (Table.entry t i) := by
  simp [Table.entry, Table.mapAll]

@[simp] theorem Table.entry_replicate {α : Type} {n : Nat} (x : α) (i : Fin n) :
    Table.entry (Vector.replicate n x) i = x := by
  simp [Table.entry]

/-- Two tables with the same entries are the same table. -/
theorem Table.ext_entry {α : Type} {n : Nat} {t u : Table α n}
    (h : ∀ i, Table.entry t i = Table.entry u i) : t = u :=
  Vector.ext fun i hi => h ⟨i, hi⟩

/-- Crane number as the frames carry it. -/
def craneNumber (c : CraneId) : Nat := c.val + 1

/-- Zone number as the frames carry it. -/
def zoneNumber (z : ZoneId) : Nat := z.val + 1

end Sys2Proof
end

