-- ==== Sys2Proof/Syntax.lean ====
section
/-! DEFINITION. The commands of the part: one constructor per row of spec/opcode_table.json.

A request command is the arrival of one request frame on a link port (R162 to R166): it carries the
port, the tag byte and the body bytes; its kind code is the row's (R163). -/

namespace Sys2Proof

/-- The seven link ports (R162; 00_scope: CP1 to CP6 tied to cranes 1 to 6, and PP). -/
inductive Port where
  | crane (c : CraneId)
  | planner
  deriving DecidableEq, Repr

/-- A request frame: kind, tag and body (R162). Its length byte L is the body's length. -/
structure Frame where
  kind : Byte
  tag : Byte
  body : List Byte
  deriving DecidableEq, Repr

/-- Bytes that arrive on a link port, in this order (R164). -/
structure PortBytes where
  port : Port
  bytes : List Byte
  deriving DecidableEq, Repr

/-- Bytes that arrive on an anemometer line, in this order (R88). -/
structure LineBytes where
  line : ChannelId
  bytes : List Byte
  deriving DecidableEq, Repr

/-- The commands. -/
inductive Instr where
  /-- POWER_ON (R179) -/
  | powerOn
  /-- RESET, a low level on the RESET input (R179) -/
  | reset
  /-- HELLO (R122) -/
  | hello (port : Port) (tag : Byte) (body : List Byte)
  /-- REPORT (R24) -/
  | report (port : Port) (tag : Byte) (body : List Byte)
  /-- CLAIM (R50) -/
  | claim (port : Port) (tag : Byte) (body : List Byte)
  /-- WITHDRAW from a crane (R57) -/
  | withdraw (port : Port) (tag : Byte) (body : List Byte)
  /-- RELEASE (R59) -/
  | release (port : Port) (tag : Byte) (body : List Byte)
  /-- ARM (R124) -/
  | arm (port : Port) (tag : Byte) (body : List Byte)
  /-- LIFT_DONE (R156) -/
  | liftDone (port : Port) (tag : Byte) (body : List Byte)
  /-- STATUS (R168) -/
  | status (port : Port) (tag : Byte) (body : List Byte)
  /-- CONFIG_AREAS (R169) -/
  | configAreas (port : Port) (tag : Byte) (body : List Byte)
  /-- CONFIG_CRANE (R120) -/
  | configCrane (port : Port) (tag : Byte) (body : List Byte)
  /-- CONFIG_CHANNEL (R97) -/
  | configChannel (port : Port) (tag : Byte) (body : List Byte)
  /-- SET_TRIP_MASK (R127) -/
  | setTripMask (port : Port) (tag : Byte) (body : List Byte)
  /-- STAGE_ZONE (R12) -/
  | stageZone (port : Port) (tag : Byte) (body : List Byte)
  /-- APPLY_GEOMETRY (R13) -/
  | applyGeometry (port : Port) (tag : Byte) (body : List Byte)
  /-- ABANDON_APPLY (R15) -/
  | abandonApply (port : Port) (tag : Byte) (body : List Byte)
  /-- BOOK (R145) -/
  | book (port : Port) (tag : Byte) (body : List Byte)
  /-- CANCEL (R157) -/
  | cancel (port : Port) (tag : Byte) (body : List Byte)
  /-- SET_CLOCK (R137) -/
  | setClock (port : Port) (tag : Byte) (body : List Byte)
  /-- HOLD_CLOCK (R138) -/
  | holdClock (port : Port) (tag : Byte) (body : List Byte)
  /-- RUN_CLOCK (R139) -/
  | runClock (port : Port) (tag : Byte) (body : List Byte)
  /-- HALT (R129) -/
  | halt (port : Port) (tag : Byte) (body : List Byte)
  /-- RESUME (R128) -/
  | resume (port : Port) (tag : Byte) (body : List Byte)
  /-- EMERGENCY_CLAIM (R81) -/
  | emergencyClaim (port : Port) (tag : Byte) (body : List Byte)
  /-- WITHDRAW from the planner (R84) -/
  | plannerWithdraw (port : Port) (tag : Byte) (body : List Byte)
  /-- FORCE_RELEASE (R61) -/
  | forceRelease (port : Port) (tag : Byte) (body : List Byte)
  /-- READ_EVENTS (R174) -/
  | readEvents (port : Port) (tag : Byte) (body : List Byte)
  /-- SET_EVENT_ENABLES (R175) -/
  | setEventEnables (port : Port) (tag : Byte) (body : List Byte)
  /-- SITE_STATUS (R176) -/
  | siteStatus (port : Port) (tag : Byte) (body : List Byte)
  /-- CRANE_STATUS (R177) -/
  | craneStatus (port : Port) (tag : Byte) (body : List Byte)
  /-- ZONE_STATUS (R178) -/
  | zoneStatus (port : Port) (tag : Byte) (body : List Byte)
  /-- BOOKING_STATUS (R161, R178) -/
  | bookingStatus (port : Port) (tag : Byte) (body : List Byte)
  /-- COLD_RESTART (R180) -/
  | coldRestart (port : Port) (tag : Byte) (body : List Byte)
  /-- UNKNOWN_KIND: a completed request with any kind byte, examined by R165 -/
  | unknownKind (port : Port) (frame : Frame)
  /-- PENDING_REQUEST: a completed request that finds the response buffer full (R166) -/
  | pendingRequest (port : Port) (frame : Frame)
  /-- REQUEST_OVERRUN: a completed request that finds the pending place occupied (R166) -/
  | requestOverrun (port : Port) (frame : Frame)
  /-- FRAME_OVERSIZE: bytes arrive on a port, a length byte above 60 among them (R164) -/
  | frameOversize (arrival : PortBytes)
  /-- FRAME_CRC_ERROR: bytes arrive on a port, the last of a frame whose CRC does not match among them
  (R164) -/
  | frameCrcError (arrival : PortBytes)
  /-- FRAME_COMPLETION_TIMEOUT (R164) -/
  | frameCompletionTimeout (port : Port)
  /-- TRANSMISSION_END (R167) -/
  | transmissionEnd (port : Port)
  /-- SAMPLE: a sample frame arrives, with this speed and status byte and the check character of both
  (R88, R90) -/
  | sample (line : ChannelId) (speed : BitVec 16) (status : Byte)
  /-- SAMPLE_CHECK_FAILURE: bytes arrive on a line, the last of a frame whose check character does not match
  among them (R88) -/
  | sampleCheckFailure (arrival : LineBytes)
  /-- SAMPLE_FRAME_TIMEOUT (R88) -/
  | sampleFrameTimeout (line : ChannelId)
  /-- HANDOVER_TIMER_EXPIRY (R6) -/
  | handoverTimerExpiry (zone : ZoneId)
  /-- YIELD_TIMER_EXPIRY (R75) -/
  | yieldTimerExpiry (zone : ZoneId)
  /-- REPORT_TIMER_EXPIRY (R39) -/
  | reportTimerExpiry (crane : CraneId)
  /-- STALE_TIMER_EXPIRY (R93) -/
  | staleTimerExpiry (channel : ChannelId)
  /-- BIN_TIMER_EXPIRY (R95) -/
  | binTimerExpiry (channel : ChannelId)
  /-- HOLD_TIMER_EXPIRY (R109) -/
  | holdTimerExpiry (crane : CraneId)
  /-- STOW_TIMER_EXPIRY (R115) -/
  | stowTimerExpiry (crane : CraneId)
  /-- SECOND_TIMER_EXPIRY (R136) -/
  | secondTimerExpiry
  /-- MINUTE_TICK (R136, R149) -/
  | minuteTick
  /-- REMAINING_MINUTES_ZERO: the booking id (R152) -/
  | remainingMinutesZero (id : Nat)
  /-- SYNC_BYTE_IN_HUNT: a byte of 0xC3 arrives on the port (R164) -/
  | syncByteInHunt (port : Port)
  /-- START_CHARACTER_IN_HUNT: a byte of 0xA5 arrives on the line (R88) -/
  | startCharacterInHunt (line : ChannelId)
  deriving DecidableEq, Repr

end Sys2Proof
end

