-- ==== Sys2Proof/Decode.lean ====
section
/-! DEFINITION. Decoding of a table word. No row of spec/opcode_table.json gives bits (98_reader.md:
"n_rows_with_fixed": 0, "n_rows_with_fields": 0), so no word spells a command (log entry 20).
The bodies of request frames are read in Sys2Proof/Machine/Operands.lean. -/

namespace Sys2Proof

/-- The command that the word `w` of `nbits` bits spells by the table's bits: none, whatever the
word, since no row of the table gives bits. -/
def decodeTableWord (_nbits _w : Nat) : Option Instr := none

end Sys2Proof
end

