-- ==== Sys2Proof/Config.lean ====
section
/-! DEFINITION. The free values: constants with no body, so that no proof can lean on one of them. -/

namespace Sys2Proof

/-- The order the part takes where the manual lets several items of one event be taken in either
order (R34, R55, R68, R99, R149, R158, R159): item `k` of the `n`-th open order has rank
`Config.rank n k`, and items are taken by ascending rank. FREE VALUE, log entry 8. -/
opaque Config.rank : Nat → Nat → Nat

/-- The byte that codes "expired" where a status body gives the yield time remaining (R85, R178).
FREE VALUE, log entry 14. -/
opaque Config.expiredCode : Byte

end Sys2Proof
end

