-- ==== Sys2Proof/Machine/State.lean ====
section
/-! DEFINITION. The state of the part: every record the manual names, as plain data, and its values
after power-on or a low level on RESET (R179). Each type cites the rule that gives the record. -/

namespace Sys2Proof.Machine

/-- No command of this model ends in a fault: the manual describes no fault that stops the part. -/
inductive Fault
  deriving DecidableEq, Repr

/-- Why a command has no meaning. -/
inductive Refusal where
  /-- Raised by `exec` alone, for a row of the table that has no meaning yet (none today). Safe: the
  machine stops where the part goes on. -/
  | notModelled (mnemonic : String)
  deriving DecidableEq, Repr

/-- A timer: stopped, or running with the time remaining in units of 10 ms (log entry 2). -/
abbrev Timer := Option Nat

/-! ## Codes and enumerations -/

/-- Result codes, in the order of their values 0 to 31 (R162). -/
inductive Result where
  | ok | granted | queued | pending | length | unknownKind | badField | notConfigured | wrongPort
  | notRegistered | noArea | wrongState | noFootprint | zoneClosed | zoneBusy | duplicate
  | claimLimit | windRestricted | notQueued | notHolder | releaseOccupied | applyPending
  | areaOverlap | bookingConflict | tableFull | badWindow | clockInvalid | latched | silent
  | occupiesUnheld | nothingLatched | craneActive
  deriving DecidableEq, Repr

/-- Permit states (R119), in the order of that rule. -/
inductive PermitState where
  | offline | disarmed | running | derated | halted | stowing | stowed
  deriving DecidableEq, Repr

/-- Trip causes, in the order of the trip-cause table of section 7.4. -/
inductive Cause where
  | encroach | intrusion | silence | yieldTimeout | plannerHalt | sensorLoss
  deriving DecidableEq, Repr

/-- The place of a cause in the trip-cause table. -/
def Cause.idx : Cause → Fin 6
  | .encroach => 0
  | .intrusion => 1
  | .silence => 2
  | .yieldTimeout => 3
  | .plannerHalt => 4
  | .sensorLoss => 5

/-- Wind stages, CALM < CAUTION < RESTRICT < STOP (R104). -/
inductive Stage where
  | calm | caution | restrict | stop
  deriving DecidableEq, Repr

/-- The place of a stage in the order of R104. -/
def Stage.rank : Stage → Nat
  | .calm => 0
  | .caution => 1
  | .restrict => 2
  | .stop => 3

/-- Report modes (R24). -/
inductive Mode where
  | inService | parked | freeSlew
  deriving DecidableEq, Repr

/-- Zone kinds (R1). -/
inductive ZoneKind where
  | shared | excluded
  deriving DecidableEq, Repr

/-- Site events, in the order of the table of chapter 11. -/
inductive SiteEvent where
  | restarted | trip | silence | stowOverdue | windStop | sensor | applyDone | booking | noticeLoss
  | frame
  deriving DecidableEq, Repr

/-- The place of a site event in the table of chapter 11. -/
def SiteEvent.idx : SiteEvent → Fin 10
  | .restarted => 0
  | .trip => 1
  | .silence => 2
  | .stowOverdue => 3
  | .windStop => 4
  | .sensor => 5
  | .applyDone => 6
  | .booking => 7
  | .noticeLoss => 8
  | .frame => 9

/-- Restart kinds (R173). -/
inductive RestartKind where
  | none | power | cold
  deriving DecidableEq, Repr

/-- Booking states (R143). -/
inductive BookingState where
  | booked | armed | active | suspended | done | lapsed | cancelled
  deriving DecidableEq, Repr

/-- Causes of a BOOKING notice (R155). -/
inductive BookingCause where
  | tick | jump | admission | wind | stage | blind | liftDone | cancel | lapse | restart
  deriving DecidableEq, Repr

/-- Causes of a STAGE notice (R111). -/
inductive StageCause where
  | gust | mean | blind | hold
  deriving DecidableEq, Repr

/-- Reasons of a CLAIM_DROPPED notice (R58, R84, R163). -/
inductive DropReason where
  | bookingEnd | admission | geometry | planner
  deriving DecidableEq, Repr

/-- Channel states (R87). -/
inductive ChannelState where
  | noSignal | live | stale | faulted
  deriving DecidableEq, Repr

/-- Governing sources (R98). -/
inductive Source where
  | primary | fallback | none
  deriving DecidableEq, Repr

/-- Clock states (R135). -/
inductive ClockMode where
  | invalid | running | held
  deriving DecidableEq, Repr

/-! ## Port Controller (chapters 10 and 11) -/

/-- A notice to a crane, with its content (R163). -/
inductive Notice where
  /-- GRANT: zone, grant level, emergency mark (R56) -/
  | grant (zone : ZoneId) (level : Nat) (emergency : Bool)
  /-- REVOKED: zone (R61) -/
  | revoked (zone : ZoneId)
  /-- YIELD: zone, yield time, target level, grant level, emergency of the head claim (R69) -/
  | yield (zone : ZoneId) (time target level : Nat) (emergency : Bool)
  /-- YIELD_CANCEL: zone, grant level after the event (R71) -/
  | yieldCancel (zone : ZoneId) (level : Nat)
  /-- CLAIM_DROPPED: zone, reason (R58) -/
  | claimDropped (zone : ZoneId) (reason : DropReason)
  /-- TRIP: latched cause, set of latched causes, permit state, speed factor (R126) -/
  | trip (cause : Cause) (latched : Table Bool 6) (permit : PermitState) (factor : Nat)
  /-- STAGE: new and previous stage, cause, governing gust and mean, blind flag (R111) -/
  | stage (new old : Stage) (cause : StageCause) (gust mean : Option Nat) (blind : Bool)
  /-- BOOKING: id, new and previous state, cause, remaining minutes, short flag, not-placed count (R155) -/
  | booking (id : Nat) (new old : BookingState) (cause : BookingCause) (remaining : Nat) (short : Bool)
      (notPlaced : Nat)
  deriving DecidableEq, Repr

/-- A response: kind of the request, tag, result code, NOTICE_LOSS bit, body (R162, R165). -/
structure Response where
  kind : Byte
  tag : Byte
  result : Result
  loss : Bool
  body : List Byte
  deriving DecidableEq, Repr

/-- A receiver, of a link port (R164) or of an anemometer line (R88): in HUNT, or in a frame with its
completion timer running and the bytes it has collected since the frame's first, oldest first. -/
inductive Receiver where
  | hunt
  | inFrame (left : Nat) (got : List Byte)
  deriving DecidableEq, Repr

/-- A transmitter: idle, or sending one frame to its end (R167). -/
inductive Transmitter where
  | idle
  | response (r : Response)
  | notice (n : Notice)
  deriving DecidableEq, Repr

/-- The per-port state of a link port (R164, R166, R167). -/
structure Link where
  /-- the receiver and its 50 ms completion timer (R164) -/
  rx : Receiver := .hunt
  /-- the response buffer (R166) -/
  buffer : Option Response := none
  /-- the pending-request place (R166) -/
  waiting : Option Frame := none
  /-- the transmitter (R167) -/
  tx : Transmitter := .idle
  /-- a completed request of the port is being taken, so that no notice is started (R167) -/
  serving : Bool := false
  oversize : Nat := 0
  timeouts : Nat := 0
  crcErrors : Nat := 0
  overruns : Nat := 0
  deriving DecidableEq, Repr

/-- A crane port's area [start, stop) of the Notice Store, its notice queue, oldest first, and its
NOTICE_LOSS flag (R169 to R171). -/
structure NoticeBox where
  start : Nat := 0
  stop : Nat := 0
  queue : List Notice := []
  loss : Bool := false
  deriving DecidableEq, Repr

/-- Capacity of an area (R169). -/
def NoticeBox.capacity (b : NoticeBox) : Nat := b.stop - b.start

/-! ## Wind Unit (chapters 5 and 6) -/

/-- An anemometer channel record (R87) with its values after power-on (R102). -/
structure Channel where
  enable : Bool := true
  /-- seconds, 1 to 10 -/
  staleTime : Nat := 2
  state : ChannelState := .noSignal
  staleTimer : Timer := none
  /-- oldest first, at most twelve -/
  ring : List Nat := []
  gust : Option Nat := none
  openSum : Nat := 0
  openCount : Nat := 0
  /-- completed bins, oldest first, each a sum and a count -/
  bins : List (Nat × Nat) := []
  mean : Option Nat := none
  /-- 60 s, runs in every state (R95) -/
  binTimer : Nat := 6000
  rejectedRun : Nat := 0
  recoveryRun : Nat := 0
  checkFailures : Nat := 0
  rejected : Nat := 0
  deriving DecidableEq, Repr

/-- A crane's wind record: governing items (R98) and stage items (R104), with their values after
power-on (R103, R118). -/
structure Wind where
  source : Source := .none
  gust : Option Nat := none
  mean : Option Nat := none
  blind : Bool := true
  stage : Stage := .calm
  holdTimer : Timer := none
  deriving DecidableEq, Repr

/-! ## Position Monitor (chapter 2) -/

/-- A last report, after clamping and the PARKED rule (R22, R25). -/
structure Report where
  mode : Mode
  angle : Nat
  rate : Int
  radius : Nat
  deriving DecidableEq, Repr

/-- An envelope: an arc [lo, hi] clockwise, or the full circle (R22, R29, R30). -/
inductive Envelope where
  | arc (lo hi : Nat)
  | full
  deriving DecidableEq, Repr

/-- A crane position record (R22) with its values after every reset (R42). -/
structure Position where
  report : Option Report := none
  envelope : Option Envelope := none
  stopReach : Nat := 0
  windMargin : Nat := 0
  /-- the occupied zones, ascending; a zone's occupant set is the other view of the same fact -/
  occupied : List ZoneId := []
  unheld : Bool := false
  cw : Nat := 0
  ccw : Nat := 0
  timer : Timer := none
  silent : Bool := false
  deriving DecidableEq, Repr

/-! ## Zone Arbiter (chapters 1, 3 and 4) -/

/-- A footprint (R2): a JIB footprint carries no r_min. -/
inductive Footprint where
  | jib (lo hi : Nat)
  | hook (lo hi rMin : Nat)
  deriving DecidableEq, Repr

/-- A zone's static record (R1) with its values after power-on (R19). -/
structure ZoneRecord where
  kind : ZoneKind := .shared
  preemptible : Bool := false
  queueing : Bool := true
  /-- seconds, 5 to 120 -/
  yieldTime : Nat := 60
  /-- seconds, 0 to 30 -/
  deadTime : Nat := 10
  footprints : Table (Option Footprint) 6 := Vector.replicate 6 none
  deriving DecidableEq, Repr

/-- A yield demand (R67): its target level and its timer, `none` once expired (R75). -/
structure Demand where
  target : Nat
  timer : Timer
  deriving DecidableEq, Repr

/-- What a zone carries exactly while it is HELD (R4). -/
structure Holding where
  holder : CraneId
  level : Nat
  emergency : Bool
  demand : Option Demand
  deriving DecidableEq, Repr

/-- The dynamic state of a zone (R4): holder, grant level, emergency mark and demand exist only
while HELD, the handover timer only in HANDOVER. -/
inductive ZoneState where
  | free
  | held (h : Holding)
  | handover (left : Nat)
  | closed
  deriving DecidableEq, Repr

/-- A queued claim (R43). -/
structure Claim where
  crane : CraneId
  level : Nat
  booked : Bool
  emergency : Bool
  arrival : Nat
  deriving DecidableEq, Repr

/-- The dynamic items of a zone (R4) with their values after power-on (R19). -/
structure ZoneDyn where
  state : ZoneState := .free
  /-- head first (R44) -/
  queue : List Claim := []
  openedFor : Option Nat := none
  mark : Bool := false
  deriving DecidableEq, Repr

/-! ## Booking Calendar (chapters 8 and 9) -/

/-- The site clock (R135) with its values after power-on (R142). -/
structure Clock where
  mode : ClockMode := .invalid
  weekday : Nat := 0
  minute : Nat := 0
  second : Nat := 0
  timer : Timer := none
  deriving DecidableEq, Repr

/-- A booking record (R143). -/
structure Booking where
  id : Nat
  crane : CraneId
  /-- `none` is ANY -/
  weekday : Option Nat
  start : Nat
  duration : Nat
  level : Nat
  windLimit : Option Nat
  /-- in the order given at admission -/
  zones : List ZoneId
  opens : Bool
  recurring : Bool
  state : BookingState
  remaining : Nat
  short : Bool
  notPlaced : Nat
  terminalOrder : Nat
  deriving DecidableEq, Repr

/-! ## Permit Unit (chapter 7) -/

/-- A crane's configuration (R120), after clamping. -/
structure CraneConfig where
  base : Nat
  stopTime : Nat
  margin : Nat
  windGain : Nat
  windMax : Nat
  reportTime : Nat
  primary : ChannelId
  fallback : Option ChannelId
  fbm : Nat
  caution : Nat
  restrict : Nat
  stop : Nat
  stopMean : Nat
  hysteresis : Nat
  holdCaution : Nat
  holdRestrict : Nat
  holdStop : Nat
  stowTime : Nat
  restrictFactor : Nat
  deriving DecidableEq, Repr

/-- A permit record (R119); the values given here are those of a record just made (R121 stage 1). -/
structure Permit where
  config : CraneConfig
  state : PermitState := .offline
  latched : Table Bool 6 := Vector.replicate 6 false
  maskIntrusion : Bool := false
  maskSensorLoss : Bool := false
  factor : Nat := 0
  suspended : Bool := false
  stowTimer : Timer := none
  stowOverdue : Bool := false
  stowedNote : Bool := false
  deriving DecidableEq, Repr

/-! ## The whole part -/

/-- The state of the part. `pending` and `choice` are the model's own fields: the queue of commands
that wait, and the number of open orders taken so far (log entry 8). -/
structure State where
  links : Table Link 7
  boxes : Table NoticeBox 6
  lines : Table Receiver 8
  flags : Table Bool 10
  enables : Table Bool 10
  restart : RestartKind
  channels : Table Channel 8
  winds : Table Wind 6
  positions : Table Position 6
  active : Table ZoneRecord 48
  shadow : Table ZoneRecord 48
  zones : Table ZoneDyn 48
  arrivals : Nat
  clock : Clock
  leadTime : Nat
  bookings : List Booking
  nextId : Nat
  terminals : Nat
  permits : Table (Option Permit) 6
  choice : Nat
  pending : List Instr
  deriving DecidableEq, Repr

/-- The part right after power-on or a low level on RESET (R179 and the reset rules it gathers:
R19, R42, R66, R86, R102, R103, R118, R134, R142, R160, R172, R173). -/
def State.reset : State where
  links := Vector.replicate 7 {}
  boxes := Vector.replicate 6 {}
  lines := Vector.replicate 8 .hunt
  flags := (Vector.replicate 10 false).set 0 true
  enables := Vector.replicate 10 false
  restart := .power
  channels := Vector.replicate 8 {}
  winds := Vector.replicate 6 {}
  positions := Vector.replicate 6 {}
  active := Vector.replicate 48 {}
  shadow := Vector.replicate 48 {}
  zones := Vector.replicate 48 {}
  arrivals := 0
  clock := {}
  leadTime := 10
  bookings := []
  nextId := 1
  terminals := 0
  permits := Vector.replicate 6 none
  choice := 0
  pending := []

end Sys2Proof.Machine
end

