-- ==== Sys2Proof/Machine/Codes.lean ====
section
/-! DEFINITION. The coding of fields, notices and frames (R162, R163). Enumerated values are coded 0
upward in the order of their owning rule; multi-byte fields go most significant byte first. -/

namespace Sys2Proof.Machine

/-- A one-byte field. -/
def byte (n : Nat) : List Byte := [BitVec.ofNat 8 n]

/-- A two-byte field, most significant byte first (R162). -/
def twoBytes (n : Nat) : List Byte := [BitVec.ofNat 8 (n / 256), BitVec.ofNat 8 n]

/-- A signed two-byte field in two's complement, as the slew rate is (R162). -/
def signedBytes (i : Int) : List Byte := twoBytes (i % 65536).toNat

/-- A yes/no field: yes is 1, no is 0 (R162). -/
def yesNo (b : Bool) : List Byte := byte (if b then 1 else 0)

/-- A one-byte field that may be absent, coded FF when absent (R162). -/
def byteOr (o : Option Nat) : List Byte := byte (o.getD 0xFF)

/-- A two-byte field that may be absent, coded FFFF when absent (R162). -/
def twoBytesOr (o : Option Nat) : List Byte := twoBytes (o.getD 0xFFFF)

/-- A list: its number of members and its members (R168). -/
def counted {α : Type} (f : α → List Byte) (xs : List α) : List Byte :=
  byte xs.length ++ xs.flatMap f

def Result.code : Result → Nat
  | .ok => 0 | .granted => 1 | .queued => 2 | .pending => 3 | .length => 4 | .unknownKind => 5
  | .badField => 6 | .notConfigured => 7 | .wrongPort => 8 | .notRegistered => 9 | .noArea => 10
  | .wrongState => 11 | .noFootprint => 12 | .zoneClosed => 13 | .zoneBusy => 14
  | .duplicate => 15 | .claimLimit => 16 | .windRestricted => 17 | .notQueued => 18
  | .notHolder => 19 | .releaseOccupied => 20 | .applyPending => 21 | .areaOverlap => 22
  | .bookingConflict => 23 | .tableFull => 24 | .badWindow => 25 | .clockInvalid => 26
  | .latched => 27 | .silent => 28 | .occupiesUnheld => 29 | .nothingLatched => 30
  | .craneActive => 31

def PermitState.code : PermitState → Nat
  | .offline => 0 | .disarmed => 1 | .running => 2 | .derated => 3 | .halted => 4 | .stowing => 5
  | .stowed => 6

def Mode.code : Mode → Nat
  | .inService => 0 | .parked => 1 | .freeSlew => 2

def ZoneKind.code : ZoneKind → Nat
  | .shared => 0 | .excluded => 1

/-- Queueing, an enumerated field in the order of R1: on is 0, off is 1 (R162). -/
def queueingCode (on : Bool) : Nat := if on then 0 else 1

def RestartKind.code : RestartKind → Nat
  | .none => 0 | .power => 1 | .cold => 2

def BookingState.code : BookingState → Nat
  | .booked => 0 | .armed => 1 | .active => 2 | .suspended => 3 | .done => 4 | .lapsed => 5
  | .cancelled => 6

def BookingCause.code : BookingCause → Nat
  | .tick => 0 | .jump => 1 | .admission => 2 | .wind => 3 | .stage => 4 | .blind => 5
  | .liftDone => 6 | .cancel => 7 | .lapse => 8 | .restart => 9

def StageCause.code : StageCause → Nat
  | .gust => 0 | .mean => 1 | .blind => 2 | .hold => 3

def DropReason.code : DropReason → Nat
  | .bookingEnd => 0 | .admission => 1 | .geometry => 2 | .planner => 3

def ChannelState.code : ChannelState → Nat
  | .noSignal => 0 | .live => 1 | .stale => 2 | .faulted => 3

/-- PRIMARY, FALLBACK, none in the order of R98 (R162). -/
def Source.code : Source → Nat
  | .primary => 0 | .fallback => 1 | .none => 2

def ClockMode.code : ClockMode → Nat
  | .invalid => 0 | .running => 1 | .held => 2

/-- FREE, HELD, HANDOVER, CLOSED in the order of R4. -/
def ZoneState.code : ZoneState → Nat
  | .free => 0
  | .held _ => 1
  | .handover _ => 2
  | .closed => 3

/-- A set of trip causes: six yes/no bytes in the order of the trip-cause table (R162). -/
def causeBytes (t : Table Bool 6) : List Byte := t.toList.flatMap yesNo

/-- Notice kinds 0 to 7 (R163). -/
def Notice.kind : Notice → Nat
  | .grant .. => 0
  | .revoked .. => 1
  | .yield .. => 2
  | .yieldCancel .. => 3
  | .claimDropped .. => 4
  | .trip .. => 5
  | .stage .. => 6
  | .booking .. => 7

/-- A notice's body (R163, with R56, R61, R69, R71, R58, R126, R111, R155). -/
def Notice.body : Notice → List Byte
  | .grant z level em => byte (zoneNumber z) ++ byte level ++ yesNo em
  | .revoked z => byte (zoneNumber z)
  | .yield z time target level em =>
      byte (zoneNumber z) ++ byte time ++ byte target ++ byte level ++ yesNo em
  | .yieldCancel z level => byte (zoneNumber z) ++ byte level
  | .claimDropped z reason => byte (zoneNumber z) ++ byte reason.code
  | .trip cause latched permit factor =>
      byte cause.idx ++ causeBytes latched ++ byte permit.code ++ byte factor
  | .stage new old cause gust mean blind =>
      byte new.rank ++ byte old.rank ++ byte cause.code ++ twoBytesOr gust ++ twoBytesOr mean
        ++ yesNo blind
  | .booking id new old cause remaining short notPlaced =>
      byte id ++ byte new.code ++ byte old.code ++ byte cause.code ++ byte remaining ++ yesNo short
        ++ byte notPlaced

/-- One bit of the CRC-16 of R162: polynomial 0x1021, most significant bit first. -/
def crcBit (crc : BitVec 16) : BitVec 16 :=
  if crc.msb then (crc <<< 1) ^^^ 0x1021#16 else crc <<< 1

/-- One byte of the CRC-16. -/
def crcByte (crc : BitVec 16) (b : Byte) : BitVec 16 :=
  Nat.repeat crcBit 8 (crc ^^^ (b.setWidth 16 <<< 8))

/-- The CRC-16 of R162: initial value 0xFFFF, no final inversion. -/
def crc16 (bytes : List Byte) : BitVec 16 := bytes.foldl crcByte 0xFFFF#16

/-- A frame's bytes behind the sync byte: length, kind, tag, body, CRC over all of these (R162). -/
def afterSync (length : Nat) (kind tag : Byte) (body : List Byte) : List Byte :=
  let inner := byte length ++ [kind, tag] ++ body
  inner ++ twoBytes (crc16 inner).toNat

/-- A frame as its bytes go out (R162). -/
def wire (length : Nat) (kind tag : Byte) (body : List Byte) : List Byte :=
  0xC3#8 :: afterSync length kind tag body

/-- The result byte: the code in the low seven bits, the NOTICE_LOSS flag on top (R162, R171). -/
def Response.resultByte (r : Response) : Byte :=
  BitVec.ofNat 8 (r.result.code + if r.loss then 128 else 0)

/-- A response frame: kind + 0x80 modulo 256, the tag echoed, the result byte, the body (R162). -/
def Response.wire (r : Response) : List Byte :=
  Machine.wire (r.body.length + 1) (r.kind + 0x80#8) r.tag (r.resultByte :: r.body)

/-- A notice frame: 0x40 + notice kind, tag 0 (R162). -/
def Notice.wire (n : Notice) : List Byte :=
  Machine.wire n.body.length (BitVec.ofNat 8 (0x40 + n.kind)) 0#8 n.body

/-- The bytes of the frame a transmitter is sending; none while it is idle (R167). -/
def Transmitter.wire : Transmitter → List Byte
  | .idle => []
  | .response r => r.wire
  | .notice n => n.wire

/-- The bytes of a request frame behind its sync byte (R162). Of one with a body above 60 bytes it is the
length byte alone, at which the frame ends (R164; log entry 6). -/
def requestBytes (f : Frame) : List Byte :=
  if 60 < f.body.length then byte (min 255 f.body.length)
  else afterSync f.body.length f.kind f.tag f.body

/-- The check character of a sample frame: the exclusive-or of its start character, speed and status
(R88, R162). -/
def sampleCheck (hi lo status : Byte) : Byte := 0xA5#8 ^^^ hi ^^^ lo ^^^ status

/-- The bytes of a sample frame behind its start character: speed, status, check (R88, R162). -/
def sampleBytes (speed : BitVec 16) (status : Byte) : List Byte :=
  let hi := BitVec.ofNat 8 (speed.toNat / 256)
  let lo := BitVec.ofNat 8 speed.toNat
  [hi, lo, status, sampleCheck hi lo status]

/-- An anemometer sample frame as its bytes come (R162). -/
def sampleWire (speed : BitVec 16) (status : Byte) : List Byte := 0xA5#8 :: sampleBytes speed status

/-! ## Bytes of a frame as a receiver collects them (R164) -/

/-- What the bytes collected since a sync byte come to. -/
inductive Reception where
  /-- more bytes are to come -/
  | more
  /-- the length byte is above 60 -/
  | oversize
  /-- the last byte has come, and the CRC does not match -/
  | damaged
  /-- the last byte has come, and the CRC matches -/
  | request (f : Frame)
  deriving DecidableEq, Repr

/-- The bytes since the sync byte judged: the length byte first, then L + 4 further bytes, of which the
last two are the CRC over all before them (R162, R164). -/
def receptionOf : List Byte → Reception
  | [] => .more
  | len :: rest =>
    if 60 < len.toNat then .oversize
    else if rest.length < len.toNat + 4 then .more
    else
      let covered := len :: rest.take (len.toNat + 2)
      if rest.drop (len.toNat + 2) = twoBytes (crc16 covered).toNat then
        .request
          { kind := rest.getD 0 0x00#8, tag := rest.getD 1 0x00#8, body := (rest.drop 2).take len.toNat }
      else .damaged

end Sys2Proof.Machine
end

