-- ==== Sys2Proof/Machine/Operands.lean ====
section
/-! DEFINITION. The bodies of request frames: how each field is read (R162, R163), which values are
refused and which are clamped (the rule that owns each request), and the bodies written out. -/

namespace Sys2Proof.Machine

/-! ## Fields -/

/-- The one-byte field at offset `i`. -/
def byteAt (b : List Byte) (i : Nat) : Nat := (b.getD i 0).toNat

/-- The two-byte field at offset `i`, most significant byte first (R162). -/
def wordAt (b : List Byte) (i : Nat) : Nat := 256 * byteAt b i + byteAt b (i + 1)

/-- The signed two-byte field at offset `i`, two's complement (R162). -/
def signedAt (b : List Byte) (i : Nat) : Int :=
  if wordAt b i < 32768 then wordAt b i else (wordAt b i : Int) - 65536

/-- A clamped field: brought to the nearest end of its range (00_scope, "Refusals and clamps"). -/
def clamp (lo hi x : Nat) : Nat := max lo (min hi x)

/-- A yes/no field: 1 is yes and 0 is no; any other value is none of its values (R162). -/
def flagOf : Nat → Option Bool
  | 0 => some false
  | 1 => some true
  | _ => none

/-- A zone number 1 to 48 (R1). -/
def zoneOf (n : Nat) : Option ZoneId := if h : n - 1 < 48 ∧ 0 < n then some ⟨n - 1, h.1⟩ else none

/-- A crane number 1 to 6. -/
def craneOf (n : Nat) : Option CraneId := if h : n - 1 < 6 ∧ 0 < n then some ⟨n - 1, h.1⟩ else none

/-- A channel number 0 to 7. -/
def channelOf (n : Nat) : Option ChannelId := if h : n < 8 then some ⟨n, h⟩ else none

/-- A fallback channel, 0 to 7 or none, which is coded FF (R98, R162); the outer `none` is a value
that is neither. -/
def fallbackOf (n : Nat) : Option (Option ChannelId) :=
  if n = 255 then some none else (channelOf n).map some

/-! ## REPORT (R24, R25) -/

def modeOf : Nat → Option Mode
  | 0 => some .inService
  | 1 => some .parked
  | 2 => some .freeSlew
  | _ => none

/-- The rate as it is stored: clamped to −100 to +100, and 0 when PARKED (R25). -/
def storedRate (m : Mode) (rate : Int) : Int :=
  if m = .parked then 0 else max (-100) (min 100 rate)

/-- The report a REPORT body gives; `none` is BAD_FIELD (R24). -/
def reportOf (b : List Byte) : Option Report :=
  match modeOf (byteAt b 0) with
  | none => none
  | some m =>
    if 3600 ≤ wordAt b 1 then none
    else some
      { mode := m, angle := wordAt b 1, rate := storedRate m (signedAt b 3), radius := min 1200 (wordAt b 5) }

/-- The body of a REPORT. -/
def reportBody (r : Report) : List Byte :=
  byte r.mode.code ++ twoBytes r.angle ++ signedBytes r.rate ++ twoBytes r.radius

/-! ## CONFIG_CRANE (R120, R105, R98, R23) -/

/-- The restrict factor: 0 selects 50, any other value is clamped to 10 to 90 (R120). -/
def restrictFactorOf (n : Nat) : Nat := if n = 0 then 50 else clamp 10 90 n

/-- The configuration that a CONFIG_CRANE body gives after clamping; `none` is BAD_FIELD for a
channel out of range or misordered thresholds (R120). -/
def configOf (b : List Byte) : Option CraneConfig :=
  match channelOf (byteAt b 9), fallbackOf (byteAt b 10) with
  | some prim, some fb =>
    let g : CraneConfig :=
      { base := min 3 (byteAt b 1)
        stopTime := clamp 1 200 (byteAt b 2)
        margin := min 300 (wordAt b 3)
        windGain := min 50 (byteAt b 5)
        windMax := min 600 (wordAt b 6)
        reportTime := clamp 5 50 (byteAt b 8)
        primary := prim
        fallback := fb
        fbm := min 100 (byteAt b 11)
        caution := clamp 50 500 (wordAt b 12)
        restrict := clamp 50 500 (wordAt b 14)
        stop := clamp 50 500 (wordAt b 16)
        stopMean := clamp 50 500 (wordAt b 18)
        hysteresis := min 50 (byteAt b 20)
        holdCaution := clamp 10 1800 (wordAt b 21)
        holdRestrict := clamp 10 1800 (wordAt b 23)
        holdStop := clamp 10 1800 (wordAt b 25)
        stowTime := clamp 30 600 (wordAt b 27)
        restrictFactor := restrictFactorOf (byteAt b 29) }
    if g.caution < g.restrict ∧ g.restrict < g.stop then some g else none
  | _, _ => none

/-- The fields of R120 in their order, as a request carries them and CRANE_STATUS reports them. -/
def configBody (c : CraneId) (g : CraneConfig) : List Byte :=
  byte (craneNumber c) ++ byte g.base ++ byte g.stopTime ++ twoBytes g.margin ++ byte g.windGain
    ++ twoBytes g.windMax ++ byte g.reportTime ++ byte g.primary.val
    ++ byteOr (g.fallback.map Fin.val) ++ byte g.fbm ++ twoBytes g.caution ++ twoBytes g.restrict
    ++ twoBytes g.stop ++ twoBytes g.stopMean ++ byte g.hysteresis ++ twoBytes g.holdCaution
    ++ twoBytes g.holdRestrict ++ twoBytes g.holdStop ++ twoBytes g.stowTime ++ byte g.restrictFactor

/-! ## STAGE_ZONE (R12) -/

def zoneKindOf : Nat → Option ZoneKind
  | 0 => some .shared
  | 1 => some .excluded
  | _ => none

/-- A queueing field: 0 is on and 1 is off, in the order of R1 (R162). -/
def queueingOf (n : Nat) : Option Bool := (flagOf n).map (!·)

/-- The footprint at offset `i`: absent, or present with kind, lo, hi and, for HOOK, r_min clamped;
the outer `none` is BAD_FIELD (R12). An absent footprint's other bytes are not examined. -/
def footprintAt (b : List Byte) (i : Nat) : Option (Option Footprint) :=
  match flagOf (byteAt b i) with
  | none => none
  | some false => some none
  | some true =>
    let lo := wordAt b (i + 2)
    let hi := wordAt b (i + 4)
    if 3600 ≤ lo ∨ 3600 ≤ hi then none
    else match byteAt b (i + 1) with
      | 0 => some (some (.jib lo hi))
      | 1 => some (some (.hook lo hi (min 1200 (wordAt b (i + 6)))))
      | _ => none

/-- The record that a STAGE_ZONE body gives; `none` is BAD_FIELD (R12). -/
def zoneRecordOf (b : List Byte) : Option ZoneRecord :=
  match zoneKindOf (byteAt b 1), flagOf (byteAt b 2), queueingOf (byteAt b 3),
      footprintAt b 6, footprintAt b 14, footprintAt b 22, footprintAt b 30, footprintAt b 38,
      footprintAt b 46 with
  | some kind, some pre, some que, some f1, some f2, some f3, some f4, some f5, some f6 =>
    some
      { kind := kind, preemptible := pre, queueing := que, yieldTime := clamp 5 120 (byteAt b 4),
        deadTime := min 30 (byteAt b 5), footprints := #v[f1, f2, f3, f4, f5, f6] }
  | _, _, _, _, _, _, _, _, _ => none

/-- A footprint field: present, kind, lo, hi, r_min, the form of STAGE_ZONE (R163); an absent value is coded by
R162. R178 gives no form for the footprints of the records in ZONE_STATUS, and the model gives them this one,
the present byte included. DESIGN CHOICE, log entry 13. -/
def footprintBytes : Option Footprint → List Byte
  | none => yesNo false ++ byteOr none ++ twoBytesOr none ++ twoBytesOr none ++ twoBytesOr none
  | some (.jib lo hi) => yesNo true ++ byte 0 ++ twoBytes lo ++ twoBytes hi ++ twoBytesOr none
  | some (.hook lo hi rMin) => yesNo true ++ byte 1 ++ twoBytes lo ++ twoBytes hi ++ twoBytes rMin

/-- A zone record in the order of R1. -/
def recordBytes (r : ZoneRecord) : List Byte :=
  byte r.kind.code ++ yesNo r.preemptible ++ byte (queueingCode r.queueing) ++ byte r.yieldTime ++ byte r.deadTime
    ++ r.footprints.toList.flatMap footprintBytes

/-- The body of a STAGE_ZONE. -/
def stageZoneBody (z : ZoneId) (r : ZoneRecord) : List Byte := byte (zoneNumber z) ++ recordBytes r

/-! ## BOOK (R145) -/

/-- A weekday field: 0 to 6, or ANY, which is coded 7 (R162); the outer `none` is BAD_FIELD. -/
def weekdayOf (n : Nat) : Option (Option Nat) :=
  if n < 7 then some (some n) else if n = 7 then some none else none

/-- The zones of a BOOK body, as many as its zone count says; `none` is BAD_FIELD (R145, R163). -/
def zonesOf (b : List Byte) (n : Nat) : Option (List ZoneId) :=
  (List.range n).mapM fun i => zoneOf (byteAt b (9 + i))

/-- The figures of a BOOK body that passed its first row; duration and window are judged later. -/
structure BookFields where
  crane : CraneId
  weekday : Option Nat
  start : Nat
  duration : Nat
  level : Nat
  /-- 0 is absent -/
  windLimit : Nat
  zones : List ZoneId
  opens : Bool
  recurring : Bool
  deriving DecidableEq, Repr

/-- The fields of a BOOK body; `none` is BAD_FIELD (first row of R145). -/
def bookOf (b : List Byte) : Option BookFields :=
  match craneOf (byteAt b 0), weekdayOf (byteAt b 1), flagOf (byteAt b 17), flagOf (byteAt b 18),
      zonesOf b (byteAt b 8) with
  | some c, some w, some opens, some rec, some zs =>
    if 1439 < wordAt b 2 ∨ byteAt b 8 < 1 ∨ 8 < byteAt b 8 ∨ ¬ zs.Nodup then none
    else some
      { crane := c, weekday := w, start := wordAt b 2, duration := byteAt b 4, level := byteAt b 5,
        windLimit := wordAt b 6, zones := zs, opens := opens, recurring := rec }
  | _, _, _, _, _ => none

/-- The body of a BOOK. -/
def bookBody (f : BookFields) : List Byte :=
  byte (craneNumber f.crane) ++ byte (f.weekday.getD 7) ++ twoBytes f.start ++ byte f.duration
    ++ byte f.level ++ twoBytes f.windLimit ++ byte f.zones.length
    ++ (f.zones.flatMap fun z => byte (zoneNumber z)) ++ List.replicate (8 - f.zones.length) 0#8
    ++ yesNo f.opens ++ yesNo f.recurring

/-- The booking record that the fields give at admission: level clamped to 4 to 6, a present wind
limit clamped to 50 to the crane's St (R145). -/
def BookFields.booking (f : BookFields) (stop : Nat) : Booking :=
  { id := 0, crane := f.crane, weekday := f.weekday, start := f.start, duration := f.duration,
    level := clamp 4 6 f.level,
    windLimit := if f.windLimit = 0 then none else some (clamp 50 stop f.windLimit),
    zones := f.zones, opens := f.opens, recurring := f.recurring, state := .booked, remaining := 0,
    short := false, notPlaced := 0, terminalOrder := 0 }

/-! ## CONFIG_AREAS (R169) -/

/-- The six areas of a CONFIG_AREAS body: start and end of each. -/
def areasOf (b : List Byte) : List (Nat × Nat) :=
  (List.range 6).map fun i => (wordAt b (4 * i), wordAt b (4 * i + 2))

/-- The body of a CONFIG_AREAS. -/
def areasBody (areas : List (Nat × Nat)) : List Byte :=
  areas.flatMap fun a => twoBytes a.1 ++ twoBytes a.2

end Sys2Proof.Machine
end

