-- ==== Sys2Proof/Machine/Geometry.lean ====
section
/-! DEFINITION. Arc, envelope and slew-room arithmetic of the Position Monitor (00_scope "Arcs",
R2, R27 to R33): functions of plain figures. -/

namespace Sys2Proof.Machine

/-- "a mod 3600": the remainder in 0 to 3599, also for negative a (00_scope, "Arithmetic"). -/
def mod3600 (a : Int) : Nat := (a % 3600).toNat

/-- Arc [lo, hi] contains angle x (00_scope, "Arcs"). -/
def arcContains (lo hi x : Nat) : Bool :=
  mod3600 ((x : Int) - lo) ≤ mod3600 ((hi : Int) - lo)

/-- Two arcs intersect when either contains the other's lo (00_scope, "Arcs"; R31). -/
def arcsIntersect (lo hi lo' hi' : Nat) : Bool :=
  arcContains lo hi lo' || arcContains lo' hi' lo

/-- ceil(a / b) for b above 0. -/
def ceilDiv (a b : Nat) : Nat := (a + (b - 1)) / b

/-- The stop reach S = ceil(|rate| × T / 20) (R27). -/
def stopReachOf (rate : Int) (stopTime : Nat) : Nat := ceilDiv (rate.natAbs * stopTime) 20

/-- The wind margin W (R28). Where the crane is not blind its governing gust is present; an absent
gust then counts as 0. -/
def windMarginOf (blind : Bool) (gust : Option Nat) (caution gain cap : Nat) : Nat :=
  if blind then cap
  else if gust.getD 0 ≤ caution then 0
  else min cap (ceilDiv ((gust.getD 0 - caution) * gain) 10)

/-- The envelope of a last report with stop reach `reach` and margin M + W `margin` (R29, R30). -/
def envelopeOf (r : Report) (reach margin : Nat) : Envelope :=
  let fwd := reach + margin
  let back := margin
  if r.mode = .freeSlew then .full
  else if 3599 ≤ fwd + back then .full
  else if 0 ≤ r.rate then
    .arc (mod3600 ((r.angle : Int) - back)) (mod3600 ((r.angle : Int) + fwd))
  else
    .arc (mod3600 ((r.angle : Int) - fwd)) (mod3600 ((r.angle : Int) + back))

/-- The arc of a footprint (R2). -/
def Footprint.lo : Footprint → Nat
  | .jib lo _ => lo
  | .hook lo _ _ => lo

/-- The arc of a footprint (R2). -/
def Footprint.hi : Footprint → Nat
  | .jib _ hi => hi
  | .hook _ hi _ => hi

/-- Whether a present footprint applies under a last report (R31). -/
def Footprint.appliesTo (f : Footprint) (r : Report) : Bool :=
  match f with
  | .jib _ _ => true
  | .hook _ _ rMin => r.mode != .freeSlew && rMin ≤ r.radius

/-- Whether an envelope meets a footprint's arc (R31); the full circle meets every arc. -/
def Envelope.meets (e : Envelope) (f : Footprint) : Bool :=
  match e with
  | .full => true
  | .arc lo hi => arcsIntersect lo hi f.lo f.hi

/-- The least of a list of distances less the margin, floored at 0 and capped at 1800; 1800 with no
distance at all (R33 items 4 and 5). -/
def roomOf (margin : Nat) (distances : List Nat) : Nat :=
  match distances.min? with
  | none => 1800
  | some d => min 1800 (d - margin)

/-- The clockwise room past the blocking footprints (R33). -/
def cwRoom (angle margin : Nat) (blocking : List Footprint) : Nat :=
  roomOf margin (blocking.map fun f => mod3600 ((f.lo : Int) - angle))

/-- The counter-clockwise room past the blocking footprints (R33). -/
def ccwRoom (angle margin : Nat) (blocking : List Footprint) : Nat :=
  roomOf margin (blocking.map fun f => mod3600 ((angle : Int) - f.hi))

end Sys2Proof.Machine
end

