-- ==== Sys2Proof/Machine/Flags.lean ====
section
/-! DEFINITION. The flags of the Port Controller: site event flags, ATTN, NOTICE_LOSS, and the
saturating counts (R87, R164, R166, R170, R173 to R175). -/

namespace Sys2Proof.Machine

/-- A site event is set; setting a set flag leaves it set (R173). -/
def State.setEvent (e : SiteEvent) (s : State) : State :=
  { s with flags := Table.edit s.flags e.idx fun _ => true }

/-- Whether a site event flag is set. -/
def State.event (e : SiteEvent) (s : State) : Bool := Table.entry s.flags e.idx

/-- The ATTN output: high exactly while some flag is set whose enable is yes (R175). -/
def State.attn (s : State) : Bool :=
  (List.finRange 10).any fun i => Table.entry s.flags i && Table.entry s.enables i

/-- Every site event flag clear and the restart kind NONE (R174). -/
def State.clearEvents (s : State) : State :=
  { s with flags := Vector.replicate 10 false, restart := .none }

/-- A count that runs 0 to 65535 and saturates (R87, R164, R166). -/
def saturate (n : Nat) : Nat := min 65535 (n + 1)

end Sys2Proof.Machine
end

