-- ==== Sys2Proof/Machine/Ops.lean ====
section
/-! DEFINITION. The named reads and writes of the records, the open orders, and the posting and
transmission of notices (R167, R170). -/

namespace Sys2Proof.Machine

/-! ## Reads -/

/-- The place of a port among the seven links: CP1 to CP6, then PP. -/
def linkIdx : Port → Fin 7
  | .crane c => c.castSucc
  | .planner => 6

def State.link (p : Port) (s : State) : Link := Table.entry s.links (linkIdx p)
def State.box (c : CraneId) (s : State) : NoticeBox := Table.entry s.boxes c
def State.line (l : ChannelId) (s : State) : Receiver := Table.entry s.lines l
def State.channel (k : ChannelId) (s : State) : Channel := Table.entry s.channels k
def State.wind (c : CraneId) (s : State) : Wind := Table.entry s.winds c
def State.position (c : CraneId) (s : State) : Position := Table.entry s.positions c
def State.zone (z : ZoneId) (s : State) : ZoneDyn := Table.entry s.zones z
def State.record (z : ZoneId) (s : State) : ZoneRecord := Table.entry s.active z
def State.shadowRecord (z : ZoneId) (s : State) : ZoneRecord := Table.entry s.shadow z
def State.permit (c : CraneId) (s : State) : Option Permit := Table.entry s.permits c

/-- The permit state of a configured crane, OFFLINE where there is no record. -/
def State.permitState (c : CraneId) (s : State) : PermitState :=
  match s.permit c with
  | some p => p.state
  | none => .offline

def State.bookingById (id : Nat) (s : State) : Option Booking := s.bookings.find? (·.id == id)

/-! ## Writes -/

def State.editLink (p : Port) (f : Link → Link) (s : State) : State :=
  { s with links := Table.edit s.links (linkIdx p) f }

def State.editBox (c : CraneId) (f : NoticeBox → NoticeBox) (s : State) : State :=
  { s with boxes := Table.edit s.boxes c f }

def State.setLine (l : ChannelId) (r : Receiver) (s : State) : State :=
  { s with lines := Table.edit s.lines l fun _ => r }

def State.editChannel (k : ChannelId) (f : Channel → Channel) (s : State) : State :=
  { s with channels := Table.edit s.channels k f }

def State.editWind (c : CraneId) (f : Wind → Wind) (s : State) : State :=
  { s with winds := Table.edit s.winds c f }

def State.editPosition (c : CraneId) (f : Position → Position) (s : State) : State :=
  { s with positions := Table.edit s.positions c f }

def State.editZone (z : ZoneId) (f : ZoneDyn → ZoneDyn) (s : State) : State :=
  { s with zones := Table.edit s.zones z f }

/-- Acts on a crane's permit record where it has one. -/
def State.editPermit (c : CraneId) (f : Permit → Permit) (s : State) : State :=
  { s with permits := Table.edit s.permits c (Option.map f) }

/-- Acts on every booking entry with the id (ids are given once, R144). -/
def State.editBooking (id : Nat) (f : Booking → Booking) (s : State) : State :=
  { s with bookings := s.bookings.map fun b => if b.id == id then f b else b }

/-! ## Open orders (log entry 8) -/

/-- The items in the order the part takes them, where the manual leaves that order open: by
ascending rank of the free value `Config.rank`, numbered by the open orders taken so far. -/
def State.arranged {α : Type} (key : α → Nat) (xs : List α) (s : State) : List α :=
  xs.insertionSort fun a b => Config.rank s.choice (key a) ≤ Config.rank s.choice (key b)

/-- One more open order has been taken. -/
def State.chosen (s : State) : State := { s with choice := s.choice + 1 }

/-- The items acted on one after the other, in list order. -/
def State.each {α : Type} (xs : List α) (f : α → State → State) (s : State) : State :=
  xs.foldl (fun s x => f x s) s

/-- The items acted on one after the other, in the order left open by the manual. -/
def State.eachOpen {α : Type} (key : α → Nat) (xs : List α) (f : α → State → State)
    (s : State) : State :=
  s.chosen.each (s.arranged key xs) f

/-! ## Transmission and notices -/

/-- The start of a frame by an idle transmitter (R167): the response if the buffer is full, else the
oldest notice, which leaves its queue. No notice starts while the port's request is being taken. -/
def State.startTx (p : Port) (s : State) : State :=
  let l := s.link p
  if l.serving || l.tx != .idle then s
  else match l.buffer with
    | some r => s.editLink p fun l => { l with tx := .response r }
    | none =>
      match p with
      | .planner => s
      | .crane c =>
        match (s.box c).queue with
        | [] => s
        | n :: rest =>
          (s.editBox c fun b => { b with queue := rest }).editLink p fun l => { l with tx := .notice n }

/-- A notice is posted to a crane (R170): added at the newest end while the queue holds fewer than
its capacity, and lost otherwise, with the port's NOTICE_LOSS flag and the site event set. -/
def State.post (c : CraneId) (n : Notice) (s : State) : State :=
  let b := s.box c
  if b.queue.length < b.capacity then
    (s.editBox c fun b => { b with queue := b.queue ++ [n] }).startTx (.crane c)
  else
    (s.editBox c fun b => { b with loss := true }).setEvent .noticeLoss

end Sys2Proof.Machine
end

