-- ==== Sys2Proof/Machine/Zones.lean ====
section
/-! DEFINITION. The Zone Arbiter's reads, claim queues, levels and yield demands (chapters 1, 3, 4). -/

namespace Sys2Proof.Machine

/-- Every zone, in ascending order. -/
def allZones : List ZoneId := List.finRange 48

/-- Every crane, in ascending order. -/
def allCranes : List CraneId := List.finRange 6

/-! ## Reads -/

/-- The zone's active footprint for the crane (R3). -/
def State.footprint (z : ZoneId) (c : CraneId) (s : State) : Option Footprint :=
  Table.entry (s.record z).footprints c

/-- What a HELD zone carries (R4). -/
def ZoneState.holding : ZoneState → Option Holding
  | .held h => some h
  | _ => none

def State.holding (z : ZoneId) (s : State) : Option Holding := (s.zone z).state.holding

/-- The zone is HELD by the crane. -/
def State.heldBy (z : ZoneId) (c : CraneId) (s : State) : Bool :=
  match s.holding z with
  | some h => h.holder == c
  | none => false

/-- The crane is in the zone's occupant set (R22). -/
def State.occupies (c : CraneId) (z : ZoneId) (s : State) : Bool :=
  (s.position c).occupied.contains z

/-- The zone's occupant set holds a crane other than `c` (R53, R64). -/
def State.otherOccupant (z : ZoneId) (c : CraneId) (s : State) : Bool :=
  allCranes.any fun d => d != c && s.occupies d z

/-- The crane's claim in the zone's queue (R44: at most one). -/
def State.claimOf (z : ZoneId) (c : CraneId) (s : State) : Option Claim :=
  (s.zone z).queue.find? (·.crane == c)

def State.hasClaim (z : ZoneId) (c : CraneId) (s : State) : Bool := (s.claimOf z c).isSome

/-- The zones on which the crane has a queued claim, ascending. -/
def State.claimZones (c : CraneId) (s : State) : List ZoneId :=
  allZones.filter fun z => s.hasClaim z c

/-- The zones the crane holds, ascending. -/
def State.heldZones (c : CraneId) (s : State) : List ZoneId :=
  allZones.filter fun z => s.heldBy z c

/-- A booking in ARMED, ACTIVE or SUSPENDED (R47). -/
def BookingState.counts : BookingState → Bool
  | .armed | .active | .suspended => true
  | .booked | .done | .lapsed | .cancelled => false

/-- A booking in ACTIVE or SUSPENDED. -/
def BookingState.runs : BookingState → Bool
  | .active | .suspended => true
  | .booked | .armed | .done | .lapsed | .cancelled => false

/-- DONE, LAPSED and CANCELLED are terminal (R143). -/
def BookingState.terminal : BookingState → Bool
  | .done | .lapsed | .cancelled => true
  | .booked | .armed | .active | .suspended => false

/-- The zone is opened for a booking of the crane (R7). -/
def State.openedForCrane (z : ZoneId) (c : CraneId) (s : State) : Bool :=
  match (s.zone z).openedFor with
  | none => false
  | some id =>
    match s.bookingById id with
    | some b => b.crane == c
    | none => false

/-- Crane c is admitted to EXCLUDED zone z (R7). -/
def State.admitted (c : CraneId) (z : ZoneId) (s : State) : Bool :=
  s.openedForCrane z c ||
    s.bookings.any fun b => b.crane == c && b.opens && b.zones.contains z && b.state.counts

/-- A HELD EXCLUDED zone with no opened-for booking is closing (R10). -/
def State.closing (z : ZoneId) (s : State) : Bool :=
  (s.holding z).isSome && (s.record z).kind == .excluded && (s.zone z).openedFor.isNone

/-- A pending apply is one whose affected zones carry the apply-pending mark (R13, R14). -/
def State.markedZones (s : State) : List ZoneId := allZones.filter fun z => (s.zone z).mark

def State.applyPending (s : State) : Bool := allZones.any fun z => (s.zone z).mark

/-! ## Levels (R47) -/

/-- The base level of a crane: its configuration's. -/
def State.baseLevel (c : CraneId) (s : State) : Nat :=
  match s.permit c with
  | some p => p.config.base
  | none => 0

/-- The highest level of the crane's ARMED, ACTIVE and SUSPENDED bookings that list the zone. -/
def State.bookingLevel (c : CraneId) (z : ZoneId) (s : State) : Nat :=
  ((s.bookings.filter fun b => b.crane == c && b.state.counts && b.zones.contains z).map
    (·.level)).foldl max 0

/-- The level of a claim or grant of crane c on zone z (R47). -/
def State.levelFor (c : CraneId) (z : ZoneId) (emergency : Bool) (s : State) : Nat :=
  max (max (s.baseLevel c) (s.bookingLevel c z)) (if emergency then 7 else 0)

/-! ## The claim queue (R44, R45) -/

/-- `a` stands before `b`: by level descending, then by arrival sequence ascending (R44). -/
def Claim.before (a b : Claim) : Bool :=
  b.level < a.level || (b.level == a.level && a.arrival < b.arrival)

/-- A claim takes its place by the ordering key (R44). -/
def insertClaim (c : Claim) : List Claim → List Claim
  | [] => [c]
  | x :: xs => if c.before x then c :: x :: xs else x :: insertClaim c xs

/-- A queue without the crane's claim. -/
def dropCrane (c : CraneId) (q : List Claim) : List Claim := q.filter (·.crane != c)

/-- Every queued claim on the site. -/
def State.allClaims (s : State) : List Claim := s.zones.toList.flatMap (·.queue)

/-- The number of zones a crane holds plus the number of its queued claims (R46). -/
def State.countOf (c : CraneId) (s : State) : Nat :=
  (s.heldZones c).length + (s.allClaims.filter (·.crane == c)).length

/-- Renumbering at 65535 (R45): claims get 1, 2, 3 … in ascending order of their arrival sequences,
and the counter is the last number given. -/
def State.renumbered (s : State) : State :=
  let all := s.allClaims.map (·.arrival)
  { s with
    zones := Table.mapAll s.zones fun _ z =>
      { z with queue := z.queue.map fun c => { c with arrival := (all.filter (· ≤ c.arrival)).length } }
    arrivals := all.length }

/-- A new claim is placed (R45, R51): a new arrival sequence, the level of R47. -/
def State.place (z : ZoneId) (c : CraneId) (booked emergency : Bool) (s : State) : State :=
  let s := if 65535 ≤ s.arrivals then s.renumbered else s
  let claim : Claim :=
    { crane := c, level := s.levelFor c z emergency, booked := booked, emergency := emergency,
      arrival := s.arrivals + 1 }
  { s with arrivals := s.arrivals + 1 }.editZone z fun d => { d with queue := insertClaim claim d.queue }

/-! ## Grant conditions (R53) -/

/-- Every grant condition of R53 but the apply-pending mark (R51, second case). -/
def State.grantableButMark (c : CraneId) (z : ZoneId) (s : State) : Bool :=
  (s.zone z).state == .free
    && ((s.record z).kind == .shared || s.openedForCrane z c)
    && !s.otherOccupant z c
    && (match s.permitState c with
        | .disarmed | .running | .derated => true
        | .offline | .halted | .stowing | .stowed => false)
    && !(s.position c).silent

/-- Crane c may be granted zone z (R53). -/
def State.grantable (c : CraneId) (z : ZoneId) (s : State) : Bool :=
  s.grantableButMark c z && !(s.zone z).mark

/-- The first claim in queue order whose crane meets every grant condition (R54). -/
def State.firstEligible (z : ZoneId) (s : State) : Option Claim :=
  (s.zone z).queue.find? fun cl => s.grantable cl.crane z

/-- A zone granted to a queued claim (R56): HELD with the claim's level and emergency field, the claim
gone from the queue. -/
def ZoneDyn.grant (cl : Claim) (d : ZoneDyn) : ZoneDyn :=
  { d with
    state := .held { holder := cl.crane, level := cl.level, emergency := cl.emergency, demand := none }
    queue := dropCrane cl.crane d.queue }

/-- The grant itself (R56): a GRANT notice is posted unless the grant answers the crane's own CLAIM. -/
def State.grantTo (z : ZoneId) (cl : Claim) (notify : Bool) (s : State) : State :=
  let s := s.editZone z (ZoneDyn.grant cl)
  if notify then s.post cl.crane (.grant z cl.level cl.emergency) else s

/-! ## Yield demands (R67 to R71) -/

/-- A queued claim qualifies against the holder (R67). -/
def Claim.qualifies (level : Nat) (preemptible : Bool) (c : Claim) : Bool :=
  level < c.level && (preemptible || c.emergency)

/-- Seconds as timer units of 10 ms. -/
def seconds (n : Nat) : Nat := 100 * n

/-- Tenths of a second as timer units of 10 ms. -/
def tenths (n : Nat) : Nat := 10 * n

/-- The demand of a HELD zone is set. -/
def State.setDemand (z : ZoneId) (h : Holding) (d : Option Demand) (s : State) : State :=
  s.editZone z fun dyn => { dyn with state := .held { h with demand := d } }

/-- The examination of a HELD zone for its yield demand (R68): start (R69), continue (R70), cancel
(R71) or nothing. -/
def State.examine (z : ZoneId) (s : State) : State :=
  match s.holding z with
  | none => s
  | some h =>
    match (s.zone z).queue.find? (Claim.qualifies h.level (s.record z).preemptible), h.demand with
    | some q, none =>
      let time := (s.record z).yieldTime
      (s.setDemand z h (some { target := q.level, timer := some (seconds time) })).post h.holder
        (.yield z time q.level h.level q.emergency)
    | some q, some d => s.setDemand z h (some { d with target := q.level })
    | none, some _ => (s.setDemand z h none).post h.holder (.yieldCancel z h.level)
    | none, none => s

/-- The level of the crane's queued claim on a zone is recomputed and the claim moved (R44, R48). -/
def State.relevelClaim (c : CraneId) (z : ZoneId) (s : State) : State :=
  match s.claimOf z c with
  | none => s
  | some cl =>
    s.editZone z fun d =>
      { d with queue := insertClaim { cl with level := s.levelFor c z cl.emergency } (dropCrane c d.queue) }

/-- The level of the crane's grant of a zone is recomputed (R48). -/
def State.relevelGrant (c : CraneId) (z : ZoneId) (s : State) : State :=
  match s.holding z with
  | none => s
  | some h =>
    if h.holder == c then
      s.editZone z fun d => { d with state := .held { h with level := s.levelFor c z h.emergency } }
    else s

/-- The levels of a crane's claim and grant on one zone are recomputed, and the demand is examined when
a level changed (R48, R68). -/
def State.relevel (c : CraneId) (z : ZoneId) (s : State) : State :=
  let s' := (s.relevelClaim c z).relevelGrant c z
  if (s.claimOf z c).map (·.level) != (s'.claimOf z c).map (·.level)
      || (s.holding z).map (·.level) != (s'.holding z).map (·.level) then s'.examine z
  else s'

/-- The levels of a crane's claims and grants on the zones are recomputed (R48, R79: "zone by zone"). -/
def State.relevelAll (c : CraneId) (zs : List ZoneId) (s : State) : State :=
  s.eachOpen Fin.val zs (State.relevel c)

/-- The claims of the zone that meet `drop` are removed, each with a CLAIM_DROPPED notice, and the
zone is examined for its demand (R58). -/
def State.dropClaims (z : ZoneId) (drop : Claim → Bool) (reason : DropReason) (s : State) : State :=
  let gone := (s.zone z).queue.filter drop
  if gone.isEmpty then s
  else
    ((s.editZone z fun d => { d with queue := d.queue.filter fun c => !drop c }).each gone
      fun c s => s.post c.crane (.claimDropped z reason)).examine z

/-- The claims of cranes no longer admitted to an EXCLUDED zone are removed (R7). -/
def State.dropUnadmitted (z : ZoneId) (s : State) : State :=
  if (s.record z).kind == .excluded then
    s.dropClaims z (fun cl => !s.admitted cl.crane z) .admission
  else s

end Sys2Proof.Machine
end

