-- ==== Sys2Proof/Machine/Cascade.lean ====
section
/-! DEFINITION. Grant evaluation, recomputation and the latching of trip causes, which call one
another (R35, R36, R54 to R56, R125). They are the tasks of one agenda, first task first: a task's
own consequences stand before everything that was waiting, so each is "carried to its end, hand-offs
included, before the next" (R34, R55). The agenda is run by recursion on a bound that no run of it
can use up (run_finishes in Laws/Cascade.lean). -/

namespace Sys2Proof.Machine

/-- What can stand on the agenda. -/
inductive Task where
  /-- grant evaluation on a zone (R54) -/
  | evaluate (z : ZoneId)
  /-- recomputation of a crane, stages 1 and 2 (R35); its later stages follow as tasks -/
  | recompute (c : CraneId)
  /-- stage 3: one occupancy change handed to the Zone Arbiter (R36) -/
  | handOff (z : ZoneId) (c : CraneId) (entered : Bool)
  /-- stages 4 and 5: mark, rooms, and the judgement of ENCROACH (R33, R37) -/
  | judge (c : CraneId)
  /-- a trip cause is raised for a crane (R125) -/
  | raise (cause : Cause) (c : CraneId)
  /-- the yield demand conditions on a zone just granted (R56 stage 3) -/
  | examine (z : ZoneId)
  deriving DecidableEq, Repr

/-! ## Recomputation (R35) -/

/-- Crane c with this report and envelope is an occupant of zone z (R31). -/
def State.meetsZone (c : CraneId) (r : Report) (e : Envelope) (z : ZoneId) (s : State) : Bool :=
  match s.footprint z c with
  | none => false
  | some f => f.appliesTo r && e.meets f

/-- The new figures of stages 1 and 2: S, W, envelope and occupied zones (R27 to R32). -/
def State.newFigures (c : CraneId) (r : Report) (g : CraneConfig) (s : State) (p : Position) : Position :=
  let w := s.wind c
  let reach := stopReachOf r.rate g.stopTime
  let wm := windMarginOf w.blind w.gust g.caution g.windGain g.windMax
  let env := envelopeOf r reach (g.margin + wm)
  { p with
    stopReach := reach
    windMargin := wm
    envelope := some env
    occupied := allZones.filter fun z => s.meetsZone c r env z }

/-- The zones whose membership differs, each with whether the crane entered (R32). -/
def occupancyChanges (old new : List ZoneId) : List (ZoneId × Bool) :=
  (allZones.filter fun z => old.contains z != new.contains z).map fun z => (z, new.contains z)

/-- Stages 1 and 2 of a recomputation: the record is updated and the changes are collected. A crane
with no last report (or no configuration) has no envelope, and nothing is set (R34). -/
def State.recomputeStage (c : CraneId) (s : State) : Option (List (ZoneId × Bool) × State) :=
  match (s.position c).report, s.permit c with
  | some r, some p =>
    let pos := s.position c
    let pos' := s.newFigures c r p.config pos
    let changes := occupancyChanges pos.occupied pos'.occupied
    some (s.arranged (fun x => x.1.val) changes, (s.editPosition c fun _ => pos').chosen)
  | _, _ => none

/-- The footprints that block a crane's slew room (R33 item 3). -/
def State.blocking (c : CraneId) (r : Report) (s : State) : List Footprint :=
  allZones.filterMap fun z =>
    if s.heldBy z c then none
    else match s.footprint z c with
      | some f => if f.appliesTo r then some f else none
      | none => none

/-- The crane occupies at least one zone it does not hold (R32). -/
def State.occupiesUnheld (c : CraneId) (s : State) : Bool :=
  (s.position c).occupied.any fun z => !s.heldBy z c

/-- Stage 4: the occupies-unheld mark and the rooms, from the holdings as they stand (R33). -/
def State.judgeStage (c : CraneId) (s : State) : State :=
  let unheld := s.occupiesUnheld c
  match (s.position c).report, s.permit c with
  | some r, some p =>
    let margin := p.config.margin + (s.position c).windMargin
    let blocking := s.blocking c r
    s.editPosition c fun q =>
      { q with
        unheld := unheld
        cw := if unheld then 0 else cwRoom r.angle margin blocking
        ccw := if unheld then 0 else ccwRoom r.angle margin blocking }
  | _, _ => s

/-- The permit states in which ENCROACH is judged (R37). -/
def PermitState.encroachJudged : PermitState → Bool
  | .disarmed | .running | .derated | .halted => true
  | .offline | .stowing | .stowed => false

/-! ## Latching a cause (R125) -/

/-- The cause is masked for the crane: only INTRUSION and SENSOR_LOSS can be (R127). -/
def Permit.masks (p : Permit) : Cause → Bool
  | .intrusion => p.maskIntrusion
  | .sensorLoss => p.maskSensorLoss
  | .encroach | .silence | .yieldTimeout | .plannerHalt => false

/-- The cause is in the latched set. -/
def Permit.hasLatched (p : Permit) (cause : Cause) : Bool := Table.entry p.latched cause.idx

/-- No cause is latched. -/
def Permit.clear (p : Permit) : Bool := (List.finRange 6).all fun i => !Table.entry p.latched i

/-- The cause enters the latched set. -/
def Permit.latch (p : Permit) (cause : Cause) : Permit :=
  { p with latched := Table.edit p.latched cause.idx fun _ => true }

/-- The TRIP notice for a latch, from the record as it stands after it (R126). -/
def Permit.tripNotice (p : Permit) (cause : Cause) : Notice :=
  .trip cause p.latched p.state p.factor

/-- The latch that keeps the state: the cause and the notice (R125). -/
def State.latchKeep (cause : Cause) (c : CraneId) (p : Permit) (s : State) : State :=
  let p' := p.latch cause
  (s.editPermit c fun _ => p').post c (p'.tripNotice cause)

/-- The latch that halts: the cause, HALTED and factor 0, the notice, site event TRIP (R125). -/
def State.latchHalt (cause : Cause) (c : CraneId) (p : Permit) (s : State) : State :=
  let p' := { p.latch cause with state := .halted, factor := 0 }
  ((s.editPermit c fun _ => p').post c (p'.tripNotice cause)).setEvent .trip

/-- A raise of SILENCE for a registered crane sets site event SILENCE, latched or not (R125). -/
def State.silenceEvent (cause : Cause) (s : State) : State :=
  if cause = .silence then s.setEvent .silence else s

/-- A cause raised for a crane is taken by its permit state (R125). The Boolean says whether the
permit moved to HALTED, after which grant evaluation runs on the zones of the crane's claims. -/
def State.takeCause (cause : Cause) (c : CraneId) (s : State) : Bool × State :=
  match s.permit c with
  | none => (false, s)
  | some p =>
    match p.state with
    | .offline => (false, s)
    | .disarmed | .running | .derated =>
      if p.masks cause then (false, s.silenceEvent cause)
      else (true, (s.silenceEvent cause).latchHalt cause c p)
    | .halted | .stowing | .stowed =>
      if p.masks cause || p.hasLatched cause then (false, s.silenceEvent cause)
      else (false, (s.silenceEvent cause).latchKeep cause c p)

/-! ## The agenda -/

/-- A recomputation that a grant starts for a crane whose own recomputation is under way follows the
present one (R36): it is put right behind that crane's `judge`. -/
def deferRecompute (c : CraneId) : List Task → List Task
  | [] => []
  | t :: ts => if t = .judge c then t :: .recompute c :: ts else t :: deferRecompute c ts

/-- What follows a grant (R56 stages 2 and 3). -/
def afterGrant (z : ZoneId) (c : CraneId) (rest : List Task) : List Task :=
  if rest.contains (.judge c) then .examine z :: deferRecompute c rest
  else .recompute c :: .examine z :: rest

/-- What a hand-off starts in the Zone Arbiter (R36, R63): INTRUSION for the holder when another
crane entered its zone, and grant evaluation on a zone with a non-empty queue. -/
def State.handOffTasks (z : ZoneId) (d : CraneId) (entered : Bool) (s : State) : List Task :=
  (match s.holding z with
    | some h => if entered && h.holder != d then [.raise .intrusion h.holder] else []
    | none => [])
  ++ (if (s.zone z).queue.isEmpty then [] else [.evaluate z])

/-- Grant evaluation on every zone where the crane has a queued claim (R55), as tasks. -/
def State.claimTasks (c : CraneId) (s : State) : List Task :=
  (s.arranged Fin.val (s.claimZones c)).map .evaluate

/-- One task: the agenda after it, and the state after it. -/
def doTask (t : Task) (rest : List Task) (s : State) : List Task × State :=
  match t with
  | .evaluate z =>
    match s.firstEligible z with
    | none => (rest, s)
    | some cl => (afterGrant z cl.crane rest, s.grantTo z cl true)
  | .recompute c =>
    match s.recomputeStage c with
    | none => (rest, s)
    | some (changes, s') => (changes.map (fun x => .handOff x.1 c x.2) ++ .judge c :: rest, s')
  | .handOff z d entered => (s.handOffTasks z d entered ++ rest, s)
  | .judge c =>
    let s' := s.judgeStage c
    if (s'.position c).unheld && (s'.permitState c).encroachJudged then
      (.raise .encroach c :: rest, s')
    else (rest, s')
  | .raise cause c =>
    match s.takeCause cause c with
    | (true, s') => (s'.claimTasks c ++ rest, s'.chosen)
    | (false, s') => (rest, s')
  | .examine z => (rest, s.examine z)

/-- The agenda run for at most the given number of tasks. -/
def run : Nat → List Task → State → State
  | _, [], s => s
  | 0, _ :: _, s => s
  | n + 1, t :: ts, s =>
    match doTask t ts s with
    | (ts', s') => run n ts' s'

/-- How many tasks a task can lead to, grants apart. -/
def Task.weight : Task → Nat
  | .evaluate _ => 1
  | .examine _ => 1
  | .raise _ _ => 49
  | .judge _ => 50
  | .handOff _ _ _ => 51
  | .recompute _ => 2499

/-- How many tasks an agenda can lead to: every grant uses up one queued claim and leads to at most
2500 tasks. -/
def agendaBound (ts : List Task) (s : State) : Nat :=
  (ts.map Task.weight).sum + 2500 * s.allClaims.length

/-- The agenda carried to its end. -/
def State.settle (ts : List Task) (s : State) : State := run (agendaBound ts s) ts s

/-- Grant evaluation on one zone, with all that follows (R54, R56). -/
def State.evaluate (z : ZoneId) (s : State) : State := s.settle [.evaluate z]

/-- Recomputation of one crane, with its hand-offs (R35). -/
def State.recompute (c : CraneId) (s : State) : State := s.settle [.recompute c]

/-- A cause raised for a crane, with all that follows (R125). -/
def State.raise (cause : Cause) (c : CraneId) (s : State) : State := s.settle [.raise cause c]

/-- Grant evaluation on every zone where the crane has a queued claim, as every change of its permit
and the end of its silence start it (R40, R55). -/
def State.evaluateClaims (c : CraneId) (s : State) : State :=
  s.chosen.settle (s.claimTasks c)

end Sys2Proof.Machine
end

