-- ==== Sys2Proof/Machine/Permits.lean ====
section
/-! DEFINITION. The Permit Unit's moves that other blocks start: speed factor, booking-suspension
mark, stowing (R113, R116, R131, R132). -/

namespace Sys2Proof.Machine

/-- RUNNING and DERATED are the armed states (R119). -/
def PermitState.armed : PermitState → Bool
  | .running | .derated => true
  | .offline | .disarmed | .halted | .stowing | .stowed => false

/-- The speed factor an armed crane has (R131). -/
def Permit.armedFactor (p : Permit) (stage : Stage) : Nat :=
  let f := if stage = .restrict then min 100 p.config.restrictFactor else 100
  if p.suspended then min f 25 else f

/-- The permit record with the state that goes with an armed factor (R124, R131). -/
def Permit.armAt (p : Permit) (factor : Nat) : Permit :=
  { p with state := if factor = 100 then .running else .derated, factor := factor }

/-- The permit record with its speed factor computed afresh where the crane is armed (R131, R132). -/
def Permit.rearmed (p : Permit) (stage : Stage) : Permit :=
  if p.state.armed then p.armAt (p.armedFactor stage) else p

/-- The permit of a crane taken into stowing when its stage becomes STOP (R113). -/
def Permit.stow (p : Permit) : Permit :=
  match p.state with
  | .disarmed | .running | .derated | .halted =>
    { p with
      state := .stowing, factor := 0, stowTimer := some (seconds p.config.stowTime), stowOverdue := false }
  | .offline | .stowing | .stowed => p

/-- The permit of a STOWING crane whose stage fell below STOP (R116). -/
def Permit.unstow (p : Permit) : Permit :=
  if p.state = .stowing then
    { p with
      state := if p.clear then .disarmed else .halted, factor := 0, stowTimer := none
      stowOverdue := false }
  else p

/-- The permit after a stage change (R112, R113, R116, R132). -/
def Permit.followStage (p : Permit) (old new : Stage) : Permit :=
  if new = .stop then p.stow
  else if old = .stop then p.unstow.rearmed new
  else if old = .restrict ∨ new = .restrict then p.rearmed new
  else p

/-- A crane's permit record is replaced; a change of its state runs grant evaluation on the zones of
the crane's queued claims (R55). -/
def State.replacePermit (c : CraneId) (p p' : Permit) (s : State) : State :=
  let s' := s.editPermit c fun _ => p'
  if p'.state = p.state then s' else s'.evaluateClaims c

/-- A booking of the crane is SUSPENDED (R155). -/
def State.suspendedBooking (c : CraneId) (s : State) : Bool :=
  s.bookings.any fun b => b.crane == c && b.state == .suspended

/-- The booking-suspension mark is set as the crane's bookings give it; a change of it computes the
factor of an armed crane afresh (R132, R155). -/
def State.refreshSuspension (c : CraneId) (s : State) : State :=
  match s.permit c with
  | none => s
  | some p =>
    if p.suspended == s.suspendedBooking c then s
    else s.replacePermit c p
      (({ p with suspended := s.suspendedBooking c } : Permit).rearmed (s.wind c).stage)

/-- The Permit Unit is told of a stage change (R111 stage 4). A crane that leaves STOWING is judged
for ENCROACH from the mark as it stands after the grant evaluation (R116). -/
def State.tellPermit (c : CraneId) (old new : Stage) (s : State) : State :=
  match s.permit c with
  | none => s
  | some p =>
    let p' := p.followStage old new
    let s' := s.replacePermit c p p'
    if p.state = .stowing ∧ p'.state ≠ .stowing ∧ (s'.position c).unheld then s'.raise .encroach c
    else s'

end Sys2Proof.Machine
end

