-- ==== Sys2Proof/Machine/Apply.lean ====
section
/-! DEFINITION. Opening and closing of EXCLUDED zones, release and handover, and the completion of a
geometry apply (R6, R8 to R10, R16 to R18, R60). -/

namespace Sys2Proof.Machine

/-- An EXCLUDED zone is opened for a booking: opened-for and state (R8), without the evaluation. -/
def State.openFor (id : Nat) (z : ZoneId) (s : State) : State :=
  s.editZone z fun d =>
    { d with
      openedFor := some id
      state := match d.state with
        | .closed => .free
        | .free => .free
        | .held h => .held h
        | .handover left => .handover left }

/-- The opening by a booking's start: grant evaluation runs on a zone found CLOSED or FREE (R8). -/
def State.openZone (id : Nat) (z : ZoneId) (s : State) : State :=
  let s' := s.openFor id z
  match (s.zone z).state with
  | .closed | .free => s'.evaluate z
  | .held _ | .handover _ => s'

/-- At stage 3 an affected zone whose kind changed takes the state of its new kind (R18). -/
def State.changeKind (old : ZoneKind) (z : ZoneId) (s : State) : State :=
  match old, (s.record z).kind with
  | .shared, .excluded =>
    let s' := (s.editZone z fun d => { d with state := .closed }).dropUnadmitted z
    let openers := s.bookings.filter fun b => b.opens && b.state.runs && b.zones.contains z
    s'.each ((openers.map (·.id)).insertionSort (· ≤ ·)) fun id s => s.openFor id z
  | .excluded, .shared => s.editZone z fun d => { d with state := .free, openedFor := none }
  | .shared, .shared => s
  | .excluded, .excluded => s

/-- Stage 1: the active record takes the values of the shadow record and the mark is cleared. -/
def State.adopt (z : ZoneId) (s : State) : State :=
  { s with active := Table.edit s.active z fun _ => s.shadowRecord z }.editZone z
    fun d => { d with mark := false }

/-- Stage 2: queued claims of cranes whose footprint is now absent are removed. -/
def State.dropFootless (z : ZoneId) (s : State) : State :=
  s.dropClaims z (fun cl => (s.footprint z cl.crane).isNone) .geometry

/-- The cranes that have an envelope. -/
def State.cranesWithEnvelope (s : State) : List CraneId :=
  allCranes.filter fun c => (s.position c).report.isSome

/-- The zones whose queue is not empty. -/
def State.queuedZones (s : State) : List ZoneId := allZones.filter fun z => !(s.zone z).queue.isEmpty

/-- Grant evaluation on several zones, one zone at a time, each carried to its end (R55). -/
def State.evaluateAll (zs : List ZoneId) (s : State) : State := s.eachOpen Fin.val zs State.evaluate

/-- Completion of an apply, in the six stages of R17. -/
def State.completeApply (affected : List ZoneId) (s : State) : State :=
  let s1 := s.each affected State.adopt
  let s2 := s1.eachOpen Fin.val affected State.dropFootless
  let s3 := s2.eachOpen Fin.val affected fun z => State.changeKind (s.record z).kind z
  let s4 := s3.eachOpen Fin.val s3.cranesWithEnvelope State.recompute
  let s5 := s4.evaluateAll s4.queuedZones
  s5.setEvent .applyDone

/-- FREE or CLOSED, with no handover timer running (R16). -/
def ZoneState.atRest : ZoneState → Bool
  | .free | .closed => true
  | .held _ | .handover _ => false

/-- The completion test made after an event on a marked zone (R16). -/
def State.completionTest (z : ZoneId) (s : State) : State :=
  if (s.zone z).mark && s.markedZones.all fun y => (s.zone y).state.atRest then
    s.completeApply s.markedZones
  else s

/-- The closing of a zone opened for a booking (R9), with the removal of claims of cranes no longer
admitted (R7) and the completion test (R16). A zone not opened for this booking keeps its state, and
only loses the claims of cranes whose admission ended with the booking (R7). -/
def State.closeZone (id : Nat) (z : ZoneId) (s : State) : State :=
  if (s.zone z).openedFor = some id then
    ((s.editZone z fun d =>
      { d with
        openedFor := none
        state := match d.state with
          | .free => .closed
          | .handover _ => .closed
          | .held h => .held h
          | .closed => .closed }).dropUnadmitted z).completionTest z
  else s.dropUnadmitted z

/-- The end of a holding, in the four stages of R60; a forced release posts REVOKED after stage 1
and before any GRANT of stage 2 (R61). -/
def State.endHolding (z : ZoneId) (c : CraneId) (revoked : Bool) (s : State) : State :=
  let closing := s.closing z
  let dead := (s.record z).deadTime
  let next : ZoneState :=
    if closing then .closed else if 0 < dead then .handover (seconds dead) else .free
  let s1 := s.editZone z fun d => { d with state := next }
  let s1 := if revoked then s1.post c (.revoked z) else s1
  let s2 := if !closing && dead == 0 then s1.evaluate z else s1
  (s2.recompute c).completionTest z

/-- The expiry of a handover timer that has run out (R6): the zone is FREE unless the evaluation grants
it, and a pending apply may complete (R16). -/
def State.endHandover (z : ZoneId) (s : State) : State :=
  match (s.zone z).state with
  | .handover 0 =>
    ((s.editZone z fun d => { d with state := .free }).evaluate z).completionTest z
  | .handover (_ + 1) | .free | .held _ | .closed => s

end Sys2Proof.Machine
end

