-- ==== Sys2Proof/Machine/Bookings.lean ====
section
/-! DEFINITION. The Booking Calendar: admission, arming, starting, ending, wind checks, minute ticks
and jump evaluation (chapters 8 and 9). -/

namespace Sys2Proof.Machine

/-! ## Notices and states -/

/-- A BOOKING notice for a change of the booking's state, from the record as it stands (R155). -/
def State.postBooking (id : Nat) (old : BookingState) (cause : BookingCause) (s : State) : State :=
  match s.bookingById id with
  | none => s
  | some b => s.post b.crane (.booking id b.state old cause b.remaining b.short b.notPlaced)

/-- Renumbering of the terminal entries at 65535 (R144): 1, 2, 3 … in their present order. With no terminal
entry R144 names no last number, and the model sets the counter to 0. DESIGN CHOICE, log entry 33. -/
def State.renumberTerminals (s : State) : State :=
  let orders := (s.bookings.filter (·.state.terminal)).map (·.terminalOrder)
  { s with
    bookings := s.bookings.map fun b =>
      if b.state.terminal then
        { b with terminalOrder := (orders.filter (· ≤ b.terminalOrder)).length }
      else b
    terminals := orders.length }

/-- The next terminal order: one added to the terminal counter, after renumbering at 65535 (R144). -/
def State.countTerminal (s : State) : State :=
  let s := if 65535 ≤ s.terminals then s.renumberTerminals else s
  { s with terminals := s.terminals + 1 }

/-! ## Arming (R49, R150) -/

/-- One booked placement on a listed zone (R49): whether the claim is placed, and the state after. -/
def State.placeBooked (c : CraneId) (z : ZoneId) (s : State) : Bool × State :=
  if (s.footprint z c).isNone then (false, s)
  else if (s.record z).kind == .excluded && !s.admitted c z then (false, s)
  else if s.heldBy z c then (true, s.relevel c z)
  else if s.hasClaim z c then
    (true, (s.editZone z fun d =>
      { d with queue := d.queue.map fun cl => if cl.crane == c then { cl with booked := true } else cl }).relevel c z)
  else if 24 ≤ s.countOf c then (false, s)
  else (true, ((s.place z c true false).evaluate z).examine z)

/-- The placement on one listed zone, with the short flag and the not-placed count (R150 stages 2 and 3). -/
def State.placeListed (id : Nat) (c : CraneId) (z : ZoneId) (s : State) : State :=
  match s.placeBooked c z with
  | (true, s') => s'
  | (false, s') => s'.editBooking id fun b => { b with short := true, notPlaced := b.notPlaced + 1 }

/-- Arming of a BOOKED booking, in the four stages of R150. The report of stage 2 also recomputes the levels
of the crane's other claims and grants on the listed zones (R48); R150 does not say whether before, among
or after the placements of that stage, and the model makes it after all of them. DESIGN CHOICE, log entry
31. -/
def State.armBooking (id : Nat) (cause : BookingCause) (s : State) : State :=
  match s.bookingById id with
  | none => s
  | some b =>
    let s1 := s.editBooking id fun b => { b with state := .armed, short := false, notPlaced := 0 }
    let s2 := s1.each b.zones (State.placeListed id b.crane)
    (s2.relevelAll b.crane b.zones).postBooking id .booked cause

/-! ## Starting (R151) -/

/-- The crane's wind record forbids the lift: blind, stage STOP, or a gust above the limit (R151, R154). -/
def Wind.suspends (w : Wind) (limit : Option Nat) : Bool :=
  w.blind || w.stage == .stop ||
    (match limit, w.gust with
     | some l, some g => l < g
     | _, _ => false)

/-- The crane's wind record lets a SUSPENDED lift return, with hysteresis `h` (R154). -/
def Wind.returns (w : Wind) (limit : Option Nat) (h : Nat) : Bool :=
  !w.blind && w.stage != .stop &&
    (match limit, w.gust with
     | some l, some g => g + h ≤ l
     | some _, none => false
     | none, _ => true)

/-- The EXCLUDED zones among the zones. -/
def State.excludedAmong (zs : List ZoneId) (s : State) : List ZoneId :=
  zs.filter fun z => (s.record z).kind == .excluded

/-- Starting of an ARMED booking with the given remaining minutes, in the five stages of R151. -/
def State.startBooking (id : Nat) (remaining : Nat) (cause : BookingCause) (s : State) : State :=
  match s.bookingById id with
  | none => s
  | some b =>
    let suspend := (s.wind b.crane).suspends b.windLimit
    let s2 := s.editBooking id fun b =>
      { b with remaining := remaining, state := if suspend then .suspended else .active }
    let s3 := s2.relevelAll b.crane b.zones
    let s3 := if b.opens then s3.eachOpen Fin.val (s3.excludedAmong b.zones) (State.openZone id) else s3
    let s4 := if suspend then (s3.refreshSuspension b.crane).setEvent .booking else s3
    s4.postBooking id .armed cause

/-! ## Ending (R153) -/

/-- Stage 1 of R153: the new state, remaining minutes 0, the terminal order or the cleared flags. -/
def State.recordEnd (id : Nat) (new : BookingState) (s : State) : State :=
  if new.terminal then
    let s := s.countTerminal
    s.editBooking id fun b => { b with state := new, remaining := 0, terminalOrder := s.terminals }
  else
    s.editBooking id fun b => { b with state := new, remaining := 0, short := false, notPlaced := 0 }

/-- Another booking of the crane in ARMED, ACTIVE or SUSPENDED lists the zone (R58). -/
def State.listedElsewhere (id : Nat) (c : CraneId) (z : ZoneId) (s : State) : Bool :=
  s.bookings.any fun b => b.id != id && b.crane == c && b.state.counts && b.zones.contains z

/-- The crane's booked claim on a listed zone is withdrawn unless another booking keeps it (R58). -/
def State.withdrawBooked (id : Nat) (c : CraneId) (z : ZoneId) (s : State) : State :=
  if s.listedElsewhere id c z then s
  else s.dropClaims z (fun cl => cl.crane == c && cl.booked) .bookingEnd

/-- The zones that the end of a booking may close or take admission to away (R7, R9). -/
def State.zonesToClose (b : Booking) (s : State) : List ZoneId :=
  allZones.filter fun z => (s.zone z).openedFor == some b.id || (b.opens && b.zones.contains z)

/-- The end effects of a booking that leaves ARMED, ACTIVE or SUSPENDED, in the stages of R153. -/
def State.endBooking (id : Nat) (new : BookingState) (cause : BookingCause) (s : State) : State :=
  match s.bookingById id with
  | none => s
  | some b =>
    let s1 := s.recordEnd id new
    let s2 := s1.eachOpen Fin.val b.zones (State.withdrawBooked id b.crane)
    let s2 := s2.eachOpen Fin.val (s2.zonesToClose b) (State.closeZone id)
    let s2 := s2.relevelAll b.crane b.zones
    let s3 := if b.state = .suspended then s2.refreshSuspension b.crane else s2
    s3.postBooking id b.state cause

/-- DONE, or BOOKED for a RECURRING booking (R152, R156). -/
def Booking.doneState (b : Booking) : BookingState := if b.recurring then .booked else .done

/-- LAPSED, or BOOKED for a RECURRING booking (R152, R158). -/
def Booking.lapsedState (b : Booking) : BookingState := if b.recurring then .booked else .lapsed

/-- The remaining minutes of an ACTIVE or SUSPENDED booking have reached 0 (R152). -/
def State.runOut (id : Nat) (s : State) : State :=
  match s.bookingById id with
  | none => s
  | some b =>
    match b.state with
    | .active => s.endBooking id b.doneState .tick
    | .suspended => (s.setEvent .booking).endBooking id b.lapsedState .lapse
    | .booked | .armed | .done | .lapsed | .cancelled => s

/-! ## Wind checks (R154) -/

/-- Site event BOOKING at an entry into SUSPENDED (R155). -/
def State.suspensionEvent (new : BookingState) (s : State) : State :=
  if new = .suspended then s.setEvent .booking else s

/-- The change of a running booking between ACTIVE and SUSPENDED, with its hand-offs (R154, R155). -/
def State.swapSuspension (id : Nat) (new : BookingState) (cause : BookingCause) (s : State) : State :=
  match s.bookingById id with
  | none => s
  | some b =>
    let s1 := s.editBooking id fun b => { b with state := new }
    let s2 := (s1.relevelAll b.crane b.zones).refreshSuspension b.crane
    (s2.suspensionEvent new).postBooking id b.state cause

/-- H of a configured crane (R105). -/
def State.hysteresis (c : CraneId) (s : State) : Nat :=
  match s.permit c with
  | some p => p.config.hysteresis
  | none => 0

/-- One booking judged against its crane's wind record (R154). -/
def State.checkBooking (byStage : Bool) (id : Nat) (s : State) : State :=
  match s.bookingById id with
  | none => s
  | some b =>
    let w := s.wind b.crane
    let cause : BookingCause := if w.blind then .blind else if byStage then .stage else .wind
    match b.state with
    | .active => if w.suspends b.windLimit then s.swapSuspension id .suspended cause else s
    | .suspended => if w.returns b.windLimit (s.hysteresis b.crane) then s.swapSuspension id .active cause else s
    | .booked | .armed | .done | .lapsed | .cancelled => s

/-- Every ACTIVE and SUSPENDED booking of the crane is judged (R154). -/
def State.checkBookings (byStage : Bool) (c : CraneId) (s : State) : State :=
  s.eachOpen id ((s.bookings.filter fun b => b.crane == c && b.state.runs).map (·.id))
    (State.checkBooking byStage)

/-! ## Times (R148, R149, R158) -/

/-- The booking's weekday is w or ANY. -/
def Booking.onDay (b : Booking) (w : Nat) : Bool :=
  match b.weekday with
  | none => true
  | some d => d == w

/-- The arm point (R148): its weekday, `none` for ANY, and its minute. -/
def Booking.armPoint (b : Booking) (lead : Nat) : Option Nat × Nat :=
  if lead ≤ b.start then (b.weekday, b.start - lead)
  else (b.weekday.map fun d => (d + 6) % 7, b.start + 1440 - lead)

/-- The arm point falls at (w, m) (R149). -/
def Booking.armsAt (b : Booking) (lead w m : Nat) : Bool :=
  match b.armPoint lead with
  | (none, p) => p == m
  | (some d, p) => d == w && p == m

/-- The start falls at (w, m) (R149). -/
def Booking.startsAt (b : Booking) (w m : Nat) : Bool := b.onDay w && b.start == m

/-- (w, m) lies within the window (R158). -/
def Booking.inWindow (b : Booking) (w m : Nat) : Bool :=
  b.onDay w && b.start ≤ m && m < b.start + b.duration

/-- (w, m) lies within the arm window: from the arm point, included, to the start, excluded (R148). -/
def Booking.inArmWindow (b : Booking) (lead w m : Nat) : Bool :=
  if lead ≤ b.start then b.onDay w && b.start - lead ≤ m && m < b.start
  else
    (b.onDay w && m < b.start) ||
      ((match b.weekday with
        | none => true
        | some d => (d + 6) % 7 == w) && b.start + 1440 - lead ≤ m)

/-! ## Minute ticks (R149) -/

/-- The tick (w, m) acts on the booking (R149). -/
def Booking.reachedBy (b : Booking) (lead w m : Nat) : Bool :=
  match b.state with
  | .booked => b.startsAt w m || b.armsAt lead w m
  | .armed => b.startsAt w m
  | .active | .suspended => true
  | .done | .lapsed | .cancelled => false

/-- One booking at the tick (w, m) (R149). -/
def State.tickBooking (w m : Nat) (id : Nat) (s : State) : State :=
  match s.bookingById id with
  | none => s
  | some b =>
    match b.state with
    | .booked =>
      if b.startsAt w m then (s.armBooking id .tick).startBooking id b.duration .tick
      else if b.armsAt s.leadTime w m then s.armBooking id .tick
      else s
    | .armed => if b.startsAt w m then s.startBooking id b.duration .tick else s
    | .active | .suspended =>
      let s' := s.editBooking id fun b => { b with remaining := b.remaining - 1 }
      if b.remaining ≤ 1 then s'.runOut id else s'
    | .done | .lapsed | .cancelled => s

/-- A minute tick (R149): each booking it reaches is taken whole, in an order left open (R159). -/
def State.tickBookings (w m : Nat) (s : State) : State :=
  s.eachOpen id ((s.bookings.filter (·.reachedBy s.leadTime w m)).map (·.id)) (State.tickBooking w m)

/-! ## Jump evaluation (R158) -/

/-- The jump evaluation at (w, m) changes the booking (R158). -/
def Booking.jumpsAt (b : Booking) (lead w m : Nat) : Bool :=
  match b.state with
  | .booked => b.inWindow w m || b.inArmWindow lead w m
  | .armed => b.inWindow w m || !b.inArmWindow lead w m
  | .active | .suspended | .done | .lapsed | .cancelled => false

/-- One booking judged at the site time (w, m) (R158). An ARMED booking of weekday ANY whose arm window
reaches back over midnight can meet two rows, the arm window and `m ≥ start + duration`; R158 gives the rows
no order, and the model takes the arm window first. DESIGN CHOICE, log entry 32. -/
def State.jumpBooking (cause : BookingCause) (w m : Nat) (id : Nat) (s : State) : State :=
  match s.bookingById id with
  | none => s
  | some b =>
    let left := b.start + b.duration - m
    match b.state with
    | .booked =>
      if b.inWindow w m then (s.armBooking id cause).startBooking id left cause
      else if b.inArmWindow s.leadTime w m then s.armBooking id cause
      else s
    | .armed =>
      if b.inWindow w m then s.startBooking id left cause
      else if b.inArmWindow s.leadTime w m then s
      else if b.onDay w && b.start + b.duration ≤ m then
        (s.setEvent .booking).endBooking id b.lapsedState cause
      else s.endBooking id .booked cause
    | .active | .suspended | .done | .lapsed | .cancelled => s

/-- Jump evaluation of the table at the clock's time, made when the clock is RUNNING or HELD (R158). -/
def State.jumpBookings (cause : BookingCause) (s : State) : State :=
  match s.clock.mode with
  | .invalid => s
  | .running | .held =>
    let w := s.clock.weekday
    let m := s.clock.minute
    s.eachOpen id ((s.bookings.filter (·.jumpsAt s.leadTime w m)).map (·.id))
      (State.jumpBooking cause w m)

/-! ## The site clock (R136) -/

/-- The second passes 59: the minute advances, the timer restarts, and the tick acts on the bookings
(R136, R149). -/
def State.nextMinute (s : State) : State :=
  let k := s.clock
  let wrap := 1440 ≤ k.minute + 1
  let m := if wrap then 0 else k.minute + 1
  let w := if wrap then (k.weekday + 1) % 7 else k.weekday
  { s with clock := { k with weekday := w, minute := m, second := 0, timer := some (seconds 1) } }.tickBookings w m

/-! ## Admission (R144 to R147) -/

/-- The windows overlap (R146). -/
def Booking.overlaps (a b : Booking) : Bool :=
  a.start < b.start + b.duration && b.start < a.start + a.duration

/-- The weekdays are equal, or either is ANY (R146). -/
def Booking.sharesDay (a b : Booking) : Bool :=
  match a.weekday, b.weekday with
  | some d, some e => d == e
  | _, _ => true

/-- Two bookings conflict (R146). -/
def Booking.conflicts (a b : Booking) : Bool :=
  (a.crane == b.crane || a.zones.any b.zones.contains) && a.sharesDay b && a.overlaps b

/-- The id after an id, with 255 followed by 1 (R144). -/
def idAfter (n : Nat) : Nat := if 255 ≤ n then 1 else n + 1

/-- The first id, counting upward from the counter, that no entry of the table holds (R144). -/
def State.freeId (s : State) : Nat :=
  (((List.range 255).map fun k => (s.nextId + k - 1) % 255 + 1).find? fun n =>
    !(s.bookings.any (·.id == n))).getD s.nextId

/-- The terminal entry with the lowest terminal order (R144). -/
def State.oldestTerminal (s : State) : Option Booking :=
  ((s.bookings.filter (·.state.terminal)).insertionSort fun a b => a.terminalOrder ≤ b.terminalOrder).head?

/-- There is a slot for a new booking: an empty one, or a terminal entry's (R144, R145). -/
def State.hasSlot (s : State) : Bool :=
  s.bookings.length < 32 || s.oldestTerminal.isSome

/-- The table with the slot for a new booking made free (R144). -/
def State.makeSlot (s : State) : State :=
  if s.bookings.length < 32 then s
  else match s.oldestTerminal with
    | none => s
    | some t => { s with bookings := s.bookings.filter fun b => b.id != t.id }

/-- The table with a new entry in a slot, and the next-id counter after its id (R144). -/
def State.addBooking (entry : Booking) (s : State) : State :=
  let s1 := s.makeSlot
  { s1 with bookings := s1.bookings ++ [entry], nextId := idAfter entry.id }

/-- A taken BOOK: the id, the slot, and the judgement at the current time (R144, R147). The booking
given carries the fields of the request; its id and dynamic fields are set here. -/
def State.enterBooking (b : Booking) (s : State) : Nat × State :=
  let id := s.freeId
  let s2 := s.addBooking
    { b with id := id, state := .booked, remaining := 0, short := false, notPlaced := 0, terminalOrder := 0 }
  match s2.clock.mode with
  | .invalid => (id, s2)
  | .running | .held => (id, s2.jumpBooking .admission s2.clock.weekday s2.clock.minute id)

end Sys2Proof.Machine
end

