-- ==== Sys2Proof/Machine/Wind.lean ====
section
/-! DEFINITION. The Wind Unit: channels, gust and mean, governing figures, the stage machine
(chapters 5 and 6). -/

namespace Sys2Proof.Machine

/-! ## Stage machine (R106 to R109, R111) -/

/-- A stage change is recorded, with its site event and its notice (R111 stages 1 to 3). -/
def State.announceStage (c : CraneId) (old new : Stage) (cause : StageCause) (s : State) : State :=
  let s1 := s.editWind c fun w => { w with stage := new }
  let s2 := if new = .stop then s1.setEvent .windStop else s1
  let w := s2.wind c
  s2.post c (.stage new old cause w.gust w.mean w.blind)

/-- A change of stage with its hand-offs, in the stages of R111. -/
def State.changeStage (c : CraneId) (old new : Stage) (cause : StageCause) (s : State) : State :=
  ((s.announceStage c old new cause).tellPermit c old new).checkBookings true c

/-- The candidate stage of a governing figure, with the cause a rise to it has (R106, R111). -/
def candidate (g : CraneConfig) (gust mean : Option Nat) : Stage × StageCause :=
  if mean.any (g.stopMean ≤ ·) then (.stop, .mean)
  else if gust.any (g.stop ≤ ·) then (.stop, .gust)
  else if gust.any (g.restrict ≤ ·) then (.restrict, .gust)
  else if gust.any (g.caution ≤ ·) then (.caution, .gust)
  else (.calm, .gust)

/-- The descent condition of a stage (R108). -/
def descends (g : CraneConfig) (x : Stage) (w : Wind) : Bool :=
  match x with
  | .calm => false
  | .caution => !w.blind && w.gust.any (· + g.hysteresis < g.caution)
  | .restrict => !w.blind && w.gust.any (· + g.hysteresis < g.restrict)
  | .stop =>
    !w.blind && w.gust.any (· + g.hysteresis < g.stop) &&
      w.mean.all (· + g.hysteresis < g.stopMean)

/-- The hold time of a stage (R104); CALM has none. -/
def holdTime (g : CraneConfig) : Stage → Nat
  | .calm => 0
  | .caution => g.holdCaution
  | .restrict => g.holdRestrict
  | .stop => g.holdStop

/-- The descent test of the current stage: the hold timer starts, runs on, or stops (R108). -/
def Wind.testDescent (g : CraneConfig) (w : Wind) : Wind :=
  if descends g w.stage w then
    match w.holdTimer with
    | none => { w with holdTimer := some (seconds (holdTime g w.stage)) }
    | some _ => w
  else { w with holdTimer := none }

/-- The hold timer of a crane is set. -/
def State.setHold (c : CraneId) (t : Timer) (s : State) : State :=
  s.editWind c fun w => { w with holdTimer := t }

/-- A rise of the stage stops the hold timer and is a stage change (R106). -/
def State.riseTo (c : CraneId) (new : Stage) (cause : StageCause) (s : State) : State :=
  (s.setHold c none).changeStage c (s.wind c).stage new cause

/-- Ascent: a candidate stage above the current one is taken at once (R106). -/
def State.ascend (c : CraneId) (g : CraneConfig) (s : State) : State :=
  let w := s.wind c
  let cand := candidate g w.gust w.mean
  if w.stage.rank < cand.1.rank then s.riseTo c cand.1 cand.2 else s

/-- The blind floor: a blind crane below RESTRICT is raised to it (R107). -/
def State.blindFloor (c : CraneId) (s : State) : State :=
  if (s.wind c).blind && (s.wind c).stage.rank < Stage.restrict.rank then s.riseTo c .restrict .blind
  else s

/-- A new governing figure taken by the stage machine: ascent, blind floor, descent test (R106 to R108). -/
def State.takeFigure (c : CraneId) (g : CraneConfig) (s : State) : State :=
  ((s.ascend c g).blindFloor c).editWind c (Wind.testDescent g)

/-- One step down (R109). -/
def Stage.below : Stage → Stage
  | .calm => .calm
  | .caution => .calm
  | .restrict => .caution
  | .stop => .restrict

/-- The expiry of a hold timer that has run out: one step down, the new stage's descent condition
tested at once, and the hand-offs of a stage change (R109, R111). A figure taken first may have stopped
the timer (R110). -/
def State.endHold (c : CraneId) (s : State) : State :=
  match s.permit c, (s.wind c).holdTimer with
  | some p, some 0 =>
    let w := s.wind c
    let lowered := ({ w with stage := w.stage.below, holdTimer := none } : Wind).testDescent p.config
    let s1 := s.setHold c lowered.holdTimer
    if w.stage = .calm then s1 else s1.changeStage c w.stage w.stage.below .hold
  | _, _ => s

/-! ## Governing evaluation (R98 to R100) -/

/-- The governing items drawn from the channels as they stand (R98). -/
def State.governed (c : CraneId) (g : CraneConfig) (s : State) : Wind :=
  let w := s.wind c
  let prim := s.channel g.primary
  if prim.state = .live then
    { w with source := .primary, gust := prim.gust, mean := prim.mean, blind := false }
  else
    match g.fallback with
    | none => { w with source := .none, gust := none, mean := none, blind := true }
    | some k =>
      let fb := s.channel k
      if fb.state = .live then
        { w with
          source := .fallback
          gust := fb.gust.map fun x => min 700 (x + g.fbm)
          mean := fb.mean.map fun x => min 700 (x + g.fbm)
          blind := false }
      else { w with source := .none, gust := none, mean := none, blind := true }

/-- The governing items are set, and SENSOR_LOSS is raised when the crane became blind (R100 stages 1
and 2). -/
def State.setGoverning (c : CraneId) (p : Permit) (s : State) : State :=
  let new := s.governed c p.config
  let s1 := s.editWind c fun _ => new
  if !(s.wind c).blind && new.blind then s1.raise .sensorLoss c else s1

/-- A governing evaluation of one crane, in the five stages of R100; a crane that is not configured
has none (R98). -/
def State.govern (c : CraneId) (s : State) : State :=
  match s.permit c with
  | none => s
  | some p =>
    let old := s.wind c
    let new := s.governed c p.config
    let s3 := (s.setGoverning c p).takeFigure c p.config
    if old.gust != new.gust || old.blind != new.blind then
      (s3.recompute c).checkBookings false c
    else s3

/-- The configured cranes whose primary or fallback channel it is (R99). -/
def State.cranesOn (k : ChannelId) (s : State) : List CraneId :=
  allCranes.filter fun c =>
    match s.permit c with
    | none => false
    | some p => p.config.primary == k || p.config.fallback == some k

/-- Every crane governed by the channel is evaluated, one crane at a time (R99). -/
def State.governChannel (k : ChannelId) (s : State) : State :=
  s.eachOpen Fin.val (s.cranesOn k) State.govern

/-! ## Channels (R89 to R97) -/

/-- The rounded mean of total `sum` over `n` entries, halves up (R94, R95). -/
def roundedMean (sum n : Nat) : Nat := (sum + n / 2) / n

/-- The gust over a ring (R94). -/
def gustOf (ring : List Nat) : Nat := roundedMean ring.sum ring.length

/-- The mean over completed bins; absent when they hold no sample (R95). -/
def meanOf (bins : List (Nat × Nat)) : Option Nat :=
  let count := (bins.map (·.2)).sum
  if count = 0 then none else some (roundedMean (bins.map (·.1)).sum count)

/-- A ring with a sample appended; the oldest of thirteen is removed (R91). -/
def ringAppend (ring : List Nat) (x : Nat) : List Nat :=
  let r := ring ++ [x]
  if 12 < r.length then r.drop 1 else r

/-- Leaving LIVE clears ring, gust, open bin, completed bins and mean, and stops the stale timer (R90). -/
def Channel.cleared (k : Channel) : Channel :=
  { k with
    staleTimer := none, ring := [], gust := none, openSum := 0, openCount := 0, bins := [], mean := none }

/-- A sample is added to the open bin while its count is below 240 (R91). -/
def Channel.bin (k : Channel) (x : Nat) : Channel :=
  if k.openCount < 240 then { k with openSum := k.openSum + x, openCount := k.openCount + 1 } else k

/-- A sample makes or keeps the channel LIVE: ring, open bin, stale timer, gust (R91, R92). -/
def Channel.feed (k : Channel) (x : Nat) : Channel :=
  let ring := ringAppend k.ring x
  { k with
    state := .live, ring := ring, staleTimer := some (seconds k.staleTime), gust := some (gustOf ring) }.bin x

/-- An accepted sample (R89 to R92). -/
def Channel.accept (k : Channel) (x : Nat) : Channel :=
  let k := { k with rejectedRun := 0 }
  match k.state with
  | .noSignal | .stale | .live => k.feed x
  | .faulted =>
    if k.recoveryRun + 1 < 12 then
      { k with ring := ringAppend k.ring x, recoveryRun := k.recoveryRun + 1 }
    else { k with recoveryRun := 0 }.feed x

/-- A rejected sample (R89, R92). -/
def Channel.reject (k : Channel) : Channel :=
  let k := { k with rejected := saturate k.rejected }
  match k.state with
  | .faulted => { k with recoveryRun := 0 }
  | .noSignal | .live | .stale =>
    if k.rejectedRun + 1 < 8 then { k with rejectedRun := k.rejectedRun + 1 }
    else { k.cleared with state := .faulted, rejectedRun := 0, recoveryRun := 0 }

/-- A sample handed to the Wind Unit (R89): accepted when its status is OK and its speed within 700. -/
def State.takeSample (k : ChannelId) (speed : Nat) (ok : Bool) (s : State) : State :=
  let old := s.channel k
  if ok && speed ≤ 700 then
    let s1 := s.editChannel k fun ch => ch.accept speed
    if (s1.channel k).state = .live then s1.governChannel k else s1
  else
    let s1 := s.editChannel k Channel.reject
    let new := s1.channel k
    let s2 := if old.state ≠ .faulted ∧ new.state = .faulted then s1.setEvent .sensor else s1
    if old.state = .live ∧ new.state = .faulted then s2.governChannel k else s2

/-- The expiry of a LIVE channel's stale timer that has run out (R93). A sample taken first restarts the
timer, and the channel stays LIVE (R96). -/
def State.endStale (k : ChannelId) (s : State) : State :=
  let ch := s.channel k
  if ch.staleTimer = some 0 then
    if ch.state = .live then
      ((s.editChannel k fun ch => { ch.cleared with state := .stale }).setEvent .sensor).governChannel k
    else s.editChannel k fun ch => { ch with staleTimer := none }
  else s

/-- Closing of the open bin (R95). -/
def Channel.closeBin (k : Channel) : Channel :=
  let bins := k.bins ++ [(k.openSum, k.openCount)]
  let bins := if 10 < bins.length then bins.drop 1 else bins
  { k with bins := bins, openSum := 0, openCount := 0, mean := meanOf bins }

/-- The expiry of a bin timer that has run out (R95): it restarts in every state; a LIVE channel closes
its bin. -/
def State.endBin (k : ChannelId) (s : State) : State :=
  if (s.channel k).binTimer = 0 then
    let s1 := s.editChannel k fun ch => { ch with binTimer := seconds 60 }
    if (s.channel k).state = .live then
      (s1.editChannel k Channel.closeBin).governChannel k
    else s1
  else s

/-- CONFIG_CHANNEL on a channel (R97), with a stale time already clamped. -/
def State.configureChannel (k : ChannelId) (enable : Bool) (stale : Nat) (s : State) : State :=
  let old := s.channel k
  let s1 := s.editChannel k fun ch =>
    { ch with enable := enable, staleTime := stale, checkFailures := 0, rejected := 0 }
  if old.enable && !enable then
    let s2 := s1.editChannel k fun ch =>
      { ch.cleared with state := .noSignal, rejectedRun := 0, recoveryRun := 0 }
    if old.state = .live then s2.governChannel k else s2
  else s1

end Sys2Proof.Machine
end

