-- ==== Sys2Proof/Machine/Status.lean ====
section
/-! DEFINITION. The bodies of responses that report records: the paged status requests (R65, R85,
R101, R133, R161, R168, R176 to R178) and the REPORT response (R26). Layout choices: log entry 13. -/

namespace Sys2Proof.Machine

/-! ## Remaining times (log entry 2) -/

/-- Whole seconds remaining of a running timer. -/
def secondsLeft (t : Nat) : Nat := (t + 99) / 100

/-- Whole tenths of a second remaining of a running timer. -/
def tenthsLeft (t : Nat) : Nat := (t + 9) / 10

/-! ## Pages (R168) -/

/-- The number of pages of a sequence of bytes: 58 bytes a page, and at least one page. -/
def pageCount (content : List Byte) : Nat := max 1 ((content.length + 57) / 58)

/-- The body of one page: page number, page count, and its 58 bytes or what remains. -/
def pageBody (content : List Byte) (page : Nat) : List Byte :=
  byte page ++ byte (pageCount content) ++ (content.drop (58 * page)).take 58

/-! ## Parts of a crane's content (R177) -/

/-- The permit content of R133. -/
def permitBytes (p : Permit) : List Byte :=
  byte p.state.code ++ causeBytes p.latched ++ yesNo p.maskIntrusion ++ yesNo p.maskSensorLoss
    ++ byte p.factor ++ yesNo p.suspended ++ twoBytesOr (p.stowTimer.map secondsLeft)
    ++ yesNo p.stowOverdue ++ yesNo p.stowedNote

/-- The crane content of R101. -/
def windBytes (g : CraneConfig) (w : Wind) : List Byte :=
  byte g.primary.val ++ byteOr (g.fallback.map Fin.val) ++ byte g.fbm ++ byte w.source.code
    ++ twoBytesOr w.gust ++ twoBytesOr w.mean ++ yesNo w.blind ++ byte w.stage.rank

/-- Envelope lo and hi; the full circle is given as lo 0, hi 3599 (R26). -/
def envelopeBytes : Option Envelope → List Byte
  | none => twoBytesOr none ++ twoBytesOr none
  | some (.arc lo hi) => twoBytes lo ++ twoBytes hi
  | some .full => twoBytes 0 ++ twoBytes 3599

/-- The position content of R177. -/
def positionBytes (margin : Nat) (p : Position) : List Byte :=
  (match p.report with
    | none => byteOr none ++ twoBytesOr none ++ twoBytesOr none ++ twoBytesOr none
    | some r => reportBody r)
  ++ envelopeBytes p.envelope ++ twoBytes p.stopReach ++ twoBytes p.windMargin
  ++ twoBytes (margin + p.windMargin) ++ yesNo p.unheld ++ twoBytes p.cw ++ twoBytes p.ccw
  ++ byteOr (p.timer.map tenthsLeft) ++ yesNo p.silent
  ++ counted (fun z => byte (zoneNumber z)) p.occupied

/-- Whether a demand stands, its target level and its yield time remaining or expired (R85). Of no demand the
last two are coded as absent values: DESIGN CHOICE, log entry 13. -/
def demandBytes : Option Demand → List Byte
  | none => yesNo false ++ byteOr none ++ byteOr none
  | some d =>
    yesNo true ++ byte d.target ++
      (match d.timer with
        | some t => byte (secondsLeft t)
        | none => [Config.expiredCode])

/-- One zone the crane holds (R65, R85). -/
def State.holdingEntry (z : ZoneId) (s : State) : List Byte :=
  match s.holding z with
  | none => []
  | some h => byte (zoneNumber z) ++ byte h.level ++ yesNo h.emergency ++ demandBytes h.demand

/-- One zone where the crane has a queued claim, with its position from 1 at the head (R44, R65). -/
def State.claimEntry (c : CraneId) (z : ZoneId) (s : State) : List Byte :=
  match s.claimOf z c with
  | none => []
  | some cl =>
    byte (zoneNumber z) ++ byte cl.level ++ yesNo cl.booked ++ yesNo cl.emergency
      ++ byte (((s.zone z).queue.findIdx (·.crane == c)) + 1)

/-- One non-terminal booking of the crane (R161). -/
def bookingSummary (b : Booking) : List Byte :=
  byte b.id ++ byte b.state.code ++ byte b.remaining ++ yesNo b.short ++ byte b.notPlaced

/-- A crane's non-terminal bookings. R161, R168 and R177 give their order nowhere; the model takes
ascending id, as R161 has it for BOOKING_STATUS. DESIGN CHOICE, log entry 13. -/
def State.craneBookings (c : CraneId) (s : State) : List Booking :=
  (s.bookings.filter fun b => b.crane == c && !b.state.terminal).insertionSort fun a b => a.id ≤ b.id

/-- The port content of R177. -/
def boxBytes (b : NoticeBox) : List Byte :=
  twoBytes b.start ++ twoBytes b.stop ++ twoBytes b.queue.length ++ yesNo b.loss

/-- The status of one crane: the fixed head, then the holdings, claims and bookings as entries
(R168, R177). CRANE_STATUS carries the configuration too. -/
def State.craneContent (c : CraneId) (p : Permit) (withConfig : Bool) (s : State) : List Byte :=
  permitBytes p ++ (if withConfig then configBody c p.config else []) ++ windBytes p.config (s.wind c)
    ++ positionBytes p.config.margin (s.position c) ++ byte (s.countOf c) ++ boxBytes (s.box c)
    ++ (s.heldZones c).flatMap (fun z => s.holdingEntry z)
    ++ (s.claimZones c).flatMap (fun z => s.claimEntry c z)
    ++ (s.craneBookings c).flatMap bookingSummary

/-- One crane as an entry of CRANE_STATUS for crane 0, its lists counted (R168, R177). -/
def State.craneAsEntry (c : CraneId) (p : Permit) (s : State) : List Byte :=
  permitBytes p ++ configBody c p.config ++ windBytes p.config (s.wind c)
    ++ positionBytes p.config.margin (s.position c)
    ++ counted (fun z => s.holdingEntry z) (s.heldZones c)
    ++ counted (fun z => s.claimEntry c z) (s.claimZones c) ++ byte (s.countOf c)
    ++ counted bookingSummary (s.craneBookings c) ++ boxBytes (s.box c)

/-- CRANE_STATUS for crane 0: every configured crane in ascending order (R177). -/
def State.allCranesContent (s : State) : List Byte :=
  allCranes.flatMap fun c =>
    match s.permit c with
    | none => []
    | some p => s.craneAsEntry c p

/-! ## Zones (R178) -/

/-- One claim of a queue (R65). -/
def claimBytes (c : Claim) : List Byte :=
  byte (craneNumber c.crane) ++ byte c.level ++ yesNo c.booked ++ yesNo c.emergency ++ twoBytes c.arrival

/-- The occupant set of a zone, in ascending crane order (R178). -/
def State.occupantBytes (z : ZoneId) (s : State) : List Byte :=
  counted (fun c => byte (craneNumber c)) (allCranes.filter fun c => s.occupies c z)

/-- What ZONE_STATUS gives of a zone before its queue (R178). -/
def State.zoneFigures (z : ZoneId) (s : State) : List Byte :=
  let d := s.zone z
  let h := s.holding z
  recordBytes (s.record z) ++ recordBytes (s.shadowRecord z)
    ++ byte d.state.code ++ byteOr (h.map fun h => craneNumber h.holder)
    ++ byte ((h.map (·.level)).getD 0) ++ yesNo ((h.map (·.emergency)).getD false)
    ++ byte (d.openedFor.getD 0)
    ++ byteOr (match d.state with
        | .handover t => some (secondsLeft t)
        | .free | .held _ | .closed => none)
    ++ demandBytes (h.bind (·.demand)) ++ yesNo d.mark ++ yesNo (s.closing z)

/-- The content of ZONE_STATUS for one zone: the head, with the occupant set counted in it, then the
claims of the queue as entries (R168, R178). -/
def State.zoneContent (z : ZoneId) (s : State) : List Byte :=
  s.zoneFigures z ++ s.occupantBytes z ++ (s.zone z).queue.flatMap claimBytes

/-- One zone as an entry of ZONE_STATUS for zone 0, its lists counted (R168, R178). -/
def State.zoneAsEntry (z : ZoneId) (s : State) : List Byte :=
  s.zoneFigures z ++ counted claimBytes (s.zone z).queue ++ s.occupantBytes z

/-- ZONE_STATUS for zone 0: every zone in ascending order (R178). -/
def State.allZonesContent (s : State) : List Byte := allZones.flatMap fun z => s.zoneAsEntry z

/-! ## Bookings (R161, R178) -/

/-- A weekday, with ANY coded 7 (R162). -/
def weekdayBytes (d : Option Nat) : List Byte := byte (d.getD 7)

/-- Every field of R143 and the arm point computed from the present lead time (R178). No rule gives the bytes
of the arm point: the model gives its weekday in one byte, ANY 7, and then its minute in two. DESIGN CHOICE,
log entry 13. -/
def State.bookingContent (b : Booking) (s : State) : List Byte :=
  byte b.id ++ byte (craneNumber b.crane) ++ weekdayBytes b.weekday ++ twoBytes b.start
    ++ byte b.duration ++ byte b.level ++ twoBytes (b.windLimit.getD 0)
    ++ counted (fun z => byte (zoneNumber z)) b.zones ++ yesNo b.opens ++ yesNo b.recurring
    ++ byte b.state.code ++ byte b.remaining ++ yesNo b.short ++ byte b.notPlaced
    ++ twoBytes b.terminalOrder
    ++ weekdayBytes (b.armPoint s.leadTime).1 ++ twoBytes (b.armPoint s.leadTime).2

/-- BOOKING_STATUS for id 0: every entry in ascending id order (R161). -/
def State.allBookingsContent (s : State) : List Byte :=
  (s.bookings.insertionSort fun a b => a.id ≤ b.id).flatMap fun b => s.bookingContent b

/-! ## The site (R176) -/

/-- Clock state, weekday, minute, second (R137, R142). -/
def clockBytes (k : Clock) : List Byte :=
  byte k.mode.code ++ byte k.weekday ++ twoBytes k.minute ++ byte k.second

/-- Ten yes/no bytes in the order of the site event table. -/
def eventBytes (t : Table Bool 10) : List Byte := t.toList.flatMap yesNo

/-- The number of booking entries in a state (R161). -/
def State.bookingsIn (x : BookingState) (s : State) : Nat :=
  (s.bookings.filter fun b => b.state == x).length

/-- A crane's summary mark (R176). -/
def State.summaryMark (c : CraneId) (s : State) : Bool :=
  match s.permit c with
  | none => false
  | some p => !p.clear || (s.position c).silent || p.stowOverdue || (s.box c).loss

/-- Configured or not, permit state, summary mark (R176). -/
def State.craneMark (c : CraneId) (s : State) : List Byte :=
  yesNo (s.permit c).isSome ++ byteOr ((s.permit c).map fun p => p.state.code) ++ yesNo (s.summaryMark c)

/-- Oversize, timeout, CRC and overrun counts of a port (R176). -/
def linkBytes (l : Link) : List Byte :=
  twoBytes l.oversize ++ twoBytes l.timeouts ++ twoBytes l.crcErrors ++ twoBytes l.overruns

/-- The channel items of R101. -/
def channelBytes (k : Channel) : List Byte :=
  yesNo k.enable ++ byte k.staleTime ++ byte k.state.code ++ twoBytesOr k.gust ++ twoBytesOr k.mean
    ++ byte k.bins.length ++ twoBytes k.checkFailures ++ twoBytes k.rejected

/-- The content of SITE_STATUS (R176). R176 does not say what the number of zones in the affected set is with
no apply pending, nor in which order the seven ports come: the model gives 0, and CP1 to CP6, then PP.
DESIGN CHOICE, log entry 13. -/
def State.siteContent (s : State) : List Byte :=
  clockBytes s.clock ++ byte s.leadTime
    ++ ([.booked, .armed, .active, .suspended, .done, .lapsed, .cancelled].flatMap
        fun x => byte (s.bookingsIn x))
    ++ yesNo s.applyPending ++ byte s.markedZones.length ++ eventBytes s.enables
    ++ allCranes.flatMap (fun c => s.craneMark c)
    ++ s.links.toList.flatMap linkBytes ++ s.channels.toList.flatMap channelBytes

/-! ## The REPORT response (R26) -/

/-- The fields of R26, as the records stand after every effect of the report. -/
def State.reportReply (c : CraneId) (s : State) : List Byte :=
  match s.permit c with
  | none => []
  | some p =>
    let q := s.position c
    byte p.state.code ++ byte p.factor ++ byte (s.wind c).stage.rank ++ twoBytes q.cw ++ twoBytes q.ccw
      ++ twoBytes (p.config.margin + q.windMargin) ++ envelopeBytes q.envelope ++ yesNo q.unheld

end Sys2Proof.Machine
end

