-- ==== Sys2Proof/Machine/CraneRequests.lean ====
section
/-! DEFINITION. The requests of a crane port, each by the rule of its owner: HELLO, REPORT, CLAIM,
WITHDRAW, RELEASE, ARM, LIFT_DONE, STATUS. Each answers a reply and the state after it; the frame
and port matters (R164 to R167) are in Sys2Proof/Machine/Ports.lean. -/

namespace Sys2Proof.Machine

/-- What a request is answered: the result, the body, and whether forming the response clears the
port's NOTICE_LOSS flag (R165, R171). -/
structure Reply where
  result : Result
  body : List Byte := []
  clearLoss : Bool := false
  deriving DecidableEq, Repr

/-- A refused request: the result alone, with no body (R165), and no effect on any state. -/
def refuse (r : Result) (s : State) : Reply × State := ({ result := r }, s)

/-- NOT_CONFIGURED, then NOT_REGISTERED: the first two conditions of most crane requests. -/
def State.craneGate (c : CraneId) (s : State) : Option Result :=
  match s.permit c with
  | none => some .notConfigured
  | some p => if p.state = .offline then some .notRegistered else none

/-! ## HELLO (R122, R123) -/

/-- The fields of a HELLO response (R122). -/
def State.helloBody (c : CraneId) (s : State) : List Byte :=
  match s.permit c with
  | none => []
  | some p =>
    byte p.state.code ++ byte p.factor ++ byte (s.wind c).stage.rank
      ++ byte (p.latched.toList.filter id).length

/-- The permit of an OFFLINE crane that registers at a stage (R122). -/
def Permit.registered (p : Permit) (stage : Stage) : Permit :=
  if stage = .stop then
    { p with state := .stowing, stowTimer := some (seconds p.config.stowTime), stowOverdue := false }
  else { p with state := .disarmed }

/-- A stopped report timer is started (R38). -/
def Position.startTimer (time : Nat) (q : Position) : Position :=
  match q.timer with
  | none => { q with timer := some (tenths time) }
  | some _ => q

/-- Registration of an OFFLINE crane (R122, R38). -/
def State.register (c : CraneId) (p : Permit) (s : State) : State :=
  ((s.editPermit c fun _ => p.registered (s.wind c).stage).editPosition c
    (Position.startTimer p.config.reportTime)).evaluateClaims c

/-- A claim leaves the queue and the zone is examined for its demand (R57). -/
def State.removeClaim (z : ZoneId) (c : CraneId) (s : State) : State :=
  (s.editZone z fun d => { d with queue := dropCrane c d.queue }).examine z

/-- The zones where the crane's claim is neither booked nor an emergency claim (R123). -/
def State.ownClaimZones (c : CraneId) (s : State) : List ZoneId :=
  allZones.filter fun z => (s.claimOf z c).any fun cl => !cl.booked && !cl.emergency

/-- An armed permit is DISARMED by a re-HELLO; any other is kept (R123 stage 2). -/
def Permit.disarm (p : Permit) : Permit :=
  if p.state.armed then { p with state := .disarmed, factor := 0 } else p

/-- A re-HELLO, in the three stages of R123. -/
def State.rehello (c : CraneId) (s : State) : State :=
  let s1 := s.eachOpen Fin.val (s.ownClaimZones c) fun z s => s.removeClaim z c
  match s1.permit c with
  | none => s1
  | some p =>
    s1.replacePermit c p p.disarm

def serveHello (c : CraneId) (body : List Byte) (s : State) : Reply × State :=
  if byteAt body 0 ≠ craneNumber c then refuse .wrongPort s
  else match s.permit c with
    | none => refuse .notConfigured s
    | some p =>
      if (s.box c).capacity = 0 then refuse .noArea s
      else
        let s' := if p.state = .offline then s.register c p else s.rehello c
        ({ result := .ok, body := s'.helloBody c }, s')

/-! ## REPORT (R24 to R26) -/

/-- The permit after an accepted report in mode `m` (R25 stage 2, R114). -/
def Permit.noteMode (p : Permit) (m : Mode) : Permit :=
  match p.state with
  | .stowing =>
    if m = .freeSlew then
      { p with state := .stowed, stowTimer := none, stowOverdue := false, stowedNote := false }
    else p
  | .stowed => if m = .freeSlew then p else { p with stowedNote := true }
  | .offline | .disarmed | .running | .derated | .halted => p

/-- The mode of an accepted report handed to the Permit Unit. -/
def State.noteMode (c : CraneId) (m : Mode) (s : State) : State :=
  match s.permit c with
  | none => s
  | some p => s.replacePermit c p (p.noteMode m)

/-- An accepted REPORT: the last report is replaced, then the three stages of R25. -/
def State.takeReport (c : CraneId) (p : Permit) (r : Report) (s : State) : State :=
  let s1 := s.editPosition c fun q =>
    { q with report := some r, timer := some (tenths p.config.reportTime) }
  let s2 :=
    if (s1.position c).silent then
      (s1.editPosition c fun q => { q with silent := false }).evaluateClaims c
    else s1
  (s2.noteMode c r.mode).recompute c

def serveReport (c : CraneId) (body : List Byte) (s : State) : Reply × State :=
  match s.permit c with
  | none => refuse .notConfigured s
  | some p =>
    if p.state = .offline then refuse .notRegistered s
    else match reportOf body with
      | none => refuse .badField s
      | some r =>
        let s' := s.takeReport c p r
        ({ result := .ok, body := s'.reportReply c }, s')

/-! ## CLAIM (R50, R51) -/

/-- A taken CLAIM (R51). -/
def State.takeClaim (c : CraneId) (z : ZoneId) (s : State) : Reply × State :=
  if s.grantable c z then
    let s1 := s.place z c false false
    let s2 := match s1.claimOf z c with
      | none => s1
      | some cl => s1.grantTo z cl false
    ({ result := .granted }, s2.settle [.recompute c, .examine z])
  else if s.grantableButMark c z || (s.record z).queueing then
    ({ result := .queued }, ((s.place z c false false).evaluate z).examine z)
  else refuse .zoneBusy s

def serveClaim (c : CraneId) (body : List Byte) (s : State) : Reply × State :=
  match s.craneGate c with
  | some r => refuse r s
  | none =>
    match zoneOf (byteAt body 0) with
    | none => refuse .badField s
    | some z =>
      if (s.footprint z c).isNone then refuse .noFootprint s
      else if (s.record z).kind = .excluded ∧ ¬ s.openedForCrane z c then refuse .zoneClosed s
      else if s.heldBy z c || s.hasClaim z c then refuse .duplicate s
      else if 24 ≤ s.countOf c then refuse .claimLimit s
      else if (s.wind c).stage = .restrict ∧ s.levelFor c z false < 4 then refuse .windRestricted s
      else if (s.wind c).stage = .stop then refuse .wrongState s
      else s.takeClaim c z

/-! ## WITHDRAW (R57) and RELEASE (R59) -/

def serveWithdraw (c : CraneId) (body : List Byte) (s : State) : Reply × State :=
  match s.craneGate c with
  | some r => refuse r s
  | none =>
    match zoneOf (byteAt body 0) with
    | none => refuse .badField s
    | some z =>
      match s.claimOf z c with
      | none => refuse .notQueued s
      | some cl =>
        if cl.emergency then refuse .wrongState s
        else ({ result := .ok }, s.removeClaim z c)

def serveRelease (c : CraneId) (body : List Byte) (s : State) : Reply × State :=
  match s.craneGate c with
  | some r => refuse r s
  | none =>
    match zoneOf (byteAt body 0) with
    | none => refuse .badField s
    | some z =>
      if ¬ s.heldBy z c then refuse .notHolder s
      else if s.occupies c z then refuse .releaseOccupied s
      else ({ result := .ok }, s.endHolding z c false)

/-! ## ARM (R124) -/

/-- The first refusal of R124 that holds for a configured crane. -/
def State.armRefusal (c : CraneId) (p : Permit) (s : State) : Option Result :=
  if p.state = .offline then some .notRegistered
  else if p.state = .running ∨ p.state = .derated ∨ p.state = .halted ∨ p.state = .stowing then
    some .wrongState
  else if p.state = .stowed ∧ ¬ p.stowedNote then some .wrongState
  else if ¬ p.clear then some .latched
  else if (s.position c).silent then some .silent
  else if (s.wind c).stage = .stop then some .wrongState
  else if (s.position c).unheld then some .occupiesUnheld
  else none

/-- The permit that a taken ARM gives: factor and state by R131, the stowed-report note cleared (R124). -/
def Permit.arm (p : Permit) (stage : Stage) : Permit :=
  { p.armAt (p.armedFactor stage) with stowedNote := false }

/-- A taken ARM, with its grant evaluation (R124). -/
def State.takeArm (c : CraneId) (p : Permit) (s : State) : State :=
  s.replacePermit c p (p.arm (s.wind c).stage)

def serveArm (c : CraneId) (s : State) : Reply × State :=
  match s.permit c with
  | none => refuse .notConfigured s
  | some p =>
    match s.armRefusal c p with
    | some r => refuse r s
    | none =>
      let s' := s.takeArm c p
      let body := match s'.permit c with
        | none => []
        | some q => byte q.state.code ++ byte q.factor
      ({ result := .ok, body := body }, s')

/-! ## LIFT_DONE (R156) -/

def serveLiftDone (c : CraneId) (body : List Byte) (s : State) : Reply × State :=
  match s.craneGate c with
  | some r => refuse r s
  | none =>
    match s.bookingById (byteAt body 0) with
    | none => refuse .badField s
    | some b =>
      if b.crane ≠ c then refuse .badField s
      else if ¬ b.state.runs then refuse .wrongState s
      else ({ result := .ok, body := byte b.doneState.code }, s.endBooking b.id b.doneState .liftDone)

/-! ## STATUS (R168, R171, R177) -/

/-- A paged answer: BAD_FIELD at or beyond the page count (R168). -/
def paged (content : List Byte) (page : Nat) (clearLoss : Bool) (s : State) : Reply × State :=
  if pageCount content ≤ page then refuse .badField s
  else ({ result := .ok, body := pageBody content page, clearLoss := clearLoss }, s)

def serveStatus (c : CraneId) (body : List Byte) (s : State) : Reply × State :=
  match s.permit c with
  | none => refuse .notConfigured s
  | some p => paged (s.craneContent c p false) (byteAt body 0) (byteAt body 0 == 0) s

end Sys2Proof.Machine
end

