-- ==== Sys2Proof/Machine/PlannerRequests.lean ====
section
/-! DEFINITION. The requests of the planner port, each by the rule of its owner. -/

namespace Sys2Proof.Machine

/-! ## CONFIG_AREAS (R169) -/

/-- Two areas of non-zero capacity share a slot. -/
def areasClash (a b : Nat × Nat) : Bool :=
  a.1 < a.2 && b.1 < b.2 && a.1 < b.2 && b.1 < a.2

/-- The areas are refused: an end below its start or above 256, or a shared slot. -/
def areasBad (areas : List (Nat × Nat)) : Bool :=
  areas.any (fun a => a.2 < a.1 || 256 < a.2) || !(areas.Pairwise fun a b => areasClash a b = false : Bool)

/-- The six areas stored; a changed port's queue is emptied and its NOTICE_LOSS flag set. -/
def State.storeAreas (areas : List (Nat × Nat)) (s : State) : State :=
  { s with
    boxes := Table.mapAll s.boxes fun c b =>
      let a := areas.getD c.val (0, 0)
      if b.start = a.1 ∧ b.stop = a.2 then b
      else { start := a.1, stop := a.2, queue := [], loss := true } }

def serveConfigAreas (body : List Byte) (s : State) : Reply × State :=
  if areasBad (areasOf body) then refuse .areaOverlap s
  else ({ result := .ok }, s.storeAreas (areasOf body))

/-! ## CONFIG_CRANE (R120, R121) -/

/-- The zones where the crane has a claim or a grant. -/
def State.concernedZones (c : CraneId) (s : State) : List ZoneId :=
  allZones.filter fun z => s.hasClaim z c || s.heldBy z c

/-- The record is made where there is none, and the configuration stored (R121 stages 1 and 2). -/
def State.storeConfig (c : CraneId) (g : CraneConfig) (s : State) : State :=
  { s with
    permits := Table.edit s.permits c fun
      | none => some { config := g, suspended := s.suspendedBooking c }
      | some p => some { p with config := g } }

/-- A taken CONFIG_CRANE, in the five stages of R121. -/
def State.takeConfig (c : CraneId) (g : CraneConfig) (s : State) : State :=
  let s2 := s.storeConfig c g
  let s3 := if s.baseLevel c ≠ g.base then s2.relevelAll c (s2.concernedZones c) else s2
  (s3.recompute c).govern c

def serveConfigCrane (body : List Byte) (s : State) : Reply × State :=
  match craneOf (byteAt body 0) with
  | none => refuse .badField s
  | some c =>
    if s.permitState c ≠ .offline ∧ s.permitState c ≠ .disarmed then refuse .craneActive s
    else match configOf body with
      | none => refuse .badField s
      | some g => ({ result := .ok }, s.takeConfig c g)

/-! ## CONFIG_CHANNEL (R97) -/

def serveConfigChannel (body : List Byte) (s : State) : Reply × State :=
  match channelOf (byteAt body 0), flagOf (byteAt body 1) with
  | some k, some enable => ({ result := .ok }, s.configureChannel k enable (clamp 1 10 (byteAt body 2)))
  | _, _ => refuse .badField s

/-! ## SET_TRIP_MASK (R127) -/

/-- The condition of INTRUSION: some zone held by the crane has another crane in its occupant set (R64). -/
def State.intruded (c : CraneId) (s : State) : Bool :=
  (s.heldZones c).any fun z => s.otherOccupant z c

/-- The masks of INTRUSION and SENSOR_LOSS that six mask bytes give; `none` is BAD_FIELD: a value
that is neither, or a mask on one of the four causes that cannot be masked (R127, R162). -/
def masksOf (body : List Byte) : Option (Bool × Bool) :=
  match flagOf (byteAt body 1), flagOf (byteAt body 2), flagOf (byteAt body 3),
      flagOf (byteAt body 4), flagOf (byteAt body 5), flagOf (byteAt body 6) with
  | some false, some i, some false, some false, some false, some l => some (i, l)
  | _, _, _, _, _, _ => none

/-- The masks stored, and each cause that was masked and no longer is tested (R127). Where both causes
are unmasked and both conditions hold, R127 does not say which is raised first; the model raises
INTRUSION first, the order of the trip-cause table. DESIGN CHOICE, log entry 30. -/
def State.takeMask (c : CraneId) (p : Permit) (i l : Bool) (s : State) : State :=
  let s1 := s.editPermit c fun p => { p with maskIntrusion := i, maskSensorLoss := l }
  let s2 := if p.maskIntrusion && !i && s1.intruded c then s1.raise .intrusion c else s1
  if p.maskSensorLoss && !l && (s2.wind c).blind then s2.raise .sensorLoss c else s2

def serveSetTripMask (body : List Byte) (s : State) : Reply × State :=
  match craneOf (byteAt body 0), masksOf body with
  | some c, some (i, l) =>
    match s.permit c with
    | none => refuse .notConfigured s
    | some p => ({ result := .ok }, s.takeMask c p i l)
  | _, _ => refuse .badField s

/-! ## Geometry (R12, R13, R15) -/

def serveStageZone (body : List Byte) (s : State) : Reply × State :=
  match zoneOf (byteAt body 0), zoneRecordOf body with
  | some z, some r =>
    if s.applyPending then refuse .applyPending s
    else ({ result := .ok }, { s with shadow := Table.edit s.shadow z fun _ => r })
  | _, _ => refuse .badField s

/-- The affected set: the zones whose shadow record differs from their active record (R13). -/
def State.affectedSet (s : State) : List ZoneId :=
  allZones.filter fun z => s.record z != s.shadowRecord z

def serveApplyGeometry (s : State) : Reply × State :=
  if s.applyPending then refuse .applyPending s
  else if s.affectedSet.isEmpty then ({ result := .ok }, s)
  else if s.affectedSet.all fun z => (s.zone z).state.atRest then
    ({ result := .ok }, s.completeApply s.affectedSet)
  else
    ({ result := .pending },
      s.each s.affectedSet fun z s => s.editZone z fun d => { d with mark := true })

def serveAbandonApply (s : State) : Reply × State :=
  if s.applyPending then
    let s1 := s.each s.markedZones fun z s => s.editZone z fun d => { d with mark := false }
    ({ result := .ok },
      s1.evaluateAll (s.markedZones.filter fun z =>
        (s1.zone z).state == .free && !(s1.zone z).queue.isEmpty))
  else refuse .wrongState s

/-! ## Bookings (R145 to R147, R157) -/

/-- The St of a configured crane. -/
def State.stopThreshold (c : CraneId) (s : State) : Nat :=
  match s.permit c with
  | none => 0
  | some p => p.config.stop

def serveBook (body : List Byte) (s : State) : Reply × State :=
  match bookOf body with
  | none => refuse .badField s
  | some f =>
    let b := f.booking (s.stopThreshold f.crane)
    if (s.permit f.crane).isNone then refuse .notConfigured s
    else if f.duration < 1 ∨ 240 < f.duration ∨ 1440 < f.start + f.duration then refuse .badWindow s
    else if f.zones.any fun z => (s.footprint z f.crane).isNone then refuse .noFootprint s
    else if s.bookings.any fun x => !x.state.terminal && b.conflicts x then refuse .bookingConflict s
    else if ¬ s.hasSlot then refuse .tableFull s
    else
      match s.enterBooking b with
      | (id, s') =>
        let state := match s'.bookingById id with
          | some x => x.state
          | none => .booked
        ({ result := .ok, body := byte id ++ byte state.code }, s')

/-- CANCEL of a non-terminal booking: the end effects when it was ARMED, ACTIVE or SUSPENDED; from
BOOKED the state and the notice alone (R153, R157). -/
def State.cancelBooking (b : Booking) (s : State) : State :=
  if b.state = .booked then (s.recordEnd b.id .cancelled).postBooking b.id .booked .cancel
  else s.endBooking b.id .cancelled .cancel

def serveCancel (body : List Byte) (s : State) : Reply × State :=
  match s.bookingById (byteAt body 0) with
  | none => refuse .badField s
  | some b =>
    if b.state.terminal then refuse .wrongState s else ({ result := .ok }, s.cancelBooking b)

/-! ## The site clock (R137 to R139) -/

/-- SET_CLOCK, stages 1 to 3 (R137, R148). -/
def State.takeSetClock (w m lead : Nat) (s : State) : State :=
  let k := s.clock
  let k' : Clock :=
    match k.mode with
    | .invalid | .running =>
      { mode := .running, weekday := w, minute := m, second := 0, timer := some (seconds 1) }
    | .held => { mode := .held, weekday := w, minute := m, second := 0, timer := none }
  { s with clock := k', leadTime := min 15 lead }.jumpBookings .jump

def serveSetClock (body : List Byte) (s : State) : Reply × State :=
  if 6 < byteAt body 0 then refuse .badField s
  else if 1439 < wordAt body 1 then refuse .badField s
  else
    let s' := s.takeSetClock (byteAt body 0) (wordAt body 1) (byteAt body 3)
    ({ result := .ok, body := clockBytes s'.clock }, s')

def serveHoldClock (s : State) : Reply × State :=
  match s.clock.mode with
  | .invalid => refuse .clockInvalid s
  | .running =>
    let s' := { s with clock := { s.clock with mode := .held, timer := none } }
    ({ result := .ok, body := clockBytes s'.clock }, s')
  | .held => ({ result := .ok, body := clockBytes s.clock }, s)

def serveRunClock (s : State) : Reply × State :=
  match s.clock.mode with
  | .invalid => refuse .clockInvalid s
  | .held =>
    let s' := { s with clock := { s.clock with mode := .running, timer := some (seconds 1) } }
    ({ result := .ok, body := clockBytes s'.clock }, s')
  | .running => ({ result := .ok, body := clockBytes s.clock }, s)

/-! ## HALT and RESUME (R128, R129) -/

def serveHalt (body : List Byte) (s : State) : Reply × State :=
  match craneOf (byteAt body 0) with
  | none => refuse .badField s
  | some c =>
    match s.craneGate c with
    | some r => refuse r s
    | none =>
      let s' := s.raise .plannerHalt c
      ({ result := .ok, body := byte (s'.permitState c).code }, s')

/-- The clearing condition of a cause (section 7.4). -/
def State.clears (cause : Cause) (c : CraneId) (s : State) : Bool :=
  match cause with
  | .encroach => !(s.position c).unheld
  | .intrusion => !s.intruded c
  | .silence => !(s.position c).silent
  | .yieldTimeout => true
  | .plannerHalt => true
  | .sensorLoss => !(s.wind c).blind

/-- The latched causes that a RESUME leaves (R128 stage 1). -/
def State.remainingCauses (c : CraneId) (p : Permit) (s : State) : Table Bool 6 :=
  let keep (cause : Cause) : Bool := p.hasLatched cause && !s.clears cause c
  #v[keep .encroach, keep .intrusion, keep .silence, keep .yieldTimeout, keep .plannerHalt,
    keep .sensorLoss]

/-- An expired yield timer runs again from the yield time (R76). -/
def ZoneDyn.restartYield (time : Nat) (d : ZoneDyn) : ZoneDyn :=
  match d.state with
  | .held h =>
    match h.demand with
    | some { target := t, timer := none } =>
      { d with state := .held { h with demand := some { target := t, timer := some (seconds time) } } }
    | _ => d
  | _ => d

/-- The expired yield timers of the crane's zones restart from the full active yield time (R76). -/
def State.restartYields (c : CraneId) (s : State) : State :=
  s.each (s.heldZones c) fun z s => s.editZone z (ZoneDyn.restartYield (s.record z).yieldTime)

/-- The permit after a RESUME that leaves the causes `left`: a HALTED crane with none left is DISARMED
(R128 stages 1 and 3). -/
def Permit.resumed (p : Permit) (left : Table Bool 6) : Permit :=
  let p1 := { p with latched := left }
  if p1.clear && p.state == .halted then { p1 with state := .disarmed, factor := 0 } else p1

/-- A taken RESUME (R128). The record is written once, after the yield timers have restarted (stage 2),
which do not read it. -/
def State.takeResume (c : CraneId) (p : Permit) (s : State) : State :=
  let s1 := if p.hasLatched .yieldTimeout then s.restartYields c else s
  s1.replacePermit c p (p.resumed (s.remainingCauses c p))

def serveResume (body : List Byte) (s : State) : Reply × State :=
  match craneOf (byteAt body 0) with
  | none => refuse .badField s
  | some c =>
    match s.permit c with
    | none => refuse .notConfigured s
    | some p =>
      if p.clear then refuse .nothingLatched s
      else
        let s' := s.takeResume c p
        let body := match s'.permit c with
          | none => []
          | some q => causeBytes q.latched ++ byte q.state.code
        ({ result := .ok, body := body }, s')

/-! ## Emergency claims, planner WITHDRAW, FORCE_RELEASE (R61, R81, R82, R84) -/

/-- The crane's claim or grant on the zone already carries the emergency mark (R81). -/
def State.isEmergency (c : CraneId) (z : ZoneId) (s : State) : Bool :=
  (s.claimOf z c).any (·.emergency) ||
    (match s.holding z with
     | some h => h.holder == c && h.emergency
     | none => false)

/-- The emergency field of the crane's queued claim is set, and the claim moved (R82). -/
def State.upgradeClaim (c : CraneId) (z : ZoneId) (s : State) : State :=
  match s.claimOf z c with
  | none => s
  | some cl =>
    (s.editZone z fun d =>
      { d with
        queue := insertClaim { cl with emergency := true, level := s.levelFor c z true } (dropCrane c d.queue) }).examine z

/-- The crane's grant is marked emergency and stands at level 7 (R82). -/
def State.upgradeGrant (c : CraneId) (z : ZoneId) (s : State) : State :=
  match s.holding z with
  | none => s
  | some h =>
    (s.editZone z fun d =>
      { d with state := .held { h with emergency := true, level := s.levelFor c z true } }).examine z

/-- A taken EMERGENCY_CLAIM (R82). -/
def State.takeEmergency (c : CraneId) (z : ZoneId) (s : State) : Reply × State :=
  if s.hasClaim z c then ({ result := .queued }, s.upgradeClaim c z)
  else if s.heldBy z c then ({ result := .ok }, s.upgradeGrant c z)
  else
    let s1 := (s.place z c false true).evaluate z
    ({ result := if s1.heldBy z c then .granted else .queued }, s1.examine z)

def serveEmergencyClaim (body : List Byte) (s : State) : Reply × State :=
  match craneOf (byteAt body 0), zoneOf (byteAt body 1) with
  | some c, some z =>
    if (s.permit c).isNone then refuse .notConfigured s
    else if (s.footprint z c).isNone then refuse .noFootprint s
    else if (s.record z).kind = .excluded ∧ ¬ s.openedForCrane z c then refuse .zoneClosed s
    else if s.isEmergency c z then refuse .duplicate s
    else if ¬ s.hasClaim z c ∧ ¬ s.heldBy z c ∧ 24 ≤ s.countOf c then refuse .claimLimit s
    else s.takeEmergency c z
  | _, _ => refuse .badField s

def servePlannerWithdraw (body : List Byte) (s : State) : Reply × State :=
  match craneOf (byteAt body 0), zoneOf (byteAt body 1) with
  | some c, some z =>
    if s.hasClaim z c then
      ({ result := .ok }, s.dropClaims z (fun cl => cl.crane == c) .planner)
    else refuse .notQueued s
  | _, _ => refuse .badField s

def serveForceRelease (body : List Byte) (s : State) : Reply × State :=
  match craneOf (byteAt body 0), zoneOf (byteAt body 1) with
  | some c, some z =>
    if ¬ s.heldBy z c then refuse .notHolder s
    else if s.occupies c z then refuse .releaseOccupied s
    else ({ result := .ok }, s.endHolding z c true)
  | _, _ => refuse .badField s

/-! ## Site events (R174, R175) -/

def serveReadEvents (s : State) : Reply × State :=
  ({ result := .ok, body := eventBytes s.flags ++ byte s.restart.code }, s.clearEvents)

def serveSetEventEnables (body : List Byte) (s : State) : Reply × State :=
  match (List.range 10).mapM fun i => flagOf (byteAt body i) with
  | none => refuse .badField s
  | some es =>
    let enables : Table Bool 10 := Table.mapAll s.enables fun i _ => es.getD i.val false
    ({ result := .ok, body := eventBytes enables }, { s with enables := enables })

/-! ## Status (R161, R176 to R178) -/

def serveSiteStatus (body : List Byte) (s : State) : Reply × State :=
  paged s.siteContent (byteAt body 0) false s

def serveCraneStatus (body : List Byte) (s : State) : Reply × State :=
  if byteAt body 0 = 0 then paged s.allCranesContent (byteAt body 1) false s
  else match craneOf (byteAt body 0) with
    | none => refuse .badField s
    | some c =>
      match s.permit c with
      | none => refuse .notConfigured s
      | some p => paged (s.craneContent c p true) (byteAt body 1) false s

def serveZoneStatus (body : List Byte) (s : State) : Reply × State :=
  if byteAt body 0 = 0 then paged s.allZonesContent (byteAt body 1) false s
  else match zoneOf (byteAt body 0) with
    | none => refuse .badField s
    | some z => paged (s.zoneContent z) (byteAt body 1) false s

def serveBookingStatus (body : List Byte) (s : State) : Reply × State :=
  if byteAt body 0 = 0 then paged s.allBookingsContent (byteAt body 1) false s
  else match s.bookingById (byteAt body 0) with
    | none => refuse .badField s
    | some b => paged (s.bookingContent b) (byteAt body 1) false s

/-! ## COLD_RESTART (R180) -/

/-- Stage 1: every notice queue empty, every NOTICE_LOSS flag clear (R172). -/
def State.restartBoxes (s : State) : State :=
  { s with boxes := Table.mapAll s.boxes fun _ b => { b with queue := [], loss := false } }

/-- Stage 2: every zone's dynamic state reset, the arrival counter 0 (R20, R21, R66). -/
def State.restartZones (s : State) : State :=
  { s with
    zones := Table.mapAll s.zones fun z _ =>
      { state := match (s.record z).kind with
          | .shared => .free
          | .excluded => .closed }
    arrivals := 0 }

/-- Stage 3: every position record cleared (R42). -/
def State.restartPositions (s : State) : State := { s with positions := Vector.replicate 6 {} }

/-- Stage 4: every configured crane OFFLINE, configuration and trip mask kept (R134). -/
def State.restartPermits (s : State) : State :=
  { s with
    permits := Table.mapAll s.permits fun _ =>
      Option.map fun p =>
        { config := p.config, maskIntrusion := p.maskIntrusion, maskSensorLoss := p.maskSensorLoss } }

/-- Stage 5, the records: channels keep enable, stale time and counts (R102); every wind record as
after power-on (R103). -/
def State.restartWind (s : State) : State :=
  { s with
    channels := Table.mapAll s.channels fun _ k =>
      { enable := k.enable, staleTime := k.staleTime, checkFailures := k.checkFailures, rejected := k.rejected }
    winds := Vector.replicate 6 {} }

/-- The configured cranes. -/
def State.configuredCranes (s : State) : List CraneId :=
  allCranes.filter fun c => (s.permit c).isSome

/-- Stage 6, the records: ARMED, ACTIVE and SUSPENDED bookings become BOOKED, every suspension mark
no (R160 stage 1). -/
def State.restartBookings (s : State) : State :=
  { s with
    bookings := s.bookings.map fun b =>
      if b.state.counts then { b with state := .booked, remaining := 0, short := false, notPlaced := 0 } else b
    permits := Table.mapAll s.permits fun _ => Option.map fun p => { p with suspended := false } }

/-- The stages 1 to 7 of R180. -/
def State.takeColdRestart (s : State) : State :=
  let s4 := s.restartBoxes.restartZones.restartPositions.restartPermits
  let s5 := s4.restartWind.eachOpen Fin.val s4.restartWind.configuredCranes State.govern
  let s6 := s5.restartBookings.jumpBookings .restart
  { s6.setEvent .restarted with restart := .cold }

def serveColdRestart (s : State) : Reply × State := ({ result := .ok }, s.takeColdRestart)

end Sys2Proof.Machine
end

