-- ==== Sys2Proof/Machine/Ports.lean ====
section
/-! DEFINITION. The link ports and the anemometer lines: which block a completed request goes to, the
response buffer and the pending place, the transmitter, the receivers (R88, R163 to R167, R171). -/

namespace Sys2Proof.Machine

/-! ## Request kinds (R163) -/

/-- The request kinds of the crane ports. -/
inductive CraneKind where
  | hello | report | claim | withdraw | release | arm | liftDone | status
  deriving DecidableEq, Repr

/-- The request kinds of the planner port. -/
inductive PlannerKind where
  | configAreas | configCrane | configChannel | setTripMask | stageZone | applyGeometry
  | abandonApply | book | cancel | setClock | holdClock | runClock | halt | resume
  | emergencyClaim | withdraw | forceRelease | readEvents | setEventEnables | siteStatus
  | craneStatus | zoneStatus | bookingStatus | coldRestart
  deriving DecidableEq, Repr

/-- The code of a crane kind (R163). -/
def CraneKind.code : CraneKind → Byte
  | .hello => 0x01#8
  | .report => 0x02#8
  | .claim => 0x03#8
  | .withdraw => 0x04#8
  | .release => 0x05#8
  | .arm => 0x06#8
  | .liftDone => 0x07#8
  | .status => 0x08#8

/-- The body length of a crane kind (R163). -/
def CraneKind.length : CraneKind → Nat
  | .hello => 1
  | .report => 7
  | .claim => 1
  | .withdraw => 1
  | .release => 1
  | .arm => 0
  | .liftDone => 1
  | .status => 1

/-- The code of a planner kind (R163). -/
def PlannerKind.code : PlannerKind → Byte
  | .configAreas => 0x10#8
  | .configCrane => 0x11#8
  | .configChannel => 0x12#8
  | .setTripMask => 0x13#8
  | .stageZone => 0x14#8
  | .applyGeometry => 0x15#8
  | .abandonApply => 0x16#8
  | .book => 0x17#8
  | .cancel => 0x18#8
  | .setClock => 0x19#8
  | .holdClock => 0x1A#8
  | .runClock => 0x1B#8
  | .halt => 0x1C#8
  | .resume => 0x1D#8
  | .emergencyClaim => 0x1E#8
  | .withdraw => 0x1F#8
  | .forceRelease => 0x20#8
  | .readEvents => 0x21#8
  | .setEventEnables => 0x22#8
  | .siteStatus => 0x23#8
  | .craneStatus => 0x24#8
  | .zoneStatus => 0x25#8
  | .bookingStatus => 0x26#8
  | .coldRestart => 0x27#8

/-- The body length of a planner kind (R163). -/
def PlannerKind.length : PlannerKind → Nat
  | .configAreas => 24
  | .configCrane => 30
  | .configChannel => 3
  | .setTripMask => 7
  | .stageZone => 54
  | .applyGeometry => 0
  | .abandonApply => 0
  | .book => 19
  | .cancel => 1
  | .setClock => 4
  | .holdClock => 0
  | .runClock => 0
  | .halt => 1
  | .resume => 1
  | .emergencyClaim => 2
  | .withdraw => 2
  | .forceRelease => 2
  | .readEvents => 0
  | .setEventEnables => 10
  | .siteStatus => 1
  | .craneStatus => 2
  | .zoneStatus => 2
  | .bookingStatus => 2
  | .coldRestart => 0

/-- The crane kind of a code; `none` is a code of no crane kind. -/
def craneKindOf (code : Byte) : Option CraneKind :=
  [.hello, .report, .claim, .withdraw, .release, .arm, .liftDone, .status].find? (·.code == code)

/-- The planner kind of a code; `none` is a code of no planner kind. -/
def plannerKindOf (code : Byte) : Option PlannerKind :=
  [.configAreas, .configCrane, .configChannel, .setTripMask, .stageZone, .applyGeometry,
    .abandonApply, .book, .cancel, .setClock, .holdClock, .runClock, .halt, .resume,
    .emergencyClaim, .withdraw, .forceRelease, .readEvents, .setEventEnables, .siteStatus,
    .craneStatus, .zoneStatus, .bookingStatus, .coldRestart].find? (·.code == code)

/-! ## Examination of a completed request (R165) -/

/-- A crane request handed to the block that owns it. -/
def serveCrane (c : CraneId) (k : CraneKind) (body : List Byte) (s : State) : Reply × State :=
  match k with
  | .hello => serveHello c body s
  | .report => serveReport c body s
  | .claim => serveClaim c body s
  | .withdraw => serveWithdraw c body s
  | .release => serveRelease c body s
  | .arm => serveArm c s
  | .liftDone => serveLiftDone c body s
  | .status => serveStatus c body s

/-- A planner request handed to the block that owns it. -/
def servePlanner (k : PlannerKind) (body : List Byte) (s : State) : Reply × State :=
  match k with
  | .configAreas => serveConfigAreas body s
  | .configCrane => serveConfigCrane body s
  | .configChannel => serveConfigChannel body s
  | .setTripMask => serveSetTripMask body s
  | .stageZone => serveStageZone body s
  | .applyGeometry => serveApplyGeometry s
  | .abandonApply => serveAbandonApply s
  | .book => serveBook body s
  | .cancel => serveCancel body s
  | .setClock => serveSetClock body s
  | .holdClock => serveHoldClock s
  | .runClock => serveRunClock s
  | .halt => serveHalt body s
  | .resume => serveResume body s
  | .emergencyClaim => serveEmergencyClaim body s
  | .withdraw => servePlannerWithdraw body s
  | .forceRelease => serveForceRelease body s
  | .readEvents => serveReadEvents s
  | .setEventEnables => serveSetEventEnables body s
  | .siteStatus => serveSiteStatus body s
  | .craneStatus => serveCraneStatus body s
  | .zoneStatus => serveZoneStatus body s
  | .bookingStatus => serveBookingStatus body s
  | .coldRestart => serveColdRestart s

/-- A completed request examined by the PCT and carried out by its block (R165). A planner kind on a
crane port is no code of the crane kinds, and the other way round: both are UNKNOWN_KIND. -/
def serve (p : Port) (f : Frame) (s : State) : Reply × State :=
  match p with
  | .crane c =>
    match craneKindOf f.kind with
    | none => refuse .unknownKind s
    | some k => if f.body.length ≠ k.length then refuse .length s else serveCrane c k f.body s
  | .planner =>
    match plannerKindOf f.kind with
    | none => refuse .unknownKind s
    | some k => if f.body.length ≠ k.length then refuse .length s else servePlanner k f.body s

/-! ## Taking a request and answering it (R165 to R167, R171) -/

/-- The NOTICE_LOSS bit of a response on a port: the crane port's flag, 0 on the planner port (R162). -/
def State.lossOn (p : Port) (s : State) : Bool :=
  match p with
  | .crane c => (s.box c).loss
  | .planner => false

/-- The port's NOTICE_LOSS flag is cleared (R171). -/
def State.clearLoss (p : Port) (s : State) : State :=
  match p with
  | .crane c => s.editBox c fun b => { b with loss := false }
  | .planner => s

/-- The response to a request (R165): the kind and tag of the frame, the reply, the port's flag. -/
def respond (f : Frame) (reply : Reply) (loss : Bool) : Response :=
  { kind := f.kind, tag := f.tag, result := reply.result, loss := loss, body := reply.body }

/-- A completed request is taken whole: carried out with all its hand-offs, its response formed and
placed in the buffer, and sent by an idle transmitter (R165 to R167). -/
def State.takeRequest (p : Port) (f : Frame) (s : State) : State :=
  let served := serve p f (s.editLink p fun l => { l with serving := true })
  let r := respond f served.1 (served.2.lossOn p)
  let s' := if served.1.clearLoss then served.2.clearLoss p else served.2
  (s'.editLink p fun l => { l with buffer := some r, serving := false }).startTx p

/-- A frame whose length byte is above 60 is discarded (R164). -/
def State.dropOversize (p : Port) (s : State) : State :=
  (s.editLink p fun l => { l with rx := .hunt, oversize := saturate l.oversize }).setEvent .frame

/-- A frame whose CRC does not match is discarded (R164). -/
def State.dropDamaged (p : Port) (s : State) : State :=
  (s.editLink p fun l => { l with rx := .hunt, crcErrors := saturate l.crcErrors }).setEvent .frame

/-- The expiry of a completion timer that has run out (R164); it runs only in IN_FRAME. -/
def State.dropLate (p : Port) (s : State) : State :=
  match (s.link p).rx with
  | .inFrame 0 _ =>
    (s.editLink p fun l => { l with rx := .hunt, timeouts := saturate l.timeouts }).setEvent .frame
  | .inFrame (_ + 1) _ | .hunt => s

/-- A request completes (R164, R166): the receiver is back in HUNT, and the request is taken at once,
waits in the pending place, or is discarded as an overrun. -/
def State.completed (p : Port) (f : Frame) (s : State) : State :=
  let s1 := s.editLink p fun l => { l with rx := .hunt }
  if (s.link p).waiting.isSome then
    (s1.editLink p fun l => { l with overruns := saturate l.overruns }).setEvent .frame
  else if (s.link p).buffer.isSome then s1.editLink p fun l => { l with waiting := some f }
  else s1.takeRequest p f

/-- One byte arrives on a port (R164). In HUNT the sync byte starts a frame, with 50 ms to complete, and any
other is discarded; in IN_FRAME it is collected, whatever its value, until the frame ends. -/
def State.portByte (p : Port) (b : Byte) (s : State) : State :=
  match (s.link p).rx with
  | .hunt => if b = 0xC3#8 then s.editLink p fun l => { l with rx := .inFrame 5 [] } else s
  | .inFrame left got =>
    match receptionOf (got ++ [b]) with
    | .more => s.editLink p fun l => { l with rx := .inFrame left (got ++ [b]) }
    | .oversize => s.dropOversize p
    | .damaged => s.dropDamaged p
    | .request f => s.completed p f

/-- Bytes arrive on a port one after the other (R164). -/
def State.portBytes (p : Port) (bs : List Byte) (s : State) : State := s.each bs (State.portByte p)

/-- The bytes by which a frame of first byte `first` and further bytes `rest` comes to a receiver: what is
left of it where the receiver has collected its beginning, else all of it (log entry 6). -/
def Receiver.awaited (first : Byte) (rest : List Byte) (r : Receiver) : List Byte :=
  match r with
  | .hunt => first :: rest
  | .inFrame _ got => if got.isPrefixOf rest then rest.drop got.length else first :: rest

/-- A request frame arrives on a port, byte by byte (R164). -/
def State.arrive (p : Port) (f : Frame) (s : State) : State :=
  s.portBytes p ((s.link p).rx.awaited 0xC3#8 (requestBytes f))

/-- The transmission under way ends (R166, R167): after a response the buffer is empty and a waiting
request is taken; then an idle transmitter starts what stands to be sent. -/
def State.endTx (p : Port) (s : State) : State :=
  match (s.link p).tx with
  | .idle => s
  | .notice _ => (s.editLink p fun l => { l with tx := .idle }).startTx p
  | .response _ =>
    let s1 := s.editLink p fun l => { l with tx := .idle, buffer := none, waiting := none }
    match (s.link p).waiting with
    | none => s1.startTx p
    | some f => s1.takeRequest p f

/-! ## Anemometer lines (R88) -/

/-- A sample frame is dropped: the receiver is in HUNT and the channel's check-failure count grows. -/
def State.dropSample (l : ChannelId) (s : State) : State :=
  (s.setLine l .hunt).editChannel l fun k => { k with checkFailures := saturate k.checkFailures }

/-- The expiry of a line's completion timer that has run out. -/
def State.lateSample (l : ChannelId) (s : State) : State :=
  match s.line l with
  | .inFrame 0 _ => s.dropSample l
  | .inFrame (_ + 1) _ | .hunt => s

/-- A sample frame that passed its check: handed to the Wind Unit on an enabled channel, discarded
on a disabled one. Status 0 is OK (R162). -/
def State.passSample (l : ChannelId) (speed : BitVec 16) (status : Byte) (s : State) : State :=
  let s1 := s.setLine l .hunt
  if (s.channel l).enable then s1.takeSample l speed.toNat (status == 0#8) else s1

/-- One byte arrives on an anemometer line (R88). In HUNT the start character starts a frame, with 20 ms to
complete, and any other byte is discarded uncounted; in IN_FRAME four bytes are collected, whatever their
values, and at the fourth the frame is checked. -/
def State.lineByte (l : ChannelId) (b : Byte) (s : State) : State :=
  match s.line l with
  | .hunt => if b = 0xA5#8 then s.setLine l (.inFrame 2 []) else s
  | .inFrame left got =>
    match got with
    | [hi, lo, status] =>
      if b = sampleCheck hi lo status then s.passSample l (hi ++ lo) status else s.dropSample l
    | _ => s.setLine l (.inFrame left (got ++ [b]))

/-- Bytes arrive on an anemometer line one after the other (R88). -/
def State.lineBytes (l : ChannelId) (bs : List Byte) (s : State) : State := s.each bs (State.lineByte l)

/-- A sample frame with its check character arrives on a line, byte by byte (R88). -/
def State.sampleArrives (l : ChannelId) (speed : BitVec 16) (status : Byte) (s : State) : State :=
  s.lineBytes l ((s.line l).awaited 0xA5#8 (sampleBytes speed status))

end Sys2Proof.Machine
end

