-- ==== Sys2Proof/Machine/Timers.lean ====
section
/-! DEFINITION. The timers of the part: what the expiry of each does (R39, R75, R115, R136, R152; the
others are with their blocks), and the passing of time. An expiry acts on a timer that has run out; on a
stopped timer, or on one with time left, it has no effect (log entry 3). -/

namespace Sys2Proof.Machine

/-- The expiry of a yield timer that has run out (R75): recorded as expired, and YIELD_TIMEOUT raised for the
holder. -/
def State.endYield (z : ZoneId) (s : State) : State :=
  match s.holding z with
  | none => s
  | some h =>
    match h.demand with
    | some { target := t, timer := some 0 } =>
      (s.editZone z fun d =>
        { d with state := .held { h with demand := some { target := t, timer := none } } }).raise
        .yieldTimeout h.holder
    | _ => s

/-- The expiry of a report timer that has run out (R38, R39): the timer stops, the crane is silent, and
SILENCE is raised. -/
def State.endReport (c : CraneId) (s : State) : State :=
  if (s.position c).timer = some 0 then
    (s.editPosition c fun q => { q with timer := none, silent := true }).raise .silence c
  else s

/-- The expiry of a STOWING crane's stow timer that has run out (R115). -/
def State.endStow (c : CraneId) (s : State) : State :=
  match s.permit c with
  | none => s
  | some p =>
    if p.stowTimer = some 0 ∧ p.state = .stowing then
      (s.editPermit c fun p => { p with stowTimer := none, stowOverdue := true }).setEvent .stowOverdue
    else s

/-- The RUNNING clock's second timer has run out, so that its expiry takes place; a clock request taken
first restarts or stops the timer, "so the expiry does not happen" (R136, R141). -/
def Clock.due (k : Clock) : Bool := k.mode == .running && k.timer == some 0

/-- The expiry of the second timer (R136). -/
def State.endSecond (s : State) : State :=
  if s.clock.due then
    if s.clock.second < 59 then
      { s with clock := { s.clock with second := s.clock.second + 1, timer := some (seconds 1) } }
    else s.nextMinute
  else s

/-- The minute tick: the expiry of the second timer at second 59, by which the clock enters the next
minute (R136, R149; log entry 4). -/
def State.tickMinute (s : State) : State :=
  if s.clock.due && 59 ≤ s.clock.second then s.nextMinute else s

/-- The remaining minutes of an ACTIVE or SUSPENDED booking in its last minute reach 0. They are "decreased by
minute ticks" and end the booking "at a tick" (R140, R149, R152), so this is the tick that is due, taken whole
(log entry 5). -/
def State.exhaust (id : Nat) (s : State) : State :=
  match s.bookingById id with
  | none => s
  | some b => if b.state.runs && b.remaining ≤ 1 then s.tickMinute else s

/-! ## The passing of time (log entry 1) -/

/-- A running timer counts down by 10 ms; its expiry is a command of its own. -/
def Timer.elapse (t : Timer) : Timer := t.map (· - 1)

/-- A receiver's completion timer counts down. -/
def Receiver.elapse : Receiver → Receiver
  | .hunt => .hunt
  | .inFrame left got => .inFrame (left - 1) got

/-- The timers of a zone count down. -/
def ZoneState.elapse : ZoneState → ZoneState
  | .free => .free
  | .held h =>
    .held { h with demand := h.demand.map fun d => { d with timer := Timer.elapse d.timer } }
  | .handover left => .handover (left - 1)
  | .closed => .closed

/-- 10 ms of reference time pass: every running timer counts down. -/
def State.elapse (s : State) : State :=
  { s with
    links := Table.mapAll s.links fun _ l => { l with rx := l.rx.elapse }
    lines := Table.mapAll s.lines fun _ r => r.elapse
    channels := Table.mapAll s.channels fun _ k =>
      { k with staleTimer := Timer.elapse k.staleTimer, binTimer := k.binTimer - 1 }
    winds := Table.mapAll s.winds fun _ w => { w with holdTimer := Timer.elapse w.holdTimer }
    positions := Table.mapAll s.positions fun _ q => { q with timer := Timer.elapse q.timer }
    zones := Table.mapAll s.zones fun _ d => { d with state := d.state.elapse }
    clock := { s.clock with timer := Timer.elapse s.clock.timer }
    permits := Table.mapAll s.permits fun _ =>
      Option.map fun p => { p with stowTimer := Timer.elapse p.stowTimer } }

end Sys2Proof.Machine
end

