-- ==== Sys2Proof/Machine/CraneCommands.lean ====
section
/-! DEFINITION. The meanings of the crane requests, one definition for each row. Each is the completion of
a frame of its kind on a port: R166 says whether it is taken, R165 what it is answered, and the rule of
its row what it does (serveCrane in Ports.lean, CraneRequests.lean). -/

namespace Sys2Proof.Machine

/-- HELLO (R122): a completed request frame of kind hello. -/
def execHello (p : Port) (tag : Byte) (body : List Byte) (s : State) :
    Host.Outcome State Fault Refusal :=
  .next (s.arrive p { kind := CraneKind.code .hello, tag := tag, body := body })

/-- REPORT (R24): a completed request frame of kind report. -/
def execReport (p : Port) (tag : Byte) (body : List Byte) (s : State) :
    Host.Outcome State Fault Refusal :=
  .next (s.arrive p { kind := CraneKind.code .report, tag := tag, body := body })

/-- CLAIM (R50): a completed request frame of kind claim. -/
def execClaim (p : Port) (tag : Byte) (body : List Byte) (s : State) :
    Host.Outcome State Fault Refusal :=
  .next (s.arrive p { kind := CraneKind.code .claim, tag := tag, body := body })

/-- WITHDRAW (R57): a completed request frame of kind withdraw. -/
def execWithdraw (p : Port) (tag : Byte) (body : List Byte) (s : State) :
    Host.Outcome State Fault Refusal :=
  .next (s.arrive p { kind := CraneKind.code .withdraw, tag := tag, body := body })

/-- RELEASE (R59): a completed request frame of kind release. -/
def execRelease (p : Port) (tag : Byte) (body : List Byte) (s : State) :
    Host.Outcome State Fault Refusal :=
  .next (s.arrive p { kind := CraneKind.code .release, tag := tag, body := body })

/-- ARM (R124): a completed request frame of kind arm. -/
def execArm (p : Port) (tag : Byte) (body : List Byte) (s : State) :
    Host.Outcome State Fault Refusal :=
  .next (s.arrive p { kind := CraneKind.code .arm, tag := tag, body := body })

/-- LIFT_DONE (R156): a completed request frame of kind liftDone. -/
def execLiftDone (p : Port) (tag : Byte) (body : List Byte) (s : State) :
    Host.Outcome State Fault Refusal :=
  .next (s.arrive p { kind := CraneKind.code .liftDone, tag := tag, body := body })

/-- STATUS (R168): a completed request frame of kind status. -/
def execStatus (p : Port) (tag : Byte) (body : List Byte) (s : State) :
    Host.Outcome State Fault Refusal :=
  .next (s.arrive p { kind := CraneKind.code .status, tag := tag, body := body })

end Sys2Proof.Machine
end

