-- ==== Sys2Proof/Machine/EventCommands.lean ====
section
/-! DEFINITION. The meanings of the rows that are no request: resets, port and line events, timers. One
definition for each row. -/

namespace Sys2Proof.Machine

/-- The part after power-on or a low level on RESET (R179): every record at its reset value. The
commands that still wait, and the count of open orders, are the model's own and stay (log entry 18). -/
def State.restarted (s : State) : State := { State.reset with pending := s.pending, choice := s.choice }

/-- POWER_ON (R179): every reset value. -/
def execPowerOn (s : State) :
    Host.Outcome State Fault Refusal :=
  .next s.restarted

/-- RESET (R179): a low level on RESET has the same effect as power-on. -/
def execReset (s : State) :
    Host.Outcome State Fault Refusal :=
  .next s.restarted

/-- UNKNOWN_KIND (R165): a completed request of any kind byte; its kind decides its answer. -/
def execUnknownKind (p : Port) (f : Frame) (s : State) :
    Host.Outcome State Fault Refusal :=
  .next (s.arrive p f)

/-- PENDING_REQUEST (R166): a completed request; a full response buffer makes it wait. -/
def execPendingRequest (p : Port) (f : Frame) (s : State) :
    Host.Outcome State Fault Refusal :=
  .next (s.arrive p f)

/-- REQUEST_OVERRUN (R166): a completed request; an occupied pending place discards it. -/
def execRequestOverrun (p : Port) (f : Frame) (s : State) :
    Host.Outcome State Fault Refusal :=
  .next (s.arrive p f)

/-- FRAME_OVERSIZE (R164): the bytes arrive, and the receiver judges them (log entry 7). -/
def execFrameOversize (a : PortBytes) (s : State) :
    Host.Outcome State Fault Refusal :=
  .next (s.portBytes a.port a.bytes)

/-- FRAME_CRC_ERROR (R164): the bytes arrive, and the receiver judges them (log entry 7). -/
def execFrameCrcError (a : PortBytes) (s : State) :
    Host.Outcome State Fault Refusal :=
  .next (s.portBytes a.port a.bytes)

/-- FRAME_COMPLETION_TIMEOUT (R164). -/
def execFrameCompletionTimeout (p : Port) (s : State) :
    Host.Outcome State Fault Refusal :=
  .next (s.dropLate p)

/-- TRANSMISSION_END (R166, R167). -/
def execTransmissionEnd (p : Port) (s : State) :
    Host.Outcome State Fault Refusal :=
  .next (s.endTx p)

/-- SAMPLE (R88 to R92): a sample frame arrives, byte by byte. -/
def execSample (l : ChannelId) (speed : BitVec 16) (status : Byte) (s : State) :
    Host.Outcome State Fault Refusal :=
  .next (s.sampleArrives l speed status)

/-- SAMPLE_CHECK_FAILURE (R88): the bytes arrive, and the receiver compares the check (log entry 7). -/
def execSampleCheckFailure (a : LineBytes) (s : State) :
    Host.Outcome State Fault Refusal :=
  .next (s.lineBytes a.line a.bytes)

/-- SAMPLE_FRAME_TIMEOUT (R88). -/
def execSampleFrameTimeout (l : ChannelId) (s : State) :
    Host.Outcome State Fault Refusal :=
  .next (s.lateSample l)

/-- HANDOVER_TIMER_EXPIRY (R6). -/
def execHandoverTimerExpiry (z : ZoneId) (s : State) :
    Host.Outcome State Fault Refusal :=
  .next (s.endHandover z)

/-- YIELD_TIMER_EXPIRY (R75). -/
def execYieldTimerExpiry (z : ZoneId) (s : State) :
    Host.Outcome State Fault Refusal :=
  .next (s.endYield z)

/-- REPORT_TIMER_EXPIRY (R39). -/
def execReportTimerExpiry (c : CraneId) (s : State) :
    Host.Outcome State Fault Refusal :=
  .next (s.endReport c)

/-- STALE_TIMER_EXPIRY (R93). -/
def execStaleTimerExpiry (k : ChannelId) (s : State) :
    Host.Outcome State Fault Refusal :=
  .next (s.endStale k)

/-- BIN_TIMER_EXPIRY (R95). -/
def execBinTimerExpiry (k : ChannelId) (s : State) :
    Host.Outcome State Fault Refusal :=
  .next (s.endBin k)

/-- HOLD_TIMER_EXPIRY (R109). -/
def execHoldTimerExpiry (c : CraneId) (s : State) :
    Host.Outcome State Fault Refusal :=
  .next (s.endHold c)

/-- STOW_TIMER_EXPIRY (R115). -/
def execStowTimerExpiry (c : CraneId) (s : State) :
    Host.Outcome State Fault Refusal :=
  .next (s.endStow c)

/-- SECOND_TIMER_EXPIRY (R136). -/
def execSecondTimerExpiry (s : State) :
    Host.Outcome State Fault Refusal :=
  .next s.endSecond

/-- MINUTE_TICK (R136, R149). -/
def execMinuteTick (s : State) :
    Host.Outcome State Fault Refusal :=
  .next s.tickMinute

/-- REMAINING_MINUTES_ZERO (R140, R152; log entry 5). -/
def execRemainingMinutesZero (id : Nat) (s : State) :
    Host.Outcome State Fault Refusal :=
  .next (s.exhaust id)

/-- SYNC_BYTE_IN_HUNT (R164). -/
def execSyncByteInHunt (p : Port) (s : State) :
    Host.Outcome State Fault Refusal :=
  .next (s.portByte p 0xC3#8)

/-- START_CHARACTER_IN_HUNT (R88). -/
def execStartCharacterInHunt (l : ChannelId) (s : State) :
    Host.Outcome State Fault Refusal :=
  .next (s.lineByte l 0xA5#8)

end Sys2Proof.Machine
end

