-- ==== Sys2Proof/Machine/PlannerCommands.lean ====
section
/-! DEFINITION. The meanings of the planner requests, one definition for each row. Each is the completion
of a frame of its kind on a port: R166 says whether it is taken, R165 what it is answered, and the rule of
its row what it does (servePlanner in Ports.lean, PlannerRequests.lean). -/

namespace Sys2Proof.Machine

/-- CONFIG_AREAS (R169): a completed request frame of kind configAreas. -/
def execConfigAreas (p : Port) (tag : Byte) (body : List Byte) (s : State) :
    Host.Outcome State Fault Refusal :=
  .next (s.arrive p { kind := PlannerKind.code .configAreas, tag := tag, body := body })

/-- CONFIG_CRANE (R120): a completed request frame of kind configCrane. -/
def execConfigCrane (p : Port) (tag : Byte) (body : List Byte) (s : State) :
    Host.Outcome State Fault Refusal :=
  .next (s.arrive p { kind := PlannerKind.code .configCrane, tag := tag, body := body })

/-- CONFIG_CHANNEL (R97): a completed request frame of kind configChannel. -/
def execConfigChannel (p : Port) (tag : Byte) (body : List Byte) (s : State) :
    Host.Outcome State Fault Refusal :=
  .next (s.arrive p { kind := PlannerKind.code .configChannel, tag := tag, body := body })

/-- SET_TRIP_MASK (R127): a completed request frame of kind setTripMask. -/
def execSetTripMask (p : Port) (tag : Byte) (body : List Byte) (s : State) :
    Host.Outcome State Fault Refusal :=
  .next (s.arrive p { kind := PlannerKind.code .setTripMask, tag := tag, body := body })

/-- STAGE_ZONE (R12): a completed request frame of kind stageZone. -/
def execStageZone (p : Port) (tag : Byte) (body : List Byte) (s : State) :
    Host.Outcome State Fault Refusal :=
  .next (s.arrive p { kind := PlannerKind.code .stageZone, tag := tag, body := body })

/-- APPLY_GEOMETRY (R13): a completed request frame of kind applyGeometry. -/
def execApplyGeometry (p : Port) (tag : Byte) (body : List Byte) (s : State) :
    Host.Outcome State Fault Refusal :=
  .next (s.arrive p { kind := PlannerKind.code .applyGeometry, tag := tag, body := body })

/-- ABANDON_APPLY (R15): a completed request frame of kind abandonApply. -/
def execAbandonApply (p : Port) (tag : Byte) (body : List Byte) (s : State) :
    Host.Outcome State Fault Refusal :=
  .next (s.arrive p { kind := PlannerKind.code .abandonApply, tag := tag, body := body })

/-- BOOK (R145): a completed request frame of kind book. -/
def execBook (p : Port) (tag : Byte) (body : List Byte) (s : State) :
    Host.Outcome State Fault Refusal :=
  .next (s.arrive p { kind := PlannerKind.code .book, tag := tag, body := body })

/-- CANCEL (R157): a completed request frame of kind cancel. -/
def execCancel (p : Port) (tag : Byte) (body : List Byte) (s : State) :
    Host.Outcome State Fault Refusal :=
  .next (s.arrive p { kind := PlannerKind.code .cancel, tag := tag, body := body })

/-- SET_CLOCK (R137): a completed request frame of kind setClock. -/
def execSetClock (p : Port) (tag : Byte) (body : List Byte) (s : State) :
    Host.Outcome State Fault Refusal :=
  .next (s.arrive p { kind := PlannerKind.code .setClock, tag := tag, body := body })

/-- HOLD_CLOCK (R138): a completed request frame of kind holdClock. -/
def execHoldClock (p : Port) (tag : Byte) (body : List Byte) (s : State) :
    Host.Outcome State Fault Refusal :=
  .next (s.arrive p { kind := PlannerKind.code .holdClock, tag := tag, body := body })

/-- RUN_CLOCK (R139): a completed request frame of kind runClock. -/
def execRunClock (p : Port) (tag : Byte) (body : List Byte) (s : State) :
    Host.Outcome State Fault Refusal :=
  .next (s.arrive p { kind := PlannerKind.code .runClock, tag := tag, body := body })

/-- HALT (R129): a completed request frame of kind halt. -/
def execHalt (p : Port) (tag : Byte) (body : List Byte) (s : State) :
    Host.Outcome State Fault Refusal :=
  .next (s.arrive p { kind := PlannerKind.code .halt, tag := tag, body := body })

/-- RESUME (R128): a completed request frame of kind resume. -/
def execResume (p : Port) (tag : Byte) (body : List Byte) (s : State) :
    Host.Outcome State Fault Refusal :=
  .next (s.arrive p { kind := PlannerKind.code .resume, tag := tag, body := body })

/-- EMERGENCY_CLAIM (R81): a completed request frame of kind emergencyClaim. -/
def execEmergencyClaim (p : Port) (tag : Byte) (body : List Byte) (s : State) :
    Host.Outcome State Fault Refusal :=
  .next (s.arrive p { kind := PlannerKind.code .emergencyClaim, tag := tag, body := body })

/-- PLANNER_WITHDRAW (R84): a completed request frame of kind withdraw. -/
def execPlannerWithdraw (p : Port) (tag : Byte) (body : List Byte) (s : State) :
    Host.Outcome State Fault Refusal :=
  .next (s.arrive p { kind := PlannerKind.code .withdraw, tag := tag, body := body })

/-- FORCE_RELEASE (R61): a completed request frame of kind forceRelease. -/
def execForceRelease (p : Port) (tag : Byte) (body : List Byte) (s : State) :
    Host.Outcome State Fault Refusal :=
  .next (s.arrive p { kind := PlannerKind.code .forceRelease, tag := tag, body := body })

/-- READ_EVENTS (R174): a completed request frame of kind readEvents. -/
def execReadEvents (p : Port) (tag : Byte) (body : List Byte) (s : State) :
    Host.Outcome State Fault Refusal :=
  .next (s.arrive p { kind := PlannerKind.code .readEvents, tag := tag, body := body })

/-- SET_EVENT_ENABLES (R175): a completed request frame of kind setEventEnables. -/
def execSetEventEnables (p : Port) (tag : Byte) (body : List Byte) (s : State) :
    Host.Outcome State Fault Refusal :=
  .next (s.arrive p { kind := PlannerKind.code .setEventEnables, tag := tag, body := body })

/-- SITE_STATUS (R176): a completed request frame of kind siteStatus. -/
def execSiteStatus (p : Port) (tag : Byte) (body : List Byte) (s : State) :
    Host.Outcome State Fault Refusal :=
  .next (s.arrive p { kind := PlannerKind.code .siteStatus, tag := tag, body := body })

/-- CRANE_STATUS (R177): a completed request frame of kind craneStatus. -/
def execCraneStatus (p : Port) (tag : Byte) (body : List Byte) (s : State) :
    Host.Outcome State Fault Refusal :=
  .next (s.arrive p { kind := PlannerKind.code .craneStatus, tag := tag, body := body })

/-- ZONE_STATUS (R178): a completed request frame of kind zoneStatus. -/
def execZoneStatus (p : Port) (tag : Byte) (body : List Byte) (s : State) :
    Host.Outcome State Fault Refusal :=
  .next (s.arrive p { kind := PlannerKind.code .zoneStatus, tag := tag, body := body })

/-- BOOKING_STATUS (R161): a completed request frame of kind bookingStatus. -/
def execBookingStatus (p : Port) (tag : Byte) (body : List Byte) (s : State) :
    Host.Outcome State Fault Refusal :=
  .next (s.arrive p { kind := PlannerKind.code .bookingStatus, tag := tag, body := body })

/-- COLD_RESTART (R180): a completed request frame of kind coldRestart. -/
def execColdRestart (p : Port) (tag : Byte) (body : List Byte) (s : State) :
    Host.Outcome State Fault Refusal :=
  .next (s.arrive p { kind := PlannerKind.code .coldRestart, tag := tag, body := body })

end Sys2Proof.Machine
end

