-- ==== Sys2Proof/Machine/Dispatch.lean ====
section
/-! DEFINITION. The meaning of each command: one arm for each row of spec/opcode_table.json. -/

namespace Sys2Proof.Machine

def exec (i : Instr) (s : State) : Host.Outcome State Fault Refusal :=
  match i with
  | .powerOn => Sys2Proof.Machine.execPowerOn s
  | .reset => Sys2Proof.Machine.execReset s
  | .hello p tag body => Sys2Proof.Machine.execHello p tag body s
  | .report p tag body => Sys2Proof.Machine.execReport p tag body s
  | .claim p tag body => Sys2Proof.Machine.execClaim p tag body s
  | .withdraw p tag body => Sys2Proof.Machine.execWithdraw p tag body s
  | .release p tag body => Sys2Proof.Machine.execRelease p tag body s
  | .arm p tag body => Sys2Proof.Machine.execArm p tag body s
  | .liftDone p tag body => Sys2Proof.Machine.execLiftDone p tag body s
  | .status p tag body => Sys2Proof.Machine.execStatus p tag body s
  | .configAreas p tag body => Sys2Proof.Machine.execConfigAreas p tag body s
  | .configCrane p tag body => Sys2Proof.Machine.execConfigCrane p tag body s
  | .configChannel p tag body => Sys2Proof.Machine.execConfigChannel p tag body s
  | .setTripMask p tag body => Sys2Proof.Machine.execSetTripMask p tag body s
  | .stageZone p tag body => Sys2Proof.Machine.execStageZone p tag body s
  | .applyGeometry p tag body => Sys2Proof.Machine.execApplyGeometry p tag body s
  | .abandonApply p tag body => Sys2Proof.Machine.execAbandonApply p tag body s
  | .book p tag body => Sys2Proof.Machine.execBook p tag body s
  | .cancel p tag body => Sys2Proof.Machine.execCancel p tag body s
  | .setClock p tag body => Sys2Proof.Machine.execSetClock p tag body s
  | .holdClock p tag body => Sys2Proof.Machine.execHoldClock p tag body s
  | .runClock p tag body => Sys2Proof.Machine.execRunClock p tag body s
  | .halt p tag body => Sys2Proof.Machine.execHalt p tag body s
  | .resume p tag body => Sys2Proof.Machine.execResume p tag body s
  | .emergencyClaim p tag body => Sys2Proof.Machine.execEmergencyClaim p tag body s
  | .plannerWithdraw p tag body => Sys2Proof.Machine.execPlannerWithdraw p tag body s
  | .forceRelease p tag body => Sys2Proof.Machine.execForceRelease p tag body s
  | .readEvents p tag body => Sys2Proof.Machine.execReadEvents p tag body s
  | .setEventEnables p tag body => Sys2Proof.Machine.execSetEventEnables p tag body s
  | .siteStatus p tag body => Sys2Proof.Machine.execSiteStatus p tag body s
  | .craneStatus p tag body => Sys2Proof.Machine.execCraneStatus p tag body s
  | .zoneStatus p tag body => Sys2Proof.Machine.execZoneStatus p tag body s
  | .bookingStatus p tag body => Sys2Proof.Machine.execBookingStatus p tag body s
  | .coldRestart p tag body => Sys2Proof.Machine.execColdRestart p tag body s
  | .unknownKind p f => Sys2Proof.Machine.execUnknownKind p f s
  | .pendingRequest p f => Sys2Proof.Machine.execPendingRequest p f s
  | .requestOverrun p f => Sys2Proof.Machine.execRequestOverrun p f s
  | .frameOversize a => Sys2Proof.Machine.execFrameOversize a s
  | .frameCrcError a => Sys2Proof.Machine.execFrameCrcError a s
  | .frameCompletionTimeout p => Sys2Proof.Machine.execFrameCompletionTimeout p s
  | .transmissionEnd p => Sys2Proof.Machine.execTransmissionEnd p s
  | .sample l speed status => Sys2Proof.Machine.execSample l speed status s
  | .sampleCheckFailure a => Sys2Proof.Machine.execSampleCheckFailure a s
  | .sampleFrameTimeout l => Sys2Proof.Machine.execSampleFrameTimeout l s
  | .handoverTimerExpiry z => Sys2Proof.Machine.execHandoverTimerExpiry z s
  | .yieldTimerExpiry z => Sys2Proof.Machine.execYieldTimerExpiry z s
  | .reportTimerExpiry c => Sys2Proof.Machine.execReportTimerExpiry c s
  | .staleTimerExpiry k => Sys2Proof.Machine.execStaleTimerExpiry k s
  | .binTimerExpiry k => Sys2Proof.Machine.execBinTimerExpiry k s
  | .holdTimerExpiry c => Sys2Proof.Machine.execHoldTimerExpiry c s
  | .stowTimerExpiry c => Sys2Proof.Machine.execStowTimerExpiry c s
  | .secondTimerExpiry => Sys2Proof.Machine.execSecondTimerExpiry s
  | .minuteTick => Sys2Proof.Machine.execMinuteTick s
  | .remainingMinutesZero id => Sys2Proof.Machine.execRemainingMinutesZero id s
  | .syncByteInHunt p => Sys2Proof.Machine.execSyncByteInHunt p s
  | .startCharacterInHunt l => Sys2Proof.Machine.execStartCharacterInHunt l s

end Sys2Proof.Machine
end

