-- ==== Sys2Proof/Safety.lean ====
section
/-! DEFINITION. The terms in which claims are made: what a port shows when a request is answered, what
the hand-offs of an event may do to the rest of the site, and the invariants of the records. -/

namespace Sys2Proof.Machine

/-! ## Answers on a port (R162, R165 to R167) -/

/-- A receiver at which a frame can begin: in HUNT, or with nothing collected since the first byte of one
(R88, R164). -/
def Receiver.fresh : Receiver → Bool
  | .hunt => true
  | .inFrame _ got => got.isEmpty

/-- A receiver that awaits the frame with the bytes `rest` behind its first: in HUNT, or with a part of
those bytes collected (R88, R164). -/
def Receiver.awaits (rest : List Byte) : Receiver → Bool
  | .hunt => true
  | .inFrame _ got => got.isPrefixOf rest && decide (got.length < rest.length)

/-- A port at which a request frame that arrives is taken at once: its receiver stands before the length
byte (R164), buffer and pending place are empty (R166), and no request of the port is under way. -/
def State.ready (p : Port) (s : State) : Prop :=
  (s.link p).buffer = none ∧ (s.link p).waiting = none ∧ (s.link p).serving = false ∧
    (s.link p).rx.fresh = true

/-- A port that has just answered: receiver in HUNT, the response in the buffer, and sent by a
transmitter that was idle; a notice under way is sent to its end first (R167). -/
def Link.answered (r : Response) (l : Link) : Link :=
  { l with rx := .hunt, buffer := some r, tx := if l.tx = .idle then .response r else l.tx }

/-- A request of the port is refused with the result: answered without a body, and no other effect. -/
def RefusedAs (i : Instr) (p : Port) (kind tag : Byte) (result : Result) (s : State) : Prop :=
  exec i s = .next
    (s.editLink p (Link.answered
      { kind := kind, tag := tag, result := result, loss := s.lossOn p, body := [] }))

/-- A request of the port is answered with the result and the body; the response shows the port's
NOTICE_LOSS flag as it stands after the request (R171). -/
def AnsweredAs (i : Instr) (p : Port) (kind tag : Byte) (result : Result) (body : List Byte)
    (s t : State) : Prop :=
  exec i s = .next t ∧
    t.link p = (s.link p).answered
      { kind := kind, tag := tag, result := result, loss := t.lossOn p, body := body }

/-- A port whose request is under way: receiver in HUNT, and no notice is started on it (R165, R167). -/
def State.underway (p : Port) (s : State) : State :=
  s.editLink p fun l => { l with rx := .hunt, serving := true }

/-- The response of the request under way is placed in the buffer, and sent by an idle transmitter
(R165, R167). -/
def State.answeredWith (p : Port) (r : Response) (s : State) : State :=
  s.editLink p fun l =>
    { l with buffer := some r, serving := false, tx := if l.tx = .idle then .response r else l.tx }

/-- A request of the port is answered, and its whole effect beside the answer is `eff`. -/
def TakenAs (i : Instr) (p : Port) (kind tag : Byte) (result : Result) (body : List Byte)
    (eff : State → State) (s : State) : Prop :=
  exec i s = .next ((eff s).editLink p (Link.answered
    { kind := kind, tag := tag, result := result, loss := (eff s).lossOn p, body := body }))

/-- A request of the port is answered; its own effect is `direct`, and what follows from it stays
within the frame `F`. -/
def ServedAs (F : State → State → Prop) (i : Instr) (p : Port) (kind tag : Byte) (result : Result)
    (body : List Byte) (direct : State → State) (s t : State) : Prop :=
  exec i s = .next t ∧ ∃ u, F (direct (s.underway p)) u ∧
    t = u.answeredWith p
      { kind := kind, tag := tag, result := result, loss := u.lossOn p, body := body }

/-! ## What hand-offs may do (R35, R36, R54 to R56, R125) -/

/-- A link port through hand-offs: only its transmitter may have started, and not while the port's own
request is under way or a frame is being sent (R167). -/
def Link.mayStart (a b : Link) : Prop :=
  b = { a with tx := b.tx } ∧ (a.serving = true ∨ a.tx ≠ .idle → b = a)

/-- A crane port's area through the posting of notices: the area stands, the queue never passes its
capacity, and the NOTICE_LOSS flag is not cleared (R169, R170). -/
def NoticeBox.mayPost (a b : NoticeBox) : Prop :=
  b.start = a.start ∧ b.stop = a.stop ∧ (a.loss = true → b.loss = true) ∧
    (a.queue.length ≤ a.capacity → b.queue.length ≤ b.capacity)

/-- A zone through hand-offs: HANDOVER and CLOSED stand; a HELD zone keeps its holder, level, mark and
queue, and its demand may start, go on or end; a FREE zone may be granted to a queued claim, which
leaves the queue. Opened-for and apply-pending mark stand (R54, R56, R68). -/
def ZoneDyn.mayPass (a b : ZoneDyn) : Prop :=
  b.openedFor = a.openedFor ∧ b.mark = a.mark ∧
    match a.state with
    | .closed => b = a
    | .handover _ => b = a
    | .held h => b.queue = a.queue ∧ ∃ d, b.state = .held { h with demand := d }
    | .free =>
      b = a ∨ (a.mark = false ∧ ∃ cl ∈ a.queue, ∃ d, b.queue = dropCrane cl.crane a.queue ∧
        b.state = .held { holder := cl.crane, level := cl.level, emergency := cl.emergency, demand := d })

/-- A permit through hand-offs: configuration, masks, marks and timer stand, no cause is cleared, and
the state changes only by a latch that moves DISARMED, RUNNING or DERATED to HALTED (R125). -/
def Permit.mayLatch (p q : Permit) : Prop :=
  q = { p with latched := q.latched, state := q.state, factor := q.factor } ∧
    (∀ cause, p.hasLatched cause = true → q.hasLatched cause = true) ∧
    match p.state with
    | .offline => q = p
    | .disarmed | .running | .derated =>
      q = p ∨ (q.state = .halted ∧ q.factor = 0 ∧ q.clear = false)
    | .halted | .stowing | .stowed => q.state = p.state ∧ q.factor = p.factor

/-- A crane's permit record, where it has one, through hand-offs. -/
def permitMayLatch : Option Permit → Option Permit → Prop
  | none, none => True
  | some p, some q => p.mayLatch q
  | _, _ => False

/-- What grant evaluation, recomputation and the latching of causes may do to the site. -/
structure HandOffs (s t : State) : Prop where
  lines : t.lines = s.lines
  enables : t.enables = s.enables
  restart : t.restart = s.restart
  channels : t.channels = s.channels
  winds : t.winds = s.winds
  active : t.active = s.active
  shadow : t.shadow = s.shadow
  arrivals : t.arrivals = s.arrivals
  clock : t.clock = s.clock
  leadTime : t.leadTime = s.leadTime
  bookings : t.bookings = s.bookings
  nextId : t.nextId = s.nextId
  terminals : t.terminals = s.terminals
  pending : t.pending = s.pending
  links : ∀ p, (s.link p).mayStart (t.link p)
  planner : t.link .planner = s.link .planner
  boxes : ∀ c, (s.box c).mayPost (t.box c)
  flags : ∀ e, s.event e = true → t.event e = true
  otherFlags : ∀ e, e ≠ .trip → e ≠ .silence → e ≠ .noticeLoss → t.event e = s.event e
  zones : ∀ z, (s.zone z).mayPass (t.zone z)
  reports : ∀ c, (t.position c).report = (s.position c).report ∧
    (t.position c).timer = (s.position c).timer ∧ (t.position c).silent = (s.position c).silent
  permits : ∀ c, permitMayLatch (s.permit c) (t.permit c)

/-- A crane's permit record where a booking may have moved it too: configuration, masks, stow timer and
marks stand (R132, R155). -/
def permitMayShift : Option Permit → Option Permit → Prop
  | none, none => True
  | some p, some q =>
    q = { p with state := q.state, latched := q.latched, factor := q.factor, suspended := q.suspended }
  | _, _ => False

/-- What the operations on zones, claims and bookings leave alone (chapters 1, 3, 4, 8 and 9): the
channels, the wind records, the clock, the reports, the shadow records; an active record changes to its
shadow record or not at all (R17). -/
structure CalendarFrame (s t : State) : Prop where
  lines : t.lines = s.lines
  enables : t.enables = s.enables
  restart : t.restart = s.restart
  channels : t.channels = s.channels
  winds : t.winds = s.winds
  shadow : t.shadow = s.shadow
  clock : t.clock = s.clock
  leadTime : t.leadTime = s.leadTime
  pending : t.pending = s.pending
  links : ∀ p, (s.link p).mayStart (t.link p)
  planner : t.link .planner = s.link .planner
  boxes : ∀ c, (s.box c).mayPost (t.box c)
  flags : ∀ e, s.event e = true → t.event e = true
  otherFlags : ∀ e, e ≠ .trip → e ≠ .silence → e ≠ .noticeLoss → e ≠ .booking → e ≠ .applyDone →
    t.event e = s.event e
  reports : ∀ c, (t.position c).report = (s.position c).report ∧
    (t.position c).timer = (s.position c).timer ∧ (t.position c).silent = (s.position c).silent
  records : ∀ z, t.record z = s.record z ∨ t.record z = s.shadowRecord z
  permits : ∀ c, permitMayShift (s.permit c) (t.permit c)

/-- A crane's permit record where a wind stage may have moved it too: configuration, masks and the
stowed-report note stand (R113, R116, R132). -/
def permitMayFollow : Option Permit → Option Permit → Prop
  | none, none => True
  | some p, some q =>
    q = { p with
      state := q.state, latched := q.latched, factor := q.factor, suspended := q.suspended,
      stowTimer := q.stowTimer, stowOverdue := q.stowOverdue }
  | _, _ => False

/-- What a governing evaluation with its hand-offs leaves alone (chapters 5 and 6): the channels, the
clock, the reports, the geometry, and of every booking all but its state. -/
structure WindFrame (s t : State) : Prop where
  lines : t.lines = s.lines
  enables : t.enables = s.enables
  restart : t.restart = s.restart
  channels : t.channels = s.channels
  active : t.active = s.active
  shadow : t.shadow = s.shadow
  arrivals : t.arrivals = s.arrivals
  clock : t.clock = s.clock
  leadTime : t.leadTime = s.leadTime
  nextId : t.nextId = s.nextId
  terminals : t.terminals = s.terminals
  pending : t.pending = s.pending
  links : ∀ p, (s.link p).mayStart (t.link p)
  planner : t.link .planner = s.link .planner
  boxes : ∀ c, (s.box c).mayPost (t.box c)
  flags : ∀ e, s.event e = true → t.event e = true
  otherFlags : ∀ e, e ≠ .trip → e ≠ .silence → e ≠ .noticeLoss → e ≠ .booking → e ≠ .windStop →
    t.event e = s.event e
  reports : ∀ c, (t.position c).report = (s.position c).report ∧
    (t.position c).timer = (s.position c).timer ∧ (t.position c).silent = (s.position c).silent
  openings : ∀ z, (t.zone z).openedFor = (s.zone z).openedFor ∧ (t.zone z).mark = (s.zone z).mark
  bookings : (t.bookings.map fun b => { b with state := .booked }) =
    s.bookings.map fun b => { b with state := .booked }
  permits : ∀ c, permitMayFollow (s.permit c) (t.permit c)

/-! ## Yield demands (R67 to R71) -/

/-- The first queued claim that qualifies against a holder: above its level, and either the zone is
preemptible or the claim an emergency claim (R67; log entry 23). -/
def demanding (h : Holding) (r : ZoneRecord) (q : List Claim) : Option Claim :=
  q.find? fun cl => decide (h.level < cl.level) && (r.preemptible || cl.emergency)

/-- The demand on a HELD zone with queue `q` after an examination: it starts with a full yield time,
goes on with its timer as it is, is cancelled, or does not exist (R68 to R71). -/
def demandAfter (h : Holding) (r : ZoneRecord) (q : List Claim) : Option Demand :=
  match demanding h r q, h.demand with
  | none, _ => none
  | some cl, none => some { target := cl.level, timer := some (100 * r.yieldTime) }
  | some cl, some d => some { target := cl.level, timer := d.timer }

/-- The notice to the holder at that examination: YIELD at a start (R69), YIELD_CANCEL at a cancellation
(R71). -/
def demandNotice (z : ZoneId) (h : Holding) (r : ZoneRecord) (q : List Claim) : Option Notice :=
  match demanding h r q, h.demand with
  | some cl, none => some (.yield z r.yieldTime cl.level h.level cl.emergency)
  | none, some _ => some (.yieldCancel z h.level)
  | some _, some _ => none
  | none, none => none

/-- Zone `z`, held as `h` says, has got the queue `q` and has been examined (R68). -/
def State.examined (z : ZoneId) (h : Holding) (q : List Claim) (s : State) : State :=
  let t := s.editZone z fun d =>
    { d with queue := q, state := .held { h with demand := demandAfter h (s.record z) q } }
  match demandNotice z h (s.record z) q with
  | none => t
  | some n => t.post h.holder n

/-! ## Bookings judged by the clock and by the wind (R148 to R154, R158) -/

/-- Site time (w, m) lies within the booking's window (R158). -/
def Booking.spans (w m : Nat) (b : Booking) : Prop :=
  (b.weekday = none ∨ b.weekday = some w) ∧ b.start ≤ m ∧ m < b.start + b.duration

/-- Site time (w, m) lies within the booking's arm window at the lead time (R148). -/
def Booking.awaits (lead w m : Nat) (b : Booking) : Prop :=
  if lead ≤ b.start then
    (b.weekday = none ∨ b.weekday = some w) ∧ b.start - lead ≤ m ∧ m < b.start
  else
    ((b.weekday = none ∨ b.weekday = some w) ∧ m < b.start) ∨
      ((b.weekday = none ∨ ∃ d, b.weekday = some d ∧ (d + 6) % 7 = w) ∧ b.start + 1440 - lead ≤ m)

/-- A crane's wind record forbids the lift (R151 stage 2, R154). -/
def Booking.forbidden (x : Wind) (b : Booking) : Prop :=
  x.blind = true ∨ x.stage = .stop ∨ ∃ l g, b.windLimit = some l ∧ x.gust = some g ∧ l < g

/-- A crane's wind record lets a SUSPENDED lift return, with hysteresis `h` (R154). -/
def Booking.allowed (h : Nat) (x : Wind) (b : Booking) : Prop :=
  x.blind = false ∧ x.stage ≠ .stop ∧ ∀ l, b.windLimit = some l → ∃ g, x.gust = some g ∧ g + h ≤ l

/-- Arming leaves a booking in state `state` with `left` minutes; the short flag goes with the not-placed
count (R150). -/
def Booking.armedInto (state : BookingState) (left : Nat) (b b' : Booking) : Prop :=
  b' = { b with state := state, remaining := left, short := decide (0 < b'.notPlaced), notPlaced := b'.notPlaced } ∧
    b'.notPlaced ≤ b.zones.length

/-- A booking BOOKED or ARMED is started with `left` minutes under the wind record `x`: SUSPENDED, with
site event BOOKING, where the wind forbids the lift, else ACTIVE (R150, R151). -/
def Booking.startedInto (x : Wind) (left : Nat) (event : Bool) (b b' : Booking) : Prop :=
  ∃ state, (b.forbidden x → state = .suspended ∧ event = true) ∧ (¬b.forbidden x → state = .active) ∧
    (b.state = .booked → b.armedInto state left b') ∧
    (b.state = .armed → b' = { b with state := state, remaining := left })

/-- The booking `b` and what jump evaluation at site time (w, m) makes of it, by the table of R158;
`x` is its crane's wind record and `event` the site event flag BOOKING after it. An ARMED booking that meets
the row of its arm window and that of a passed window stands: the model's choice, log entry 32. -/
structure BookingJumped (lead w m : Nat) (x : Wind) (event : Bool) (b b' : Booking) : Prop where
  starts : b.state = .booked ∨ b.state = .armed → b.spans w m →
    b.startedInto x (b.start + b.duration - m) event b'
  arms : b.state = .booked → ¬b.spans w m → b.awaits lead w m → b.armedInto .armed b.remaining b'
  waits : b.state = .booked → ¬b.spans w m → ¬b.awaits lead w m → b' = b
  stands : b.state = .armed → ¬b.spans w m → b.awaits lead w m → b' = b
  lapses : b.state = .armed → ¬b.awaits lead w m → b.weekday = none ∨ b.weekday = some w →
    b.start + b.duration ≤ m → event = true ∧
      (b.recurring = false →
        b' = { b with state := .lapsed, remaining := 0, terminalOrder := b'.terminalOrder }) ∧
      (b.recurring = true → b' = { b with state := .booked, remaining := 0, short := false, notPlaced := 0 })
  returns : b.state = .armed → ¬b.spans w m → ¬b.awaits lead w m →
    ¬((b.weekday = none ∨ b.weekday = some w) ∧ b.start + b.duration ≤ m) →
      b' = { b with state := .booked, remaining := 0, short := false, notPlaced := 0 }
  runs : b.state = .active ∨ b.state = .suspended → b' = b
  ended : b.state.terminal = true → b' = { b with terminalOrder := b'.terminalOrder }

/-- The booking `b` and what a wind check makes of it, by the table of R154. -/
structure BookingChecked (h : Nat) (x : Wind) (event : Bool) (b b' : Booking) : Prop where
  suspended : b.state = .active → b.forbidden x → b' = { b with state := .suspended } ∧ event = true
  goesOn : b.state = .active → ¬b.forbidden x → b' = b
  returned : b.state = .suspended → b.allowed h x → b' = { b with state := .active }
  waits : b.state = .suspended → ¬b.allowed h x → b' = b
  others : b.state ≠ .active → b.state ≠ .suspended → b' = b

/-! ## The end of a booking (R144, R153) -/

/-- A booking `b` that ended as `b'` in a terminal state has got its terminal order: one more than the
counter, or, at 65535, than the number of terminal entries, which are renumbered in their order (R144). That
the order is 1 where there is no terminal entry to renumber is the model's choice, log entry 33. -/
structure TerminalOrderGiven (s t : State) (b b' : Booking) : Prop where
  counted : s.terminals < 65535 → b'.terminalOrder = s.terminals + 1 ∧ t.terminals = s.terminals + 1
  others : s.terminals < 65535 → ∀ o ∈ s.bookings, o.id ≠ b.id → o ∈ t.bookings
  renumbered : 65535 ≤ s.terminals →
    ((s.bookings.filter (·.state.terminal)).map (·.terminalOrder)).Nodup →
    b'.terminalOrder = (s.bookings.filter (·.state.terminal)).length + 1 ∧
      t.terminals = (s.bookings.filter (·.state.terminal)).length + 1 ∧
      ∀ o ∈ s.bookings, o.id ≠ b.id → o.state.terminal = true →
        { o with terminalOrder :=
          (s.bookings.filter fun x => x.state.terminal && decide (x.terminalOrder ≤ o.terminalOrder)).length } ∈
          t.bookings

/-- Another booking of the crane in ARMED, ACTIVE or SUSPENDED lists the zone (R58). -/
def State.listedBeside (b : Booking) (z : ZoneId) (s : State) : Prop :=
  ∃ o ∈ s.bookings, o.id ≠ b.id ∧ o.crane = b.crane ∧
    (o.state = .armed ∨ o.state = .active ∨ o.state = .suspended) ∧ z ∈ o.zones

/-- The level of the crane's claims and grants on a zone without the booking `b`: the highest of its base
level, its other running bookings that list the zone, and 7 for an emergency (R47). -/
def State.levelWithout (b : Booking) (z : ZoneId) (emergency : Bool) (s : State) : Nat :=
  ((s.bookings.filter fun o =>
    o.id != b.id && o.crane == b.crane && o.state.counts && o.zones.contains z).map (·.level)).foldr max
      (if emergency then max 7 (s.baseLevel b.crane) else s.baseLevel b.crane)

/-- The end of the booking `b` closes no zone, and grants none: it opens no zone and none is open for it, and
where it is SUSPENDED no FREE zone has a claim of its crane, which the end of the suspension could grant
(R132: RUNNING from DERATED; R55). -/
structure State.EndsQuietly (b : Booking) (s : State) : Prop where
  opensNone : b.opens = false
  openForNone : ∀ z, (s.zone z).openedFor ≠ some b.id
  grantsNone : b.state = .suspended → ∀ z, s.hasClaim z b.crane = true → (s.zone z).state ≠ .free

/-- What the end of a running booking `b` does to the claims and grants of its crane (stage 2 of R153): its
booked claims are withdrawn from the listed zones, but where another running booking of the crane lists the
zone (R58); where the end closes and grants no zone, the other claims and grants on the listed zones stay at
the level of their remaining terms (R48), and no other claim and no other zone is touched. -/
structure BookingClaimsEnded (b : Booking) (s t : State) : Prop where
  withdrawn : ∀ z ∈ b.zones, ¬s.listedBeside b z → ∀ cl ∈ (t.zone z).queue, cl.crane = b.crane → cl.booked = false
  kept : s.EndsQuietly b → ∀ z ∈ b.zones, ∀ cl,
    s.claimOf z b.crane = some cl → cl.booked = false ∨ s.listedBeside b z →
      t.claimOf z b.crane = some { cl with level := s.levelWithout b z cl.emergency }
  grants : s.EndsQuietly b → ∀ z ∈ b.zones, ∀ h, s.holding z = some h → h.holder = b.crane →
    ∃ d, t.holding z = some { h with level := s.levelWithout b z h.emergency, demand := d }
  others : s.EndsQuietly b → ∀ z,
    (t.zone z).queue.filter (·.crane != b.crane) = (s.zone z).queue.filter (·.crane != b.crane)
  elsewhere : s.EndsQuietly b → ∀ z, z ∉ b.zones → t.zone z = s.zone z

/-! ## Invariants -/

/-- "Each crane port's notice queue holds no more notices than its area's capacity, and no two areas
share a slot" (R169). -/
def State.noticeStoreOk (s : State) : Prop :=
  (∀ c, (s.box c).start ≤ (s.box c).stop ∧ (s.box c).stop ≤ 256 ∧
    (s.box c).queue.length ≤ (s.box c).capacity) ∧
  ∀ c d, c ≠ d → ∀ slot, ¬((s.box c).start ≤ slot ∧ slot < (s.box c).stop ∧
    (s.box d).start ≤ slot ∧ slot < (s.box d).stop)

/-- A link receiver holds less than a frame: before the last byte, behind a length byte of at most 60
(R164). -/
def Receiver.portOk : Receiver → Prop
  | .hunt => True
  | .inFrame _ [] => True
  | .inFrame _ (len :: more) => len.toNat ≤ 60 ∧ more.length < len.toNat + 4

/-- A line receiver holds less than the four bytes of a frame (R88). -/
def Receiver.lineOk : Receiver → Prop
  | .hunt => True
  | .inFrame _ got => got.length ≤ 3

/-- The line receivers of R88. -/
def State.linesOk (s : State) : Prop := ∀ l, (s.line l).lineOk

/-- One link port between two steps: the receiver holds less than a frame, no request under way, a request
waits only behind a full buffer, a full buffer or a waiting notice leaves no transmitter idle, and the
counts stay in range (R164, R166, R167). -/
def State.linkOk (p : Port) (s : State) : Prop :=
  let l := s.link p
  l.rx.portOk ∧ l.serving = false ∧ (l.waiting.isSome = true → l.buffer.isSome = true) ∧
    (l.buffer.isSome = true → l.tx ≠ .idle) ∧
    (∀ c, p = .crane c → (s.box c).queue ≠ [] → l.tx ≠ .idle) ∧
    l.oversize ≤ 65535 ∧ l.timeouts ≤ 65535 ∧ l.crcErrors ≤ 65535 ∧ l.overruns ≤ 65535

def State.linksOk (s : State) : Prop := ∀ p, s.linkOk p

/-- A claim queue: at most one claim per crane, ordered by level and then by arrival (R44). -/
def queueOk (q : List Claim) : Prop :=
  (q.map (·.crane)).Nodup ∧ q.Pairwise fun a b => b.before a = false

/-- The queues of R44: each in order, and a holder never in its own zone's queue. -/
def State.queuesOk (s : State) : Prop :=
  ∀ z, queueOk (s.zone z).queue ∧ ∀ h, s.holding z = some h → ∀ cl ∈ (s.zone z).queue, cl.crane ≠ h.holder

/-- One permit record: the restrict factor in its range, the speed factor of its state (R131), and
causes latched only in HALTED, STOWING and STOWED, at least one of them in HALTED (R125). -/
def Permit.ok (p : Permit) : Prop :=
  10 ≤ p.config.restrictFactor ∧ p.config.restrictFactor ≤ 90 ∧
    match p.state with
    | .offline | .disarmed => p.factor = 0 ∧ p.clear = true
    | .running => p.factor = 100 ∧ p.clear = true
    | .derated => 10 ≤ p.factor ∧ p.factor ≤ 90 ∧ p.clear = true
    | .halted => p.factor = 0 ∧ p.clear = false
    | .stowing | .stowed => p.factor = 0

def State.permitsOk (s : State) : Prop := ∀ c p, s.permit c = some p → p.ok

/-- "A crane whose wind stage is STOP has a permit that is STOWING, STOWED or OFFLINE" (R113), and a
crane with no configuration has never left CALM (R118). -/
def State.stopIsStowed (s : State) : Prop :=
  ∀ c, (s.wind c).stage = .stop →
    ∃ p, s.permit c = some p ∧ (p.state = .stowing ∨ p.state = .stowed ∨ p.state = .offline)

/-- One channel record (R87, R90 to R95): ranges, and what is present in which state. -/
def Channel.ok (k : Channel) : Prop :=
  k.ring.length ≤ 12 ∧ (∀ x ∈ k.ring, x ≤ 700) ∧ k.bins.length ≤ 10 ∧ k.openCount ≤ 240 ∧
    k.rejectedRun ≤ 7 ∧ k.recoveryRun ≤ 11 ∧ k.checkFailures ≤ 65535 ∧ k.rejected ≤ 65535 ∧
    (k.enable = false → k.state = .noSignal) ∧
    match k.state with
    | .live => k.ring ≠ [] ∧ k.gust = some (gustOf k.ring) ∧ k.staleTimer.isSome = true
    | .noSignal | .stale =>
      k.ring = [] ∧ k.gust = none ∧ k.staleTimer = none ∧ k.bins = [] ∧ k.openCount = 0 ∧ k.mean = none
    | .faulted =>
      k.gust = none ∧ k.staleTimer = none ∧ k.bins = [] ∧ k.openCount = 0 ∧ k.mean = none

def State.channelsOk (s : State) : Prop := ∀ k, (s.channel k).ok

/-- The clock record (R135): ranges, the second timer running exactly while RUNNING, and zeros while
INVALID. -/
def State.clockOk (s : State) : Prop :=
  s.clock.weekday ≤ 6 ∧ s.clock.minute ≤ 1439 ∧ s.clock.second ≤ 59 ∧ s.leadTime ≤ 15 ∧
    (s.clock.timer.isSome = true ↔ s.clock.mode = .running) ∧
    (s.clock.mode = .invalid → s.clock.weekday = 0 ∧ s.clock.minute = 0 ∧ s.clock.second = 0)

end Sys2Proof.Machine
end

