-- ==== Sys2Proof/Certificates/Slice0/Obligations.lean ====
section
/-! DEFINITION. The statements for the provers. A request row is a whole request frame that completes on
a port; `State.ready`, `RefusedAs`, `TakenAs` and `ServedAs` (Safety.lean) say when it is taken at once
and how it is answered. Each docstring names the rules of spec/ that a statement rests on. -/

section

open Sys2Proof Sys2Proof.Machine

/-! ## Steps, resets, ports -/

/-- One step carries out the command at the front of the queue with the rest of the queue. That the
commands wait in one first-in first-out queue is the model's choice (log entry 20); that each is carried
out whole before the next is the spec's (95_what_each_step_holds.md). -/
def Obligations.StepRunsFrontCommand : Prop :=
  ∀ (c : Instr) (rest : List Instr) (s : State), s.pending = c :: rest →
    step s = exec c { s with pending := rest }

/-- A step on an empty queue lets 10 ms pass: running timers count down, stopped timers stay stopped,
nothing else changes. The model's choice (log entries 1 and 2), not a rule of the spec. -/
def Obligations.IdleStepPassesTime : Prop :=
  ∀ s : State, s.pending = [] → ∃ t, step s = .next t ∧
    (∀ p, t.link p = { s.link p with
      rx := match (s.link p).rx with
        | .hunt => .hunt
        | .inFrame n got => .inFrame (n - 1) got }) ∧
    (∀ l, t.line l = match s.line l with
      | .hunt => .hunt
      | .inFrame n got => .inFrame (n - 1) got) ∧
    (∀ k, t.channel k = { s.channel k with
      staleTimer := (s.channel k).staleTimer.map (· - 1), binTimer := (s.channel k).binTimer - 1 }) ∧
    (∀ c, t.wind c = { s.wind c with holdTimer := (s.wind c).holdTimer.map (· - 1) }) ∧
    (∀ c, t.position c = { s.position c with timer := (s.position c).timer.map (· - 1) }) ∧
    (∀ z, t.zone z = { s.zone z with
      state := match (s.zone z).state with
        | .free => .free
        | .held h => .held { h with
            demand := h.demand.map fun d => { d with timer := d.timer.map (· - 1) } }
        | .handover n => .handover (n - 1)
        | .closed => .closed }) ∧
    (∀ c, t.permit c = (s.permit c).map fun p => { p with stowTimer := p.stowTimer.map (· - 1) }) ∧
    t.clock = { s.clock with timer := s.clock.timer.map (· - 1) } ∧
    t.boxes = s.boxes ∧ t.flags = s.flags ∧ t.enables = s.enables ∧ t.restart = s.restart ∧
    t.active = s.active ∧ t.shadow = s.shadow ∧ t.arrivals = s.arrivals ∧ t.leadTime = s.leadTime ∧
    t.bookings = s.bookings ∧ t.nextId = s.nextId ∧ t.terminals = s.terminals ∧
    t.choice = s.choice ∧ t.pending = s.pending

/-- POWER_ON and RESET lead to one state, whatever the state before: the reset values of R179 and of
the rules it gathers (R19, R42, R66, R86, R102, R103, R134, R142, R160, R172, R173). The waiting
commands and the count of open orders are the model's own and stay (log entry 18). -/
def Obligations.PowerOnAndReset : Prop :=
  ∀ s : State, ∃ t, exec .powerOn s = .next t ∧ exec .reset s = .next t ∧
    (∀ p, t.link p = { rx := .hunt, buffer := none, waiting := none, tx := .idle, serving := false,
                       oversize := 0, timeouts := 0, crcErrors := 0, overruns := 0 }) ∧
    (∀ c, t.box c = { start := 0, stop := 0, queue := [], loss := false }) ∧
    (∀ l, t.line l = .hunt) ∧
    (∀ e, t.event e = true ↔ e = .restarted) ∧ (∀ i, Table.entry t.enables i = false) ∧
    t.restart = .power ∧ t.attn = false ∧
    (∀ k, (t.channel k).enable = true ∧ (t.channel k).staleTime = 2 ∧
      (t.channel k).state = .noSignal ∧ (t.channel k).staleTimer = none ∧ (t.channel k).ring = [] ∧
      (t.channel k).gust = none ∧ (t.channel k).openCount = 0 ∧ (t.channel k).openSum = 0 ∧
      (t.channel k).bins = [] ∧ (t.channel k).mean = none ∧ (t.channel k).binTimer = 6000 ∧
      (t.channel k).rejectedRun = 0 ∧ (t.channel k).recoveryRun = 0 ∧
      (t.channel k).checkFailures = 0 ∧ (t.channel k).rejected = 0) ∧
    (∀ c, (t.wind c).source = .none ∧ (t.wind c).gust = none ∧ (t.wind c).mean = none ∧
      (t.wind c).blind = true ∧ (t.wind c).stage = .calm ∧ (t.wind c).holdTimer = none) ∧
    (∀ c, (t.position c).report = none ∧ (t.position c).envelope = none ∧
      (t.position c).stopReach = 0 ∧ (t.position c).windMargin = 0 ∧ (t.position c).occupied = [] ∧
      (t.position c).unheld = false ∧ (t.position c).cw = 0 ∧ (t.position c).ccw = 0 ∧
      (t.position c).timer = none ∧ (t.position c).silent = false) ∧
    (∀ z, (t.record z).kind = .shared ∧ (t.record z).preemptible = false ∧
      (t.record z).queueing = true ∧ (t.record z).yieldTime = 60 ∧ (t.record z).deadTime = 10 ∧
      (∀ c, t.footprint z c = none) ∧ t.shadowRecord z = t.record z) ∧
    (∀ z, (t.zone z).state = .free ∧ (t.zone z).queue = [] ∧ (t.zone z).openedFor = none ∧
      (t.zone z).mark = false) ∧ t.arrivals = 0 ∧
    t.clock.mode = .invalid ∧ t.clock.weekday = 0 ∧ t.clock.minute = 0 ∧ t.clock.second = 0 ∧
    t.clock.timer = none ∧ t.leadTime = 10 ∧ t.bookings = [] ∧ t.nextId = 1 ∧ t.terminals = 0 ∧
    (∀ c, t.permit c = none) ∧ t.pending = s.pending ∧ t.choice = s.choice

/-- Every request row is the arrival of a frame whose kind byte is the code of R163, and the rows
UNKNOWN_KIND, PENDING_REQUEST and REQUEST_OVERRUN are arrivals of any frame (log entries 6 and 7). A frame
of up to 60 body bytes arrives as its bytes by the layout of R162, from the sync byte on, or what is left of
them where the receiver has collected its beginning; in either case it completes alike. -/
def Obligations.RequestsAreFrames : Prop :=
  ∀ (p : Port) (tag : Byte) (b : List Byte) (s : State),
    let frame (kind : Byte) := exec (.unknownKind p { kind := kind, tag := tag, body := b }) s
    exec (.hello p tag b) s = frame 0x01#8 ∧ exec (.report p tag b) s = frame 0x02#8 ∧
    exec (.claim p tag b) s = frame 0x03#8 ∧ exec (.withdraw p tag b) s = frame 0x04#8 ∧
    exec (.release p tag b) s = frame 0x05#8 ∧ exec (.arm p tag b) s = frame 0x06#8 ∧
    exec (.liftDone p tag b) s = frame 0x07#8 ∧ exec (.status p tag b) s = frame 0x08#8 ∧
    exec (.configAreas p tag b) s = frame 0x10#8 ∧ exec (.configCrane p tag b) s = frame 0x11#8 ∧
    exec (.configChannel p tag b) s = frame 0x12#8 ∧ exec (.setTripMask p tag b) s = frame 0x13#8 ∧
    exec (.stageZone p tag b) s = frame 0x14#8 ∧ exec (.applyGeometry p tag b) s = frame 0x15#8 ∧
    exec (.abandonApply p tag b) s = frame 0x16#8 ∧ exec (.book p tag b) s = frame 0x17#8 ∧
    exec (.cancel p tag b) s = frame 0x18#8 ∧ exec (.setClock p tag b) s = frame 0x19#8 ∧
    exec (.holdClock p tag b) s = frame 0x1A#8 ∧ exec (.runClock p tag b) s = frame 0x1B#8 ∧
    exec (.halt p tag b) s = frame 0x1C#8 ∧ exec (.resume p tag b) s = frame 0x1D#8 ∧
    exec (.emergencyClaim p tag b) s = frame 0x1E#8 ∧
    exec (.plannerWithdraw p tag b) s = frame 0x1F#8 ∧
    exec (.forceRelease p tag b) s = frame 0x20#8 ∧ exec (.readEvents p tag b) s = frame 0x21#8 ∧
    exec (.setEventEnables p tag b) s = frame 0x22#8 ∧ exec (.siteStatus p tag b) s = frame 0x23#8 ∧
    exec (.craneStatus p tag b) s = frame 0x24#8 ∧ exec (.zoneStatus p tag b) s = frame 0x25#8 ∧
    exec (.bookingStatus p tag b) s = frame 0x26#8 ∧ exec (.coldRestart p tag b) s = frame 0x27#8 ∧
    ∀ f : Frame, exec (.pendingRequest p f) s = exec (.unknownKind p f) s ∧
      exec (.requestOverrun p f) s = exec (.unknownKind p f) s ∧
      (f.body.length ≤ 60 →
        let inner := BitVec.ofNat 8 f.body.length :: f.kind :: f.tag :: f.body
        let rest := inner ++ twoBytes (crc16 inner).toNat
        ((s.link p).rx = .hunt →
          exec (.unknownKind p f) s = exec (.frameCrcError { port := p, bytes := 0xC3#8 :: rest }) s) ∧
        (∀ n got more, (s.link p).rx = .inFrame n got → got ++ more = rest →
          exec (.unknownKind p f) s = exec (.frameCrcError { port := p, bytes := more }) s ∧
          (more ≠ [] → exec (.unknownKind p f) s =
            exec (.unknownKind p f) (s.editLink p fun l => { l with rx := .hunt }))) ∧
        (∀ n got, (s.link p).rx = .inFrame n got → ¬got <+: rest →
          exec (.unknownKind p f) s = exec (.frameCrcError { port := p, bytes := 0xC3#8 :: rest }) s))

/-- A kind byte that is no code of the port's class is answered UNKNOWN_KIND: on a crane port every
code but 0x01 to 0x08, on the planner port every code but 0x10 to 0x27 (R163, R165). -/
def Obligations.UnknownKindRefused : Prop :=
  ∀ (p : Port) (f : Frame) (s : State), s.ready p → f.body.length ≤ 60 →
    (match p with
      | .crane _ => f.kind.toNat < 0x01 ∨ 0x08 < f.kind.toNat
      | .planner => f.kind.toNat < 0x10 ∨ 0x27 < f.kind.toNat) →
    RefusedAs (.unknownKind p f) p f.kind f.tag .unknownKind s

/-- A request on a port of its class whose body has not the length of R163 is answered LENGTH (R165). -/
def Obligations.WrongLengthRefused : Prop :=
  ∀ (c : CraneId) (tag : Byte) (b : List Byte) (s : State), b.length ≤ 60 →
    (s.ready (.crane c) →
      (b.length ≠ 1 → RefusedAs (.hello (.crane c) tag b) (.crane c) 0x01#8 tag .length s) ∧
      (b.length ≠ 7 → RefusedAs (.report (.crane c) tag b) (.crane c) 0x02#8 tag .length s) ∧
      (b.length ≠ 1 → RefusedAs (.claim (.crane c) tag b) (.crane c) 0x03#8 tag .length s) ∧
      (b.length ≠ 1 → RefusedAs (.withdraw (.crane c) tag b) (.crane c) 0x04#8 tag .length s) ∧
      (b.length ≠ 1 → RefusedAs (.release (.crane c) tag b) (.crane c) 0x05#8 tag .length s) ∧
      (b.length ≠ 0 → RefusedAs (.arm (.crane c) tag b) (.crane c) 0x06#8 tag .length s) ∧
      (b.length ≠ 1 → RefusedAs (.liftDone (.crane c) tag b) (.crane c) 0x07#8 tag .length s) ∧
      (b.length ≠ 1 → RefusedAs (.status (.crane c) tag b) (.crane c) 0x08#8 tag .length s)) ∧
    (s.ready .planner →
      (b.length ≠ 24 → RefusedAs (.configAreas .planner tag b) .planner 0x10#8 tag .length s) ∧
      (b.length ≠ 30 → RefusedAs (.configCrane .planner tag b) .planner 0x11#8 tag .length s) ∧
      (b.length ≠ 3 → RefusedAs (.configChannel .planner tag b) .planner 0x12#8 tag .length s) ∧
      (b.length ≠ 7 → RefusedAs (.setTripMask .planner tag b) .planner 0x13#8 tag .length s) ∧
      (b.length ≠ 54 → RefusedAs (.stageZone .planner tag b) .planner 0x14#8 tag .length s) ∧
      (b.length ≠ 0 → RefusedAs (.applyGeometry .planner tag b) .planner 0x15#8 tag .length s) ∧
      (b.length ≠ 0 → RefusedAs (.abandonApply .planner tag b) .planner 0x16#8 tag .length s) ∧
      (b.length ≠ 19 → RefusedAs (.book .planner tag b) .planner 0x17#8 tag .length s) ∧
      (b.length ≠ 1 → RefusedAs (.cancel .planner tag b) .planner 0x18#8 tag .length s) ∧
      (b.length ≠ 4 → RefusedAs (.setClock .planner tag b) .planner 0x19#8 tag .length s) ∧
      (b.length ≠ 0 → RefusedAs (.holdClock .planner tag b) .planner 0x1A#8 tag .length s) ∧
      (b.length ≠ 0 → RefusedAs (.runClock .planner tag b) .planner 0x1B#8 tag .length s) ∧
      (b.length ≠ 1 → RefusedAs (.halt .planner tag b) .planner 0x1C#8 tag .length s) ∧
      (b.length ≠ 1 → RefusedAs (.resume .planner tag b) .planner 0x1D#8 tag .length s) ∧
      (b.length ≠ 2 → RefusedAs (.emergencyClaim .planner tag b) .planner 0x1E#8 tag .length s) ∧
      (b.length ≠ 2 → RefusedAs (.plannerWithdraw .planner tag b) .planner 0x1F#8 tag .length s) ∧
      (b.length ≠ 2 → RefusedAs (.forceRelease .planner tag b) .planner 0x20#8 tag .length s) ∧
      (b.length ≠ 0 → RefusedAs (.readEvents .planner tag b) .planner 0x21#8 tag .length s) ∧
      (b.length ≠ 10 → RefusedAs (.setEventEnables .planner tag b) .planner 0x22#8 tag .length s) ∧
      (b.length ≠ 1 → RefusedAs (.siteStatus .planner tag b) .planner 0x23#8 tag .length s) ∧
      (b.length ≠ 2 → RefusedAs (.craneStatus .planner tag b) .planner 0x24#8 tag .length s) ∧
      (b.length ≠ 2 → RefusedAs (.zoneStatus .planner tag b) .planner 0x25#8 tag .length s) ∧
      (b.length ≠ 2 → RefusedAs (.bookingStatus .planner tag b) .planner 0x26#8 tag .length s) ∧
      (b.length ≠ 0 → RefusedAs (.coldRestart .planner tag b) .planner 0x27#8 tag .length s))

/-- A request that completes while the response buffer is full waits in the empty pending place, and
nothing else changes but the receiver; one that finds the place occupied is discarded unanswered, the
overrun count grows and saturates, and FRAME is set (R166). -/
def Obligations.RequestWaitsOrOverruns : Prop :=
  ∀ (p : Port) (f : Frame) (s : State), f.body.length ≤ 60 →
    (s.link p).rx.awaits (requestBytes f) = true →
    ((s.link p).waiting = none → (s.link p).buffer.isSome = true →
      exec (.pendingRequest p f) s =
        .next (s.editLink p fun l => { l with rx := .hunt, waiting := some f })) ∧
    ((s.link p).waiting.isSome = true →
      exec (.requestOverrun p f) s =
        .next ((s.editLink p fun l =>
          { l with rx := .hunt, overruns := min 65535 (l.overruns + 1) }).setEvent .frame))

/-- A discarded frame has no effect beyond its count and FRAME, and the receiver is back in HUNT (R164): one
whose length byte is above 60, one whose last byte comes with a CRC that does not match, and one whose
completion timer runs out. A completion timer that has not run out does not expire (log entry 3). Of a frame
given whole with a body above 60 bytes the length byte alone arrives, and the rows FRAME_OVERSIZE and
FRAME_CRC_ERROR carry the bytes that arrive: the model's choice (log entries 6 and 7). -/
def Obligations.FramesDropped : Prop :=
  ∀ (p : Port) (s : State),
    let oversize := (s.editLink p fun l =>
      { l with rx := .hunt, oversize := min 65535 (l.oversize + 1) }).setEvent .frame
    (∀ n (b : Byte), (s.link p).rx = .inFrame n [] → 60 < b.toNat →
      exec (.frameOversize { port := p, bytes := [b] }) s = .next oversize) ∧
    (∀ (bytes body : List Byte) (len kind tag c1 c2 : Byte), len.toNat ≤ 60 → body.length = len.toNat →
      c1 ++ c2 ≠ crc16 (len :: kind :: tag :: body) →
      ((s.link p).rx = .hunt ∧ bytes = 0xC3#8 :: len :: kind :: tag :: (body ++ [c1, c2]) ∨
        ∃ n got, (s.link p).rx = .inFrame n got ∧ bytes ≠ [] ∧
          got ++ bytes = len :: kind :: tag :: (body ++ [c1, c2])) →
      exec (.frameCrcError { port := p, bytes := bytes }) s =
        .next ((s.editLink p fun l =>
          { l with rx := .hunt, crcErrors := min 65535 (l.crcErrors + 1) }).setEvent .frame)) ∧
    (∀ got, (s.link p).rx = .inFrame 0 got →
      exec (.frameCompletionTimeout p) s =
        .next ((s.editLink p fun l =>
          { l with rx := .hunt, timeouts := min 65535 (l.timeouts + 1) }).setEvent .frame)) ∧
    ((∀ got, (s.link p).rx ≠ .inFrame 0 got) → exec (.frameCompletionTimeout p) s = .next s) ∧
    ∀ f : Frame, 60 < f.body.length → (s.link p).rx.fresh = true →
      exec (.unknownKind p f) s = .next oversize

/-- What a transmitter does when its frame ends, by the table of R167, with no request waiting: a
sent response empties the buffer; then a full buffer is sent, else the oldest notice, which leaves its
queue, else the transmitter is idle. -/
def Obligations.TransmissionEnds : Prop :=
  ∀ (p : Port) (s : State), (s.link p).serving = false →
    ((s.link p).tx = .idle → exec (.transmissionEnd p) s = .next s) ∧
    (∀ n r, (s.link p).tx = .notice n → (s.link p).buffer = some r →
      exec (.transmissionEnd p) s = .next (s.editLink p fun l => { l with tx := .response r })) ∧
    ((∃ n, (s.link p).tx = .notice n ∧ (s.link p).buffer = none) ∨
        (∃ r, (s.link p).tx = .response r ∧ (s.link p).waiting = none) →
      (∀ c m rest, p = .crane c → (s.box c).queue = m :: rest →
        exec (.transmissionEnd p) s =
          .next ((s.editBox c fun b => { b with queue := rest }).editLink p fun l =>
            { l with tx := .notice m, buffer := none })) ∧
      ((∀ c, p = .crane c → (s.box c).queue = []) →
        exec (.transmissionEnd p) s =
          .next (s.editLink p fun l => { l with tx := .idle, buffer := none })))

/-- When the transmission of a response ends, the waiting request is taken: the port behaves as if the
request completed at that moment on a port whose buffer and pending place are empty (R166). -/
def Obligations.WaitingRequestIsTaken : Prop :=
  ∀ (p : Port) (f : Frame) (r : Response) (s : State), (s.link p).tx = .response r →
    (s.link p).waiting = some f → (s.link p).rx = .hunt → (s.link p).serving = false →
    f.body.length ≤ 60 →
    exec (.transmissionEnd p) s = exec (.unknownKind p f)
      (s.editLink p fun l => { l with tx := .idle, buffer := none, waiting := none })

/-- Bytes at a receiver (R88, R164). They are taken one after the other. In HUNT the sync byte of a link port
starts the 50 ms completion timer and the start character of a line the 20 ms one (10 ms units, log entry 2),
and any other byte is discarded uncounted; inside a frame a byte of any value is collected, until the last of
the L + 4 behind the length byte, or the fourth of a sample frame. Which bytes the rows bring is the model's
choice: FRAME_OVERSIZE and FRAME_CRC_ERROR the bytes they carry, with one effect (log entry 7), and
SYNC_BYTE_IN_HUNT the byte C3 and START_CHARACTER_IN_HUNT the byte A5 in every receiver state (log entry 6). -/
def Obligations.StartBytes : Prop :=
  ∀ (p : Port) (l : ChannelId) (b : Byte) (bs : List Byte) (s : State),
    let onPort (bytes : List Byte) (u : State) := exec (.frameCrcError { port := p, bytes := bytes }) u
    let onLine (bytes : List Byte) (u : State) := exec (.sampleCheckFailure { line := l, bytes := bytes }) u
    onPort [] s = .next s ∧ onLine [] s = .next s ∧
    (∃ t, onPort [b] s = .next t ∧ onPort (b :: bs) s = onPort bs t) ∧
    (∃ t, onLine [b] s = .next t ∧ onLine (b :: bs) s = onLine bs t) ∧
    exec (.frameOversize { port := p, bytes := bs }) s = onPort bs s ∧
    exec (.syncByteInHunt p) s = onPort [0xC3#8] s ∧ exec (.startCharacterInHunt l) s = onLine [0xA5#8] s ∧
    ((s.link p).rx = .hunt →
      exec (.syncByteInHunt p) s = .next (s.editLink p fun x => { x with rx := .inFrame 5 [] }) ∧
      (b ≠ 0xC3#8 → onPort [b] s = .next s)) ∧
    (∀ n got, (s.link p).rx = .inFrame n got →
      (got = [] ∧ b.toNat ≤ 60 ∨
        ∃ len more, got = len :: more ∧ len.toNat ≤ 60 ∧ more.length + 1 < len.toNat + 4) →
      onPort [b] s = .next (s.editLink p fun x => { x with rx := .inFrame n (got ++ [b]) })) ∧
    (s.line l = .hunt →
      exec (.startCharacterInHunt l) s = .next (s.setLine l (.inFrame 2 [])) ∧
      (b ≠ 0xA5#8 → onLine [b] s = .next s)) ∧
    (∀ n got, s.line l = .inFrame n got → got.length < 3 →
      onLine [b] s = .next (s.setLine l (.inFrame n (got ++ [b]))))

/-- A request answered with any result but OK, GRANTED, QUEUED and PENDING changes nothing but its own
port's link: the response, without a body, and its transmission (R165; 00_scope, "Refusals"). -/
def Obligations.RefusalsChangeNothing : Prop :=
  ∀ (p : Port) (f : Frame) (s t : State) (r : Response), s.ready p →
    exec (.unknownKind p f) s = .next t → (t.link p).buffer = some r →
    r.result ≠ .ok → r.result ≠ .granted → r.result ≠ .queued → r.result ≠ .pending →
    t = s.editLink p (Link.answered r) ∧ r.body = [] ∧ r.kind = f.kind ∧ r.tag = f.tag ∧
      r.loss = s.lossOn p

/-- A posted notice: added while the queue holds fewer notices than its capacity, and started at once by
an idle transmitter with nothing else to send; otherwise lost, with the port's flag and the site event
(R167, R170). -/
def Obligations.NoticePosted : Prop :=
  ∀ (c : CraneId) (n : Notice) (s : State),
    ((s.box c).capacity ≤ (s.box c).queue.length →
      s.post c n = (s.editBox c fun b => { b with loss := true }).setEvent .noticeLoss) ∧
    ((s.box c).queue.length < (s.box c).capacity →
      (s.link (.crane c)).serving = true ∨ (s.link (.crane c)).tx ≠ .idle →
      s.post c n = s.editBox c fun b => { b with queue := b.queue ++ [n] }) ∧
    ((s.box c).queue = [] → 0 < (s.box c).capacity → (s.link (.crane c)).serving = false →
      (s.link (.crane c)).tx = .idle → (s.link (.crane c)).buffer = none →
      s.post c n = s.editLink (.crane c) fun l => { l with tx := .notice n })

/-! ## Crane requests -/

/-- HELLO: the refusals of R122 in their order; a HELLO from an OFFLINE crane registers it: STOWING with
its stow timer at stage STOP, DISARMED at any other, and a stopped report timer starts; the response
shows permit state, speed factor, stage and the number of latched causes (R38, R122). -/
def Obligations.HelloRegisters : Prop :=
  ∀ (c : CraneId) (tag : Byte) (s : State), s.ready (.crane c) →
    (∀ (n : Byte) (x : Result),
      (if n.toNat ≠ c.val + 1 then some Result.wrongPort
        else if s.permit c = none then some .notConfigured
        else if (s.box c).capacity = 0 then some .noArea
        else none) = some x →
      RefusedAs (.hello (.crane c) tag [n]) (.crane c) 0x01#8 tag x s) ∧
    ∀ p, s.permit c = some p → p.state = .offline → 0 < (s.box c).capacity →
      ∃ t q, ServedAs HandOffs (.hello (.crane c) tag [BitVec.ofNat 8 (c.val + 1)]) (.crane c) 0x01#8
        tag .ok (byte q.state.code ++ byte q.factor ++ byte (s.wind c).stage.rank ++
          byte (q.latched.toList.filter id).length)
        (fun u => (u.editPermit c fun p =>
            if (s.wind c).stage = .stop then
              { p with state := .stowing, stowTimer := some (100 * p.config.stowTime),
                       stowOverdue := false }
            else { p with state := .disarmed }).editPosition c fun o =>
          { o with timer := some (o.timer.getD (10 * p.config.reportTime)) }) s t ∧
        t.permit c = some q

/-- A HELLO from a registered crane drops its claims that are neither booked nor emergency, takes an
armed permit to DISARMED (which a hand-off may then trip), and leaves its holdings and every booking;
a crane in any other state keeps its state (R123). -/
def Obligations.HelloAgain : Prop :=
  ∀ (c : CraneId) (tag : Byte) (p : Permit) (s : State), s.ready (.crane c) →
    s.permit c = some p → p.state ≠ .offline → 0 < (s.box c).capacity →
    ∃ t q, ServedAs CalendarFrame (.hello (.crane c) tag [BitVec.ofNat 8 (c.val + 1)]) (.crane c)
      0x01#8 tag .ok (byte q.state.code ++ byte q.factor ++ byte (s.wind c).stage.rank ++
        byte (q.latched.toList.filter id).length) (fun u => u) s t ∧
      t.permit c = some q ∧
      (p.state = .running ∨ p.state = .derated →
        (q.state = .disarmed ∨ q.state = .halted) ∧ q.factor = 0) ∧
      (p.state ≠ .running → p.state ≠ .derated → q.state = p.state) ∧
      (∀ z cl, t.claimOf z c = some cl → cl.booked = true ∨ cl.emergency = true) ∧
      (∀ z, s.heldBy z c = true → t.heldBy z c = true) ∧ t.bookings = s.bookings

/-- The refusals of REPORT in the order of R24. -/
def Obligations.ReportRefused : Prop :=
  ∀ (c : CraneId) (tag : Byte) (b : List Byte) (s : State) (x : Result), s.ready (.crane c) →
    b.length = 7 →
    (if s.permit c = none then some Result.notConfigured
      else if s.permitState c = .offline then some .notRegistered
      else if 2 < byteAt b 0 ∨ 3599 < wordAt b 1 then some .badField
      else none) = some x →
    RefusedAs (.report (.crane c) tag b) (.crane c) 0x02#8 tag x s

/-- A taken REPORT: the last report with its clamps, the report timer, the end of silence; a STOWING crane
that reports FREE_SLEW is STOWED, any other STOWING or STOWED crane keeps its state; stop reach, wind
margin, envelope, occupied zones, occupies-unheld mark and slew rooms of the new report; ENCROACH latched
where the mark is set, INTRUSION for the holder of a zone the crane enters; and the response of R26 (R25 to
R33, R37, R38, R40, R63, R114, R125). An absent gust of a crane that is not blind counts as 0: the model's
choice, log entry 24. -/
def Obligations.ReportTaken : Prop :=
  ∀ (c : CraneId) (tag : Byte) (b : List Byte) (s : State) (p : Permit) (m : Mode),
    s.ready (.crane c) → b.length = 7 → s.permit c = some p → p.state ≠ .offline →
    byteAt b 0 = m.code → wordAt b 1 ≤ 3599 →
    let r : Report :=
      { mode := m, angle := wordAt b 1,
        rate := if m = .parked then 0 else max (-100) (min 100 (signedAt b 3)),
        radius := min 1200 (wordAt b 5) }
    let w := s.wind c
    let reach := (r.rate.natAbs * p.config.stopTime + 19) / 20
    let wm := if w.blind then p.config.windMax
      else if w.gust.getD 0 ≤ p.config.caution then 0
      else min p.config.windMax (((w.gust.getD 0 - p.config.caution) * p.config.windGain + 9) / 10)
    let blocking (t : State) : List Footprint := allZones.filterMap fun z =>
      (s.footprint z c).filter fun f => !t.heldBy z c && f.appliesTo r
    ∃ t q, ServedAs CalendarFrame (.report (.crane c) tag b) (.crane c) 0x02#8 tag .ok
      (byte q.state.code ++ byte q.factor ++ byte w.stage.rank ++ twoBytes (t.position c).cw ++
        twoBytes (t.position c).ccw ++ twoBytes (p.config.margin + wm) ++
        envelopeBytes (some (envelopeOf r reach (p.config.margin + wm))) ++
        yesNo (t.position c).unheld)
      (fun u => (u.editPosition c fun o =>
          { o with report := some r, timer := some (10 * p.config.reportTime), silent := false }).editPermit
        c fun p =>
          if p.state = .stowing ∧ m = .freeSlew then
            { p with state := .stowed, stowTimer := none, stowOverdue := false, stowedNote := false }
          else if p.state = .stowed ∧ m ≠ .freeSlew then { p with stowedNote := true }
          else p) s t ∧
      t.permit c = some q ∧ (t.position c).stopReach = reach ∧ (t.position c).windMargin = wm ∧
      (t.position c).envelope = some (envelopeOf r reach (p.config.margin + wm)) ∧
      (∀ z, z ∈ (t.position c).occupied ↔ ∃ f, s.footprint z c = some f ∧ f.appliesTo r = true ∧
        (envelopeOf r reach (p.config.margin + wm)).meets f = true) ∧
      t.bookings = s.bookings ∧ t.arrivals = s.arrivals ∧ t.active = s.active ∧
      (p.state = .stowing → q.state = if m = .freeSlew then .stowed else .stowing) ∧
      (p.state = .stowed → q.state = .stowed) ∧
      ((t.position c).unheld = true ↔ ∃ z ∈ (t.position c).occupied, t.heldBy z c = false) ∧
      (t.position c).cw = (if (t.position c).unheld then 0
        else cwRoom r.angle (p.config.margin + wm) (blocking t)) ∧
      (t.position c).ccw = (if (t.position c).unheld then 0
        else ccwRoom r.angle (p.config.margin + wm) (blocking t)) ∧
      ((t.position c).unheld = true →
        (p.state = .disarmed ∨ p.state = .running ∨ p.state = .derated ∨ p.state = .halted →
          q.state = .halted ∧ q.hasLatched .encroach = true) ∧
        (p.state = .disarmed ∨ p.state = .running ∨ p.state = .derated →
          q.factor = 0 ∧ t.event .trip = true)) ∧
      (∀ z d g, d ≠ c → s.heldBy z d = true → s.permit d = some g → g.state ≠ .offline →
        g.maskIntrusion = false → s.occupies c z = false → t.occupies c z = true →
        ∃ g', t.permit d = some g' ∧ g'.hasLatched .intrusion = true ∧
          (g.state = .disarmed ∨ g.state = .running ∨ g.state = .derated →
            g'.state = .halted ∧ g'.factor = 0 ∧ t.event .trip = true))

/-- The envelope: the full circle in FREE_SLEW or when reach and margins make up 3599 or more, else the
arc from the margin behind the jib to reach and margin ahead of it, in the direction of the rate
(R29, R30, with the arcs of 00_scope). -/
def Obligations.EnvelopeRule : Prop :=
  ∀ (r : Report) (reach margin x : Nat), r.angle < 3600 → x < 3600 →
    (r.mode = .freeSlew ∨ 3599 ≤ reach + 2 * margin → envelopeOf r reach margin = .full) ∧
    (r.mode ≠ .freeSlew → reach + 2 * margin < 3599 →
      ∃ lo hi, envelopeOf r reach margin = .arc lo hi ∧ lo < 3600 ∧ hi < 3600 ∧
        (arcContains lo hi x = true ↔
          if 0 ≤ r.rate then (x + 7200 - r.angle + margin) % 3600 ≤ reach + 2 * margin
          else (x + 7200 - r.angle + reach + margin) % 3600 ≤ reach + 2 * margin))

/-- The grant conditions (R53): the zone is FREE, SHARED or opened for a booking of the crane, without
another occupant and without an apply-pending mark; the crane is DISARMED, RUNNING or DERATED and not
silent. -/
def Obligations.GrantConditions : Prop :=
  ∀ (c : CraneId) (z : ZoneId) (s : State), s.grantable c z = true ↔
    (s.zone z).state = .free ∧ ((s.record z).kind = .shared ∨ s.openedForCrane z c = true) ∧
      (∀ d, d ≠ c → s.occupies d z = false) ∧
      (∃ p, s.permit c = some p ∧ (p.state = .disarmed ∨ p.state = .running ∨ p.state = .derated)) ∧
      (s.position c).silent = false ∧ (s.zone z).mark = false

/-- The refusals of CLAIM: those of R50 in their order, then ZONE_BUSY where the zone cannot be granted
and its queueing is off (R51; a grant held back by an apply-pending mark alone is queued). -/
def Obligations.ClaimRefused : Prop :=
  ∀ (c : CraneId) (tag : Byte) (s : State) (x : Result), s.ready (.crane c) →
    (∀ n : Byte,
      (if s.permit c = none then some Result.notConfigured
        else if s.permitState c = .offline then some .notRegistered
        else if n.toNat = 0 ∨ 48 < n.toNat then some .badField
        else none) = some x →
      RefusedAs (.claim (.crane c) tag [n]) (.crane c) 0x03#8 tag x s) ∧
    (∀ z : ZoneId, s.permit c ≠ none → s.permitState c ≠ .offline →
      (if s.footprint z c = none then some Result.noFootprint
        else if (s.record z).kind = .excluded ∧ s.openedForCrane z c = false then some .zoneClosed
        else if s.heldBy z c = true ∨ s.hasClaim z c = true then some .duplicate
        else if 24 ≤ s.countOf c then some .claimLimit
        else if (s.wind c).stage = .restrict ∧ s.levelFor c z false < 4 then some .windRestricted
        else if (s.wind c).stage = .stop then some .wrongState
        else if s.grantableButMark c z = false ∧ (s.record z).queueing = false then some .zoneBusy
        else none) = some x →
      RefusedAs (.claim (.crane c) tag [BitVec.ofNat 8 (z.val + 1)]) (.crane c) 0x03#8 tag x s)

/-- A taken CLAIM, below the last arrival sequence: with the grant conditions met the zone is HELD at
the claim's level with no emergency mark and the answer is GRANTED; else the claim stands in the queue,
neither booked nor emergency, and the answer is QUEUED; on a HELD zone a yield demand then starts, goes
on, or does not exist, with its notice to the holder, and nothing else follows (R45, R47, R51, R67 to
R70). The first qualifying claim of the queue is decisive (log entry 23). -/
def Obligations.ClaimTaken : Prop :=
  ∀ (c : CraneId) (z : ZoneId) (tag : Byte) (s : State), s.ready (.crane c) →
    s.permit c ≠ none → s.permitState c ≠ .offline → s.footprint z c ≠ none →
    ((s.record z).kind = .shared ∨ s.openedForCrane z c = true) →
    s.heldBy z c = false → s.hasClaim z c = false → s.countOf c < 24 → s.arrivals < 65535 →
    ((s.wind c).stage = .calm ∨ (s.wind c).stage = .caution ∨
      ((s.wind c).stage = .restrict ∧ 4 ≤ s.levelFor c z false)) →
    let new : Claim :=
      { crane := c, level := s.levelFor c z false, booked := false, emergency := false,
        arrival := s.arrivals + 1 }
    (s.grantable c z = true →
      ∃ t, ServedAs HandOffs (.claim (.crane c) tag [BitVec.ofNat 8 (z.val + 1)]) (.crane c) 0x03#8 tag
        .granted []
        (fun u => { u.editZone z (fun d =>
          { d with state := .held { holder := c, level := s.levelFor c z false, emergency := false,
                                    demand := none } }) with
          arrivals := s.arrivals + 1 }) s t) ∧
    (s.grantable c z = false → (s.grantableButMark c z = true ∨ (s.record z).queueing = true) →
      ∃ t, ServedAs HandOffs (.claim (.crane c) tag [BitVec.ofNat 8 (z.val + 1)]) (.crane c) 0x03#8 tag
        .queued []
        (fun u => { u.editZone z (fun d => { d with queue := insertClaim new d.queue }) with
          arrivals := s.arrivals + 1 }) s t) ∧
    (∀ h, s.holding z = some h → (s.record z).queueing = true →
      TakenAs (.claim (.crane c) tag [BitVec.ofNat 8 (z.val + 1)]) (.crane c) 0x03#8 tag .queued []
        (fun u => ({ u with arrivals := s.arrivals + 1 } : State).examined z h
          (insertClaim new (s.zone z).queue)) s)

/-- WITHDRAW from a crane by the table of R57, and from the planner by R84: the refusals, and the claim
leaving the queue; on a HELD zone the yield demand then goes on with the level of the next claim that
qualifies, or is cancelled (R68, R70, R71; log entry 23). -/
def Obligations.ClaimsWithdrawn : Prop :=
  ∀ (c : CraneId) (z : ZoneId) (tag n k : Byte) (s : State),
    (s.ready (.crane c) →
      (∀ x, (if s.permit c = none then some Result.notConfigured
          else if s.permitState c = .offline then some .notRegistered
          else if n.toNat = 0 ∨ 48 < n.toNat then some .badField
          else none) = some x →
        RefusedAs (.withdraw (.crane c) tag [n]) (.crane c) 0x04#8 tag x s) ∧
      (s.permit c ≠ none → s.permitState c ≠ .offline →
        (s.claimOf z c = none →
          RefusedAs (.withdraw (.crane c) tag [BitVec.ofNat 8 (z.val + 1)]) (.crane c) 0x04#8 tag
            .notQueued s) ∧
        (∀ cl, s.claimOf z c = some cl → cl.emergency = true →
          RefusedAs (.withdraw (.crane c) tag [BitVec.ofNat 8 (z.val + 1)]) (.crane c) 0x04#8 tag
            .wrongState s) ∧
        (∀ cl, s.claimOf z c = some cl → cl.emergency = false →
          ∃ t, ServedAs HandOffs (.withdraw (.crane c) tag [BitVec.ofNat 8 (z.val + 1)]) (.crane c)
            0x04#8 tag .ok []
            (fun u => u.editZone z fun d => { d with queue := d.queue.filter (·.crane != c) }) s t ∧
          ∀ h, s.holding z = some h →
            t.holding z = some { h with
              demand := demandAfter h (s.record z) ((s.zone z).queue.filter (·.crane != c)) } ∧
            (h.holder ≠ c →
              TakenAs (.withdraw (.crane c) tag [BitVec.ofNat 8 (z.val + 1)]) (.crane c) 0x04#8 tag
                .ok [] (fun u => u.examined z h ((s.zone z).queue.filter (·.crane != c))) s)))) ∧
    (s.ready .planner →
      (n.toNat = 0 ∨ 6 < n.toNat ∨ k.toNat = 0 ∨ 48 < k.toNat →
        RefusedAs (.plannerWithdraw .planner tag [n, k]) .planner 0x1F#8 tag .badField s) ∧
      (s.claimOf z c = none →
        RefusedAs (.plannerWithdraw .planner tag [BitVec.ofNat 8 (c.val + 1), BitVec.ofNat 8 (z.val + 1)])
          .planner 0x1F#8 tag .notQueued s) ∧
      (s.claimOf z c ≠ none →
        ∃ t, ServedAs HandOffs (.plannerWithdraw .planner tag
            [BitVec.ofNat 8 (c.val + 1), BitVec.ofNat 8 (z.val + 1)]) .planner 0x1F#8 tag .ok []
          (fun u => u.editZone z fun d => { d with queue := d.queue.filter (·.crane != c) }) s t ∧
          ∀ h, s.holding z = some h → t.holding z = some { h with
            demand := demandAfter h (s.record z) ((s.zone z).queue.filter (·.crane != c)) }))

/-- The refusals of RELEASE (R59) and of FORCE_RELEASE (R61). -/
def Obligations.ReleaseRefused : Prop :=
  ∀ (c : CraneId) (z : ZoneId) (tag n k : Byte) (s : State),
    (s.ready (.crane c) →
      (∀ x, (if s.permit c = none then some Result.notConfigured
          else if s.permitState c = .offline then some .notRegistered
          else if n.toNat = 0 ∨ 48 < n.toNat then some .badField
          else none) = some x →
        RefusedAs (.release (.crane c) tag [n]) (.crane c) 0x05#8 tag x s) ∧
      (∀ x, s.permit c ≠ none → s.permitState c ≠ .offline →
        (if s.heldBy z c = false then some Result.notHolder
          else if s.occupies c z = true then some .releaseOccupied else none) = some x →
        RefusedAs (.release (.crane c) tag [BitVec.ofNat 8 (z.val + 1)]) (.crane c) 0x05#8 tag x s)) ∧
    (s.ready .planner →
      (n.toNat = 0 ∨ 6 < n.toNat ∨ k.toNat = 0 ∨ 48 < k.toNat →
        RefusedAs (.forceRelease .planner tag [n, k]) .planner 0x20#8 tag .badField s) ∧
      (∀ x, (if s.heldBy z c = false then some Result.notHolder
          else if s.occupies c z = true then some .releaseOccupied else none) = some x →
        RefusedAs (.forceRelease .planner tag [BitVec.ofNat 8 (c.val + 1), BitVec.ofNat 8 (z.val + 1)])
          .planner 0x20#8 tag x s))

/-- A taken RELEASE or FORCE_RELEASE ends the holding: a closing zone goes to CLOSED, any other to
HANDOVER with its dead time when that is above 0, and is open to a grant when it is 0; a zone with the
apply-pending mark is granted to nobody. Where the zone carries the mark and this leaves every zone of the
pending apply FREE or CLOSED, the apply completes besides (R6, R10, R14, R16, R17, R60, R61). -/
def Obligations.ReleaseTaken : Prop :=
  ∀ (c : CraneId) (z : ZoneId) (tag : Byte) (s : State), s.heldBy z c = true → s.occupies c z = false →
    let next : ZoneState :=
      if (s.record z).kind = .excluded ∧ (s.zone z).openedFor = none then .closed
      else if 0 < (s.record z).deadTime then .handover (100 * (s.record z).deadTime) else .free
    let direct (u : State) : State := u.editZone z fun d => { d with state := next }
    let completes : Prop := (s.zone z).mark = true ∧ (next = .free ∨ next = .closed) ∧
      ∀ y, y ≠ z → (s.zone y).mark = true → (s.zone y).state = .free ∨ (s.zone y).state = .closed
    let ends (i : Instr) (p : Port) (kind : Byte) : Prop :=
      ∃ t, ServedAs CalendarFrame i p kind tag .ok [] direct s t ∧
        (s.hasClaim z c = false → t.heldBy z c = false) ∧
        (¬completes → ServedAs HandOffs i p kind tag .ok [] direct s t ∧
          ((s.zone z).mark = true → t.zone z = { s.zone z with state := next })) ∧
        (completes → t.event .applyDone = true ∧ ∀ y, (t.zone y).mark = false ∧
          t.record y = if (s.zone y).mark then s.shadowRecord y else s.record y)
    (s.ready (.crane c) → s.permit c ≠ none → s.permitState c ≠ .offline →
      ends (.release (.crane c) tag [BitVec.ofNat 8 (z.val + 1)]) (.crane c) 0x05#8) ∧
    (s.ready .planner →
      ends (.forceRelease .planner tag [BitVec.ofNat 8 (c.val + 1), BitVec.ofNat 8 (z.val + 1)])
        .planner 0x20#8)

/-- ARM: the refusals of R124 in their order; a taken ARM makes the crane RUNNING at factor 100 or
DERATED below it, with the caps of R131, and clears the stowed-report note. -/
def Obligations.ArmTaken : Prop :=
  ∀ (c : CraneId) (tag : Byte) (s : State), s.ready (.crane c) →
    (s.permit c = none → RefusedAs (.arm (.crane c) tag []) (.crane c) 0x06#8 tag .notConfigured s) ∧
    ∀ p, s.permit c = some p →
      let refusal : Option Result :=
        if p.state = .offline then some .notRegistered
        else if p.state ≠ .disarmed ∧ p.state ≠ .stowed then some .wrongState
        else if p.state = .stowed ∧ p.stowedNote = false then some .wrongState
        else if p.clear = false then some .latched
        else if (s.position c).silent = true then some .silent
        else if (s.wind c).stage = .stop then some .wrongState
        else if (s.position c).unheld = true then some .occupiesUnheld
        else none
      let staged := if (s.wind c).stage = .restrict then min 100 p.config.restrictFactor else 100
      let factor := if p.suspended then min staged 25 else staged
      (∀ x, refusal = some x → RefusedAs (.arm (.crane c) tag []) (.crane c) 0x06#8 tag x s) ∧
      (refusal = none →
        ∃ t q, ServedAs HandOffs (.arm (.crane c) tag []) (.crane c) 0x06#8 tag .ok
            (byte q.state.code ++ byte q.factor)
            (fun u => u.editPermit c fun _ =>
              { p with
                state := if factor = 100 then .running else .derated
                factor := factor, stowedNote := false }) s t ∧
          t.permit c = some q)

/-- LIFT_DONE: the refusals of R156 in their order; a taken one ends the booking as DONE with its terminal
order, or as BOOKED when it is recurring, and answers the new state; its booked claims are withdrawn, and
the levels of the crane's other claims and grants on its zones fall to their remaining terms (R48, R58, R144,
R153, R156). At a terminal counter of 65535 with no terminal entry, the order is 1: the model's choice, log
entry 33. -/
def Obligations.LiftDoneTaken : Prop :=
  ∀ (c : CraneId) (tag n : Byte) (s : State), s.ready (.crane c) →
    (∀ x, (if s.permit c = none then some Result.notConfigured
        else if s.permitState c = .offline then some .notRegistered
        else if (s.bookingById n.toNat).all (fun b => b.crane != c) = true then some .badField
        else if (s.bookingById n.toNat).all (fun b => b.state != .active && b.state != .suspended) = true
          then some .wrongState
        else none) = some x →
      RefusedAs (.liftDone (.crane c) tag [n]) (.crane c) 0x07#8 tag x s) ∧
    ∀ b, s.permit c ≠ none → s.permitState c ≠ .offline → s.bookingById n.toNat = some b →
      b.crane = c → (b.state = .active ∨ b.state = .suspended) →
      let new : BookingState := if b.recurring then .booked else .done
      ∃ t b', ServedAs CalendarFrame (.liftDone (.crane c) tag [n]) (.crane c) 0x07#8 tag .ok
          (byte new.code) (fun u => u) s t ∧
        t.bookingById n.toNat = some b' ∧
        b' = { b with
          state := new, remaining := 0, short := if b.recurring then false else b.short,
          notPlaced := if b.recurring then 0 else b.notPlaced, terminalOrder := b'.terminalOrder } ∧
        t.nextId = s.nextId ∧ BookingClaimsEnded b s t ∧
        (b.recurring = false → TerminalOrderGiven s t b b') ∧
        (b.recurring = true → b'.terminalOrder = b.terminalOrder ∧ t.terminals = s.terminals)

/-- The paged requests: a page at or beyond the page count is refused BAD_FIELD, any other carries page
number, page count and the next 58 bytes of the content; nothing changes but that STATUS for page 0
clears the port's NOTICE_LOSS flag, which its own response still shows (R161, R168, R171, R176 to R178).
Parts of the layout of the content are the model's choice (log entries 13 and 14). -/
def Obligations.StatusPages : Prop :=
  ∀ (tag n : Byte) (s : State),
    let pages (content : List Byte) : Nat := max 1 ((content.length + 57) / 58)
    let page (content : List Byte) : List Byte :=
      [n, BitVec.ofNat 8 (pages content)] ++ (content.drop (58 * n.toNat)).take 58
    let answers (i : Instr) (kind : Byte) (content : List Byte) : Prop :=
      (pages content ≤ n.toNat → RefusedAs i .planner kind tag .badField s) ∧
      (n.toNat < pages content → TakenAs i .planner kind tag .ok (page content) (fun u => u) s)
    (s.ready .planner →
      answers (.siteStatus .planner tag [n]) 0x23#8 s.siteContent ∧
      answers (.craneStatus .planner tag [0x00#8, n]) 0x24#8 s.allCranesContent ∧
      answers (.zoneStatus .planner tag [0x00#8, n]) 0x25#8 s.allZonesContent ∧
      answers (.bookingStatus .planner tag [0x00#8, n]) 0x26#8 s.allBookingsContent ∧
      (∀ c p, s.permit c = some p →
        answers (.craneStatus .planner tag [BitVec.ofNat 8 (c.val + 1), n]) 0x24#8
          (s.craneContent c p true)) ∧
      (∀ z, answers (.zoneStatus .planner tag [BitVec.ofNat 8 (z.val + 1), n]) 0x25#8 (s.zoneContent z)) ∧
      (∀ k b, k ≠ 0x00#8 → s.bookingById k.toNat = some b →
        answers (.bookingStatus .planner tag [k, n]) 0x26#8 (s.bookingContent b)) ∧
      (∀ k : Byte, 6 < k.toNat → RefusedAs (.craneStatus .planner tag [k, n]) .planner 0x24#8 tag .badField s) ∧
      (∀ c, s.permit c = none → RefusedAs (.craneStatus .planner tag [BitVec.ofNat 8 (c.val + 1), n])
        .planner 0x24#8 tag .notConfigured s) ∧
      (∀ k : Byte, 48 < k.toNat → RefusedAs (.zoneStatus .planner tag [k, n]) .planner 0x25#8 tag .badField s) ∧
      (∀ k : Byte, k ≠ 0x00#8 → s.bookingById k.toNat = none →
        RefusedAs (.bookingStatus .planner tag [k, n]) .planner 0x26#8 tag .badField s)) ∧
    ∀ c, s.ready (.crane c) →
      (s.permit c = none → RefusedAs (.status (.crane c) tag [n]) (.crane c) 0x08#8 tag .notConfigured s) ∧
      ∀ p, s.permit c = some p →
        let content := s.craneContent c p false
        (pages content ≤ n.toNat → RefusedAs (.status (.crane c) tag [n]) (.crane c) 0x08#8 tag .badField s) ∧
        (n.toNat < pages content → n ≠ 0x00#8 →
          TakenAs (.status (.crane c) tag [n]) (.crane c) 0x08#8 tag .ok (page content) (fun u => u) s) ∧
        (n = 0x00#8 → exec (.status (.crane c) tag [n]) s =
          .next ((s.editBox c fun b => { b with loss := false }).editLink (.crane c) (Link.answered
            { kind := 0x08#8, tag := tag, result := .ok, loss := (s.box c).loss, body := page content })))

/-! ## Planner requests -/

/-- CONFIG_AREAS: refused AREA_OVERLAP when an area ends below its start or above 256, or two areas of
non-zero capacity share a slot; otherwise every area is stored, and a port whose area changed has its
queue emptied and its NOTICE_LOSS flag set (R169). -/
def Obligations.AreasConfigured : Prop :=
  ∀ (tag : Byte) (b : List Byte) (s : State), s.ready .planner → b.length = 24 →
    let start (c : CraneId) : Nat := wordAt b (4 * c.val)
    let stop (c : CraneId) : Nat := wordAt b (4 * c.val + 2)
    let bad : Prop := (∃ c, stop c < start c ∨ 256 < stop c) ∨
      ∃ c d, c ≠ d ∧ ∃ slot, start c ≤ slot ∧ slot < stop c ∧ start d ≤ slot ∧ slot < stop d
    (bad → RefusedAs (.configAreas .planner tag b) .planner 0x10#8 tag .areaOverlap s) ∧
    (¬bad → TakenAs (.configAreas .planner tag b) .planner 0x10#8 tag .ok []
      (fun u => { u with boxes := Vector.ofFn fun c =>
        if (u.box c).start = start c ∧ (u.box c).stop = stop c then u.box c
        else { start := start c, stop := stop c, queue := [], loss := true } }) s)

/-- CONFIG_CRANE: refused BAD_FIELD, CRANE_ACTIVE, or BAD_FIELD for a channel or misordered thresholds;
a taken one stores the fields within their ranges, makes the record of a crane that had none (OFFLINE,
nothing latched, nothing masked), and all that follows stays within the wind's frame (R120, R121). -/
def Obligations.CraneConfigured : Prop :=
  ∀ (tag : Byte) (b : List Byte) (s : State), s.ready .planner → b.length = 30 →
    (byteAt b 0 = 0 ∨ 6 < byteAt b 0 →
      RefusedAs (.configCrane .planner tag b) .planner 0x11#8 tag .badField s) ∧
    ∀ c : CraneId, byteAt b 0 = c.val + 1 →
      (s.permitState c ≠ .offline → s.permitState c ≠ .disarmed →
        RefusedAs (.configCrane .planner tag b) .planner 0x11#8 tag .craneActive s) ∧
      (s.permitState c = .offline ∨ s.permitState c = .disarmed →
        (7 < byteAt b 9 ∨ (7 < byteAt b 10 ∧ byteAt b 10 ≠ 255) ∨
            ¬(clamp 50 500 (wordAt b 12) < clamp 50 500 (wordAt b 14) ∧
              clamp 50 500 (wordAt b 14) < clamp 50 500 (wordAt b 16)) →
          RefusedAs (.configCrane .planner tag b) .planner 0x11#8 tag .badField s) ∧
        (byteAt b 9 ≤ 7 → (byteAt b 10 ≤ 7 ∨ byteAt b 10 = 255) →
            clamp 50 500 (wordAt b 12) < clamp 50 500 (wordAt b 14) →
            clamp 50 500 (wordAt b 14) < clamp 50 500 (wordAt b 16) →
          ∃ g t, configOf b = some g ∧
            ServedAs WindFrame (.configCrane .planner tag b) .planner 0x11#8 tag .ok []
              (fun u => { u with permits := Table.edit u.permits c fun o => some (match o with
                | none => { config := g, state := .offline, latched := Vector.replicate 6 false,
                            maskIntrusion := false, maskSensorLoss := false, factor := 0,
                            suspended := s.suspendedBooking c, stowTimer := none,
                            stowOverdue := false, stowedNote := false }
                | some p => { p with config := g }) }) s t ∧
            g.base ≤ 3 ∧ 1 ≤ g.stopTime ∧ g.stopTime ≤ 200 ∧ g.margin ≤ 300 ∧ g.windGain ≤ 50 ∧
            g.windMax ≤ 600 ∧ 5 ≤ g.reportTime ∧ g.reportTime ≤ 50 ∧ g.primary.val = byteAt b 9 ∧
            (g.fallback = none ↔ byteAt b 10 = 255) ∧ g.fbm ≤ 100 ∧ 50 ≤ g.caution ∧
            g.caution < g.restrict ∧ g.restrict < g.stop ∧ g.stop ≤ 500 ∧ 50 ≤ g.stopMean ∧
            g.stopMean ≤ 500 ∧ g.hysteresis ≤ 50 ∧ 10 ≤ g.holdCaution ∧ g.holdCaution ≤ 1800 ∧
            10 ≤ g.holdRestrict ∧ g.holdRestrict ≤ 1800 ∧ 10 ≤ g.holdStop ∧ g.holdStop ≤ 1800 ∧
            30 ≤ g.stowTime ∧ g.stowTime ≤ 600 ∧
            g.restrictFactor = if byteAt b 29 = 0 then 50 else max 10 (min 90 (byteAt b 29))))

/-- CONFIG_CHANNEL: BAD_FIELD for a channel above 7 or an enable that is neither yes nor no; otherwise
enable and stale time are stored and both counts cleared, and a disabling takes the channel to
NO_SIGNAL with everything it had gathered cleared (R97). -/
def Obligations.ChannelConfigured : Prop :=
  ∀ (tag n e v : Byte) (s : State), s.ready .planner →
    (7 < n.toNat ∨ 1 < e.toNat →
      RefusedAs (.configChannel .planner tag [n, e, v]) .planner 0x12#8 tag .badField s) ∧
    ∀ k : ChannelId, n.toNat = k.val →
      let stale := max 1 (min 10 v.toNat)
      (e = 0x01#8 ∨ (e = 0x00#8 ∧ (s.channel k).enable = false) →
        TakenAs (.configChannel .planner tag [n, e, v]) .planner 0x12#8 tag .ok []
          (fun u => u.editChannel k fun ch =>
            { ch with enable := e == 0x01#8, staleTime := stale, checkFailures := 0, rejected := 0 }) s) ∧
      (e = 0x00#8 → (s.channel k).enable = true →
        ∃ t, ServedAs WindFrame (.configChannel .planner tag [n, e, v]) .planner 0x12#8 tag .ok []
          (fun u => u.editChannel k fun ch =>
            { enable := false, staleTime := stale, state := .noSignal, staleTimer := none, ring := [],
              gust := none, openSum := 0, openCount := 0, bins := [], mean := none,
              binTimer := ch.binTimer, rejectedRun := 0, recoveryRun := 0, checkFailures := 0,
              rejected := 0 }) s t)

/-- SET_TRIP_MASK: BAD_FIELD, NOT_CONFIGURED, or both masks stored; a cause that is unmasked while its
condition holds halts a DISARMED, RUNNING or DERATED crane within the request, and a mask clears no
latched cause (R127). -/
def Obligations.TripMaskSet : Prop :=
  ∀ (tag n : Byte) (m1 m2 m3 m4 m5 m6 : Byte) (s : State), s.ready .planner →
    let b : List Byte := [n, m1, m2, m3, m4, m5, m6]
    (n.toNat = 0 ∨ 6 < n.toNat ∨ m1 ≠ 0x00#8 ∨ 1 < m2.toNat ∨ m3 ≠ 0x00#8 ∨ m4 ≠ 0x00#8 ∨
        m5 ≠ 0x00#8 ∨ 1 < m6.toNat →
      RefusedAs (.setTripMask .planner tag b) .planner 0x13#8 tag .badField s) ∧
    ∀ c : CraneId, n.toNat = c.val + 1 → m1 = 0x00#8 → m2.toNat ≤ 1 → m3 = 0x00#8 → m4 = 0x00#8 →
      m5 = 0x00#8 → m6.toNat ≤ 1 →
      (s.permit c = none → RefusedAs (.setTripMask .planner tag b) .planner 0x13#8 tag .notConfigured s) ∧
      ∀ p, s.permit c = some p → ∃ t q,
        ServedAs HandOffs (.setTripMask .planner tag b) .planner 0x13#8 tag .ok []
          (fun u => u.editPermit c fun p =>
            { p with maskIntrusion := m2 == 0x01#8, maskSensorLoss := m6 == 0x01#8 }) s t ∧
        t.permit c = some q ∧ (∀ cause, p.hasLatched cause = true → q.hasLatched cause = true) ∧
        (p.state = .disarmed ∨ p.state = .running ∨ p.state = .derated →
          (p.maskIntrusion = true → m2 = 0x00#8 → s.intruded c = true →
            q.state = .halted ∧ q.hasLatched .intrusion = true) ∧
          (p.maskSensorLoss = true → m6 = 0x00#8 → (s.wind c).blind = true →
            q.state = .halted ∧ q.hasLatched .sensorLoss = true))

/-- STAGE_ZONE: BAD_FIELD for a zone number or field that is none of its values, APPLY_PENDING while an
apply is pending, otherwise the shadow record is written whole and nothing else changes (R11, R12). -/
def Obligations.ZoneStaged : Prop :=
  ∀ (tag : Byte) (b : List Byte) (s : State), s.ready .planner → b.length = 54 →
    (byteAt b 0 = 0 ∨ 48 < byteAt b 0 ∨ zoneRecordOf b = none →
      RefusedAs (.stageZone .planner tag b) .planner 0x14#8 tag .badField s) ∧
    ∀ (z : ZoneId) (r : ZoneRecord), byteAt b 0 = z.val + 1 → zoneRecordOf b = some r →
      ((∃ y, (s.zone y).mark = true) →
        RefusedAs (.stageZone .planner tag b) .planner 0x14#8 tag .applyPending s) ∧
      ((∀ y, (s.zone y).mark = false) →
        TakenAs (.stageZone .planner tag b) .planner 0x14#8 tag .ok []
          (fun u => { u with shadow := Table.edit u.shadow z fun _ => r }) s)

/-- APPLY_GEOMETRY: APPLY_PENDING while one is pending; OK at once with no zone changed; PENDING with
every affected zone marked while one of them is held or in handover; otherwise the apply completes
within the request: every active record equals its shadow record, no mark stands and APPLY_DONE is set
(R13, R17). -/
def Obligations.GeometryApplied : Prop :=
  ∀ (tag : Byte) (s : State), s.ready .planner →
    ((∃ z, (s.zone z).mark = true) →
      RefusedAs (.applyGeometry .planner tag []) .planner 0x15#8 tag .applyPending s) ∧
    ((∀ z, (s.zone z).mark = false) →
      ((∀ z, s.record z = s.shadowRecord z) →
        TakenAs (.applyGeometry .planner tag []) .planner 0x15#8 tag .ok [] (fun u => u) s) ∧
      ((∃ z, s.record z ≠ s.shadowRecord z ∧ (s.zone z).state ≠ .free ∧ (s.zone z).state ≠ .closed) →
        TakenAs (.applyGeometry .planner tag []) .planner 0x15#8 tag .pending []
          (fun u => { u with zones := Vector.ofFn fun z =>
            { u.zone z with mark := if s.record z = s.shadowRecord z then false else true } }) s) ∧
      ((∃ z, s.record z ≠ s.shadowRecord z) →
        (∀ z, s.record z ≠ s.shadowRecord z → (s.zone z).state = .free ∨ (s.zone z).state = .closed) →
        ∃ t, ServedAs CalendarFrame (.applyGeometry .planner tag []) .planner 0x15#8 tag .ok []
            (fun u => u) s t ∧
          (∀ z, t.record z = s.shadowRecord z) ∧ (∀ z, (t.zone z).mark = false) ∧
          t.event .applyDone = true ∧ t.bookings = s.bookings))

/-- ABANDON_APPLY: WRONG_STATE with no apply pending; otherwise every mark is cleared, and what was held
back may be granted (R15). -/
def Obligations.ApplyAbandoned : Prop :=
  ∀ (tag : Byte) (s : State), s.ready .planner →
    ((∀ z, (s.zone z).mark = false) →
      RefusedAs (.abandonApply .planner tag []) .planner 0x16#8 tag .wrongState s) ∧
    ((∃ z, (s.zone z).mark = true) →
      ∃ t, ServedAs HandOffs (.abandonApply .planner tag []) .planner 0x16#8 tag .ok []
        (fun u => { u with zones := Vector.ofFn fun z => { u.zone z with mark := false } }) s t)

/-- The refusals of BOOK in the order of R145, on a body whose fields are read. -/
def Obligations.BookRefused : Prop :=
  ∀ (tag : Byte) (b : List Byte) (s : State), s.ready .planner → b.length = 19 →
    (byteAt b 0 = 0 ∨ 6 < byteAt b 0 ∨ 7 < byteAt b 1 ∨ 1439 < wordAt b 2 ∨ byteAt b 8 = 0 ∨
        8 < byteAt b 8 ∨ 1 < byteAt b 17 ∨ 1 < byteAt b 18 ∨
        (∃ i, i < byteAt b 8 ∧ (byteAt b (9 + i) = 0 ∨ 48 < byteAt b (9 + i))) ∨
        (∃ i j, i < j ∧ j < byteAt b 8 ∧ byteAt b (9 + i) = byteAt b (9 + j)) →
      RefusedAs (.book .planner tag b) .planner 0x17#8 tag .badField s) ∧
    ∀ (f : BookFields) (x : Result), bookOf b = some f →
      (if s.permit f.crane = none then some Result.notConfigured
        else if f.duration < 1 ∨ 240 < f.duration ∨ 1440 < f.start + f.duration then some .badWindow
        else if (f.zones.any fun z => (s.footprint z f.crane).isNone) = true then some .noFootprint
        else if (s.bookings.any fun o => !o.state.terminal &&
            (o.crane == f.crane || f.zones.any o.zones.contains) &&
            (o.weekday.isNone || f.weekday.isNone || o.weekday == f.weekday) &&
            decide (f.start < o.start + o.duration ∧ o.start < f.start + f.duration)) = true then
          some .bookingConflict
        else if 32 ≤ s.bookings.length ∧ (s.bookings.all fun o => !o.state.terminal) = true then
          some .tableFull
        else none) = some x →
      RefusedAs (.book .planner tag b) .planner 0x17#8 tag x s

/-- A taken BOOK: the entry takes an empty slot, or in a full table that of the terminal entry with the
lowest terminal order, and the first free id from the next-id counter on, with level and wind limit
clamped; the response carries the id and the state reached. With the clock INVALID it stays BOOKED and
nothing else changes; with the clock RUNNING or HELD it is judged alone at the clock's time, its claims are
placed where it arms, and its EXCLUDED zones are opened for it where it starts (R8, R49, R144, R145, R147,
R150, R151, R158). That the id of the entry that gives up its slot is not free yet is read from R144 (log
entry 16). -/
def Obligations.BookTaken : Prop :=
  ∀ (tag : Byte) (b : List Byte) (s : State) (f : BookFields) (p : Permit) (id : Nat) (kept : List Booking),
    s.ready .planner → b.length = 19 → bookOf b = some f → s.permit f.crane = some p →
    1 ≤ f.duration → f.duration ≤ 240 → f.start + f.duration ≤ 1440 →
    (∀ z ∈ f.zones, s.footprint z f.crane ≠ none) →
    (∀ o ∈ s.bookings, o.state.terminal = true ∨
      (o.crane ≠ f.crane ∧ ∀ z ∈ f.zones, z ∉ o.zones) ∨
      (∃ d e, o.weekday = some d ∧ f.weekday = some e ∧ d ≠ e) ∨
      o.start + o.duration ≤ f.start ∨ f.start + f.duration ≤ o.start) →
    (s.bookings.length < 32 ∧ kept = s.bookings) ∨
      (32 ≤ s.bookings.length ∧ ∃ v ∈ s.bookings, v.state.terminal = true ∧
        (∀ o ∈ s.bookings, o.state.terminal = true → o = v ∨ v.terminalOrder < o.terminalOrder) ∧
        kept = s.bookings.filter (·.id != v.id)) →
    1 ≤ s.nextId → s.nextId ≤ 255 →
    (∃ d, id = (s.nextId + d - 1) % 255 + 1 ∧ (∀ o ∈ s.bookings, o.id ≠ id) ∧
      ∀ e, e < d → ∃ o ∈ s.bookings, o.id = (s.nextId + e - 1) % 255 + 1) →
    let entry : Booking :=
      { id := id, crane := f.crane, weekday := f.weekday, start := f.start, duration := f.duration,
        level := max 4 (min 6 f.level),
        windLimit := if f.windLimit = 0 then none
          else some (max 50 (min p.config.stop f.windLimit)),
        zones := f.zones, opens := f.opens, recurring := f.recurring, state := .booked,
        remaining := 0, short := false, notPlaced := 0, terminalOrder := 0 }
    let add (u : State) : State :=
      { u with bookings := kept ++ [entry], nextId := if id = 255 then 1 else id + 1 }
    (s.clock.mode = .invalid →
      TakenAs (.book .planner tag b) .planner 0x17#8 tag .ok (byte id ++ byte 0) add s) ∧
    (s.clock.mode ≠ .invalid →
      ∃ t e, ServedAs CalendarFrame (.book .planner tag b) .planner 0x17#8 tag .ok
          (byte id ++ byte e.state.code) add s t ∧
        t.bookingById id = some e ∧ t.bookings = kept ++ [e] ∧
        t.nextId = (if id = 255 then 1 else id + 1) ∧ t.terminals = s.terminals ∧
        BookingJumped s.leadTime s.clock.weekday s.clock.minute (s.wind f.crane) (t.event .booking) entry e ∧
        (e.state ≠ .booked → s.countOf f.crane + f.zones.length ≤ 24 →
          ∀ z ∈ f.zones, (s.record z).kind = .shared ∨ f.opens = true →
            t.heldBy z f.crane = true ∨ ∃ cl, t.claimOf z f.crane = some cl ∧ cl.booked = true) ∧
        ∀ z, (entry.spans s.clock.weekday s.clock.minute ∧ f.opens = true ∧ z ∈ f.zones ∧
              (s.record z).kind = .excluded →
            (t.zone z).openedFor = some id ∧ (t.zone z).state ≠ .closed) ∧
          (¬(entry.spans s.clock.weekday s.clock.minute ∧ f.opens = true ∧ z ∈ f.zones ∧
              (s.record z).kind = .excluded) → (t.zone z).openedFor = (s.zone z).openedFor) ∧
          (∀ h, s.holding z = some h → t.heldBy z h.holder = true) ∧
          (∀ n, (s.zone z).state = .handover n → (t.zone z).state = .handover n))

/-- CANCEL: BAD_FIELD for an id no entry holds, WRONG_STATE for a terminal booking; any other booking,
recurring or not, becomes CANCELLED with no minutes remaining and its terminal order. Of a booking that
leaves ARMED, ACTIVE or SUSPENDED the booked claims are withdrawn, and the levels of the crane's other claims
and grants on its zones fall to their remaining terms; with no apply pending each zone opened for it is
closed: CLOSED from FREE and HANDOVER, closing under its holder from HELD; a zone opened for another
booking is not touched (R9, R48, R58, R144, R153, R157). At a terminal counter of 65535 with no terminal
entry, the order is 1: the model's choice, log entry 33. -/
def Obligations.BookingCancelled : Prop :=
  ∀ (tag n : Byte) (s : State), s.ready .planner →
    (s.bookingById n.toNat = none →
      RefusedAs (.cancel .planner tag [n]) .planner 0x18#8 tag .badField s) ∧
    ∀ b, s.bookingById n.toNat = some b →
      (b.state = .done ∨ b.state = .lapsed ∨ b.state = .cancelled →
        RefusedAs (.cancel .planner tag [n]) .planner 0x18#8 tag .wrongState s) ∧
      (b.state = .booked ∨ b.state = .armed ∨ b.state = .active ∨ b.state = .suspended →
        ∃ t b', ServedAs CalendarFrame (.cancel .planner tag [n]) .planner 0x18#8 tag .ok []
            (fun u => u) s t ∧
          t.bookingById n.toNat = some b' ∧
          b' = { b with state := .cancelled, remaining := 0, terminalOrder := b'.terminalOrder } ∧
          t.nextId = s.nextId ∧ TerminalOrderGiven s t b b' ∧
          (b.state ≠ .booked → BookingClaimsEnded b s t) ∧
          (b.state ≠ .booked → (∀ z, (s.zone z).mark = false) →
            ∀ z, ((s.zone z).openedFor ≠ some b.id → (t.zone z).openedFor = (s.zone z).openedFor) ∧
              ((s.zone z).openedFor = some b.id → (t.zone z).openedFor = none ∧
                (∀ h, s.holding z = some h → t.heldBy z h.holder = true) ∧
                (s.holding z = none → (t.zone z).state = .closed))))

/-- SET_CLOCK: BAD_FIELD for a weekday above 6 or a minute above 1439; otherwise the time is set with
second 0 and the lead time capped at 15; an INVALID or RUNNING clock runs with a full second ahead of
it, a HELD clock stays HELD; and each booking of a table with distinct ids is judged at the new time and
lead time by the table of jump evaluation (R137, R148, R158). Where an ARMED booking meets two rows of that
table, its arm window comes first: the model's choice, log entry 32. -/
def Obligations.ClockSet : Prop :=
  ∀ (tag w m1 m0 l : Byte) (s : State), s.ready .planner →
    let minute := 256 * m1.toNat + m0.toNat
    (6 < w.toNat ∨ 1439 < minute →
      RefusedAs (.setClock .planner tag [w, m1, m0, l]) .planner 0x19#8 tag .badField s) ∧
    (w.toNat ≤ 6 → minute ≤ 1439 →
      let clock : Clock :=
        { mode := if s.clock.mode = .held then .held else .running
          weekday := w.toNat, minute := minute, second := 0
          timer := if s.clock.mode = .held then none else some 100 }
      ∃ t, ServedAs CalendarFrame (.setClock .planner tag [w, m1, m0, l]) .planner 0x19#8 tag .ok
        [if s.clock.mode = .held then 0x02#8 else 0x01#8, w, m1, m0, 0x00#8]
        (fun u => { u with clock := clock, leadTime := min 15 l.toNat }) s t ∧
        ((s.bookings.map (·.id)).Nodup → ∀ b ∈ s.bookings, ∃ b', t.bookingById b.id = some b' ∧
          BookingJumped (min 15 l.toNat) w.toNat minute (s.wind b.crane) (t.event .booking) b b'))

/-- HOLD_CLOCK and RUN_CLOCK: CLOCK_INVALID on an INVALID clock; otherwise the clock is HELD with its
second timer stopped, or RUNNING with a full second ahead of it, and a clock that is so already is
left as it is; the response shows clock state, weekday, minute and second (R138, R139). -/
def Obligations.ClockHeldAndRun : Prop :=
  ∀ (tag : Byte) (s : State), s.ready .planner →
    let time : List Byte := byte s.clock.weekday ++ twoBytes s.clock.minute ++ byte s.clock.second
    (s.clock.mode = .invalid →
      RefusedAs (.holdClock .planner tag []) .planner 0x1A#8 tag .clockInvalid s ∧
      RefusedAs (.runClock .planner tag []) .planner 0x1B#8 tag .clockInvalid s) ∧
    (s.clock.mode = .running →
      TakenAs (.holdClock .planner tag []) .planner 0x1A#8 tag .ok (0x02#8 :: time)
        (fun u => { u with clock := { u.clock with mode := .held, timer := none } }) s ∧
      TakenAs (.runClock .planner tag []) .planner 0x1B#8 tag .ok (0x01#8 :: time) (fun u => u) s) ∧
    (s.clock.mode = .held →
      TakenAs (.runClock .planner tag []) .planner 0x1B#8 tag .ok (0x01#8 :: time)
        (fun u => { u with clock := { u.clock with mode := .running, timer := some 100 } }) s ∧
      TakenAs (.holdClock .planner tag []) .planner 0x1A#8 tag .ok (0x02#8 :: time) (fun u => u) s)

/-- HALT: BAD_FIELD, NOT_CONFIGURED, NOT_REGISTERED; otherwise PLANNER_HALT is latched: a DISARMED,
RUNNING or DERATED crane is HALTED at factor 0 with site event TRIP, a HALTED, STOWING or STOWED one
keeps its state, and one that has the cause latched already changes nothing (R125, R129). -/
def Obligations.HaltTaken : Prop :=
  ∀ (tag n : Byte) (s : State), s.ready .planner →
    (n.toNat = 0 ∨ 6 < n.toNat → RefusedAs (.halt .planner tag [n]) .planner 0x1C#8 tag .badField s) ∧
    ∀ c : CraneId, n.toNat = c.val + 1 →
      (s.permit c = none → RefusedAs (.halt .planner tag [n]) .planner 0x1C#8 tag .notConfigured s) ∧
      ∀ p, s.permit c = some p →
        (p.state = .offline →
          RefusedAs (.halt .planner tag [n]) .planner 0x1C#8 tag .notRegistered s) ∧
        (p.state = .disarmed ∨ p.state = .running ∨ p.state = .derated →
          ∃ t q, ServedAs HandOffs (.halt .planner tag [n]) .planner 0x1C#8 tag .ok
              (byte PermitState.halted.code) (fun u => u) s t ∧
            t.permit c = some q ∧ q.state = .halted ∧ q.factor = 0 ∧
            q.hasLatched .plannerHalt = true ∧ t.event .trip = true) ∧
        (p.state = .halted ∨ p.state = .stowing ∨ p.state = .stowed →
          (p.hasLatched .plannerHalt = true →
            TakenAs (.halt .planner tag [n]) .planner 0x1C#8 tag .ok (byte p.state.code)
              (fun u => u) s) ∧
          (p.hasLatched .plannerHalt = false →
            ∃ t q, ServedAs HandOffs (.halt .planner tag [n]) .planner 0x1C#8 tag .ok
                (byte p.state.code) (fun u => u) s t ∧
              t.permit c = some q ∧ q = { p with latched := q.latched } ∧
              (∀ cause, q.hasLatched cause = true ↔
                p.hasLatched cause = true ∨ cause = .plannerHalt)))

/-- RESUME: BAD_FIELD, NOT_CONFIGURED, NOTHING_LATCHED; otherwise every latched cause whose clearing
condition holds is cleared, and a HALTED crane with none left is DISARMED at factor 0; the response
shows the causes still latched and the permit state. With no claim queued nothing else follows but the
restart of the crane's expired yield timers when YIELD_TIMEOUT was latched (R76, R128, section 7.4). -/
def Obligations.ResumeTaken : Prop :=
  ∀ (tag n : Byte) (s : State), s.ready .planner →
    (n.toNat = 0 ∨ 6 < n.toNat → RefusedAs (.resume .planner tag [n]) .planner 0x1D#8 tag .badField s) ∧
    ∀ c : CraneId, n.toNat = c.val + 1 →
      (s.permit c = none → RefusedAs (.resume .planner tag [n]) .planner 0x1D#8 tag .notConfigured s) ∧
      ∀ p, s.permit c = some p →
        ((∀ cause, p.hasLatched cause = false) →
          RefusedAs (.resume .planner tag [n]) .planner 0x1D#8 tag .nothingLatched s) ∧
        ((∃ cause, p.hasLatched cause = true) →
          let left : Table Bool 6 :=
            #v[p.hasLatched .encroach && (s.position c).unheld, p.hasLatched .intrusion && s.intruded c,
               p.hasLatched .silence && (s.position c).silent, false, false,
               p.hasLatched .sensorLoss && (s.wind c).blind]
          let freed : Bool := left == Vector.replicate 6 false && p.state == .halted
          let after : Permit :=
            { p with
              latched := left, state := if freed then .disarmed else p.state
              factor := if freed then 0 else p.factor }
          ∃ t q, ServedAs HandOffs (.resume .planner tag [n]) .planner 0x1D#8 tag .ok
              (causeBytes q.latched ++ byte q.state.code)
              (fun u => u.editPermit c fun _ => after) s t ∧
            t.permit c = some q ∧
            (s.claimZones c = [] → q = after ∧
              ∀ z h d, s.holding z = some h → h.holder = c → h.demand = some d →
                t.holding z = some { h with demand := some { d with
                  timer := if d.timer = none ∧ p.hasLatched .yieldTimeout = true then
                      some (100 * (s.record z).yieldTime)
                    else d.timer } }))

/-- EMERGENCY_CLAIM by R81 and R82, below the last arrival sequence: the refusals in their order; a
queued claim gets the emergency mark and its new level and place (QUEUED), a grant the mark and its
level (OK), and a new claim is placed at once, granted or queued; a HELD zone is then examined for its
yield demand (R68 to R71; log entry 23). -/
def Obligations.EmergencyTaken : Prop :=
  ∀ (tag n k : Byte) (s : State), s.ready .planner →
    (n.toNat = 0 ∨ 6 < n.toNat ∨ k.toNat = 0 ∨ 48 < k.toNat →
      RefusedAs (.emergencyClaim .planner tag [n, k]) .planner 0x1E#8 tag .badField s) ∧
    ∀ (c : CraneId) (z : ZoneId), n.toNat = c.val + 1 → k.toNat = z.val + 1 →
      let refusal : Option Result :=
        if s.permit c = none then some .notConfigured
        else if s.footprint z c = none then some .noFootprint
        else if (s.record z).kind = .excluded ∧ s.openedForCrane z c = false then some .zoneClosed
        else if (s.claimOf z c).any (·.emergency) = true ∨
            (s.holding z).any (fun h => h.holder == c && h.emergency) = true then some .duplicate
        else if s.hasClaim z c = false ∧ s.heldBy z c = false ∧ 24 ≤ s.countOf c then some .claimLimit
        else none
      let new : Claim :=
        { crane := c, level := s.levelFor c z true, booked := false, emergency := true,
          arrival := s.arrivals + 1 }
      (∀ x, refusal = some x →
        RefusedAs (.emergencyClaim .planner tag [n, k]) .planner 0x1E#8 tag x s) ∧
      (refusal = none →
        (∀ cl, s.claimOf z c = some cl →
          ∃ t, ServedAs HandOffs (.emergencyClaim .planner tag [n, k]) .planner 0x1E#8 tag .queued []
            (fun u => u.editZone z fun d =>
              { d with
                queue := insertClaim { cl with emergency := true, level := s.levelFor c z true }
                  (d.queue.filter (·.crane != c)) }) s t ∧
            ∀ h, s.holding z = some h →
              TakenAs (.emergencyClaim .planner tag [n, k]) .planner 0x1E#8 tag .queued []
                (fun u => u.examined z h
                  (insertClaim { cl with emergency := true, level := s.levelFor c z true }
                    ((s.zone z).queue.filter (·.crane != c)))) s) ∧
        (∀ h, s.claimOf z c = none → s.holding z = some h → h.holder = c →
          ∃ t, ServedAs HandOffs (.emergencyClaim .planner tag [n, k]) .planner 0x1E#8 tag .ok []
            (fun u => u.editZone z fun d =>
              { d with state := .held { h with emergency := true, level := s.levelFor c z true } }) s t ∧
            TakenAs (.emergencyClaim .planner tag [n, k]) .planner 0x1E#8 tag .ok []
              (fun u => u.examined z { h with emergency := true, level := s.levelFor c z true }
                (s.zone z).queue) s) ∧
        (s.claimOf z c = none → s.heldBy z c = false → s.arrivals < 65535 →
          ∃ t, ServedAs HandOffs (.emergencyClaim .planner tag [n, k]) .planner 0x1E#8 tag
            (if t.heldBy z c = true then .granted else .queued) []
            (fun u => { u.editZone z (fun d => { d with queue := insertClaim new d.queue }) with
              arrivals := s.arrivals + 1 }) s t ∧
            ∀ h, s.holding z = some h →
              TakenAs (.emergencyClaim .planner tag [n, k]) .planner 0x1E#8 tag .queued []
                (fun u => ({ u with arrivals := s.arrivals + 1 } : State).examined z h
                  (insertClaim new (s.zone z).queue)) s))

/-- READ_EVENTS answers the ten flags and the restart kind, and clears them all; SET_EVENT_ENABLES
stores ten enables and answers them, or refuses a byte that is neither yes nor no; ATTN is high exactly
while some flag is set whose enable is yes (R174, R175). -/
def Obligations.EventsReadAndEnabled : Prop :=
  ∀ (tag : Byte) (b : List Byte) (s : State),
    (s.attn = true ↔ ∃ e : SiteEvent, s.event e = true ∧ Table.entry s.enables e.idx = true) ∧
    (s.ready .planner →
      TakenAs (.readEvents .planner tag []) .planner 0x21#8 tag .ok
        ((s.flags.toList.map fun f => if f then 0x01#8 else 0x00#8) ++
          [match s.restart with
            | .none => 0x00#8
            | .power => 0x01#8
            | .cold => 0x02#8])
        (fun u => { u with flags := Vector.replicate 10 false, restart := .none }) s ∧
      (b.length = 10 → (∃ x ∈ b, 1 < x.toNat) →
        RefusedAs (.setEventEnables .planner tag b) .planner 0x22#8 tag .badField s) ∧
      (b.length = 10 → (∀ x ∈ b, x.toNat ≤ 1) →
        TakenAs (.setEventEnables .planner tag b) .planner 0x22#8 tag .ok b
          (fun u => { u with enables := Vector.ofFn fun i => b.getD i.val 0x00#8 == 0x01#8 }) s))

/-- COLD_RESTART clears the site's dynamic state and keeps its configuration (R180, R20, R42, R66, R102,
R103, R118, R134, R160, R172, R173): what is kept, and what every record is after it. Every booking keeps
its fields; one that was ARMED, ACTIVE or SUSPENDED is BOOKED again, and while the clock is not INVALID
each is then judged at the clock's time by the table of jump evaluation, its crane being blind (R158). No
claim is left while the clock is INVALID; otherwise those left are booked claims of bookings that run, from
arrival sequence 1 on. Notice queues are emptied and NOTICE_LOSS flags cleared first: what stands in them
afterwards are the STAGE and BOOKING notices of the restart, and of a crane without bookings the one STAGE
notice by which it enters RESTRICT. -/
def Obligations.ColdRestartTaken : Prop :=
  ∀ (tag : Byte) (s : State), s.ready .planner → (s.bookings.map (·.id)).Nodup →
    ∃ t, AnsweredAs (.coldRestart .planner tag []) .planner 0x27#8 tag .ok [] s t ∧
      t.event .restarted = true ∧ t.restart = .cold ∧ t.enables = s.enables ∧
      (∀ e, s.event e = true → t.event e = true) ∧
      (∀ c, (s.link (.crane c)).mayStart (t.link (.crane c)) ∧ (t.box c).start = (s.box c).start ∧
        (t.box c).stop = (s.box c).stop ∧ (t.box c).queue.length ≤ (t.box c).capacity ∧
        (∀ n ∈ (t.box c).queue, n.kind = 6 ∨ n.kind = 7) ∧
        ((t.box c).loss = true → (t.box c).queue.length = (t.box c).capacity) ∧
        ((∀ b ∈ s.bookings, b.crane ≠ c) →
          let emptied := s.editBox c fun x => { x with queue := [], loss := false }
          let after := if s.permit c = none then emptied
            else emptied.post c (.stage .restrict .calm .blind none none true)
          t.box c = after.box c ∧ t.link (.crane c) = after.link (.crane c))) ∧
      (s.clock.mode = .invalid → t.arrivals = 0 ∧
        ∀ z, (t.zone z).queue = [] ∧ (t.zone z).openedFor = none) ∧
      (∀ z, ∀ cl ∈ (t.zone z).queue, cl.booked = true ∧ cl.emergency = false ∧ 1 ≤ cl.arrival ∧
        cl.arrival ≤ t.arrivals ∧ ∃ b ∈ t.bookings, b.crane = cl.crane ∧ z ∈ b.zones ∧
          (b.state = .armed ∨ b.state = .active ∨ b.state = .suspended)) ∧
      t.lines = s.lines ∧ t.active = s.active ∧ t.shadow = s.shadow ∧ t.clock = s.clock ∧
      t.leadTime = s.leadTime ∧ t.nextId = s.nextId ∧ t.pending = s.pending ∧
      (∀ z, (t.zone z).mark = false ∧ t.holding z = none ∧
        ((s.record z).kind = .shared → (t.zone z).state = .free) ∧
        ((s.record z).kind = .excluded →
          (t.zone z).state = if (t.zone z).openedFor = none then .closed else .free)) ∧
      (∀ c, t.position c = {}) ∧
      (∀ c, t.permit c = (s.permit c).map fun p =>
        { config := p.config, maskIntrusion := p.maskIntrusion, maskSensorLoss := p.maskSensorLoss,
          suspended := t.suspendedBooking c }) ∧
      (∀ k, t.channel k =
        { enable := (s.channel k).enable, staleTime := (s.channel k).staleTime,
          checkFailures := (s.channel k).checkFailures, rejected := (s.channel k).rejected }) ∧
      (∀ c, t.wind c = { stage := if s.permit c = none then .calm else .restrict }) ∧
      t.terminals = s.terminals ∧
      (t.bookings.map fun b =>
          { b with state := .booked, remaining := 0, short := false, notPlaced := 0 }) =
        (s.bookings.map fun b =>
          { b with state := .booked, remaining := 0, short := false, notPlaced := 0 }) ∧
      ∀ b ∈ s.bookings, ∃ b', t.bookingById b.id = some b' ∧
        let again : Booking := { b with state := .booked, remaining := 0, short := false, notPlaced := 0 }
        let before := if b.state = .armed ∨ b.state = .active ∨ b.state = .suspended then again else b
        (s.clock.mode = .invalid → b' = before) ∧
        (s.clock.mode ≠ .invalid →
          BookingJumped s.leadTime s.clock.weekday s.clock.minute (t.wind b.crane) (t.event .booking)
            before b')

/-! ## Samples and wind -/

/-- An accepted sample on an enabled channel in NO_SIGNAL, LIVE or STALE: the channel is LIVE, the ring
takes the sample and keeps twelve at most, the open bin takes it below a count of 240, the stale timer
runs from the stale time, and the gust is the mean of the ring with halves rounded up (R88 to R91, R94).
Every configured crane with this primary channel is governed by it and its stage is not below what gust
and mean call for; one with this fallback and a primary that is not LIVE is governed by it with the
fallback margin added (R98 to R100, R106). The bookings of a crane with this primary channel go through the
wind check when its gust, blind flag or stage changed, and stay as they are otherwise (R154). -/
def Obligations.SampleAccepted : Prop :=
  ∀ (k : ChannelId) (v : BitVec 16) (s : State), (s.channel k).enable = true → v.toNat ≤ 700 →
    (s.channel k).state ≠ .faulted → (s.line k).awaits (sampleBytes v 0x00#8) = true →
    let old := s.channel k
    let ring := if old.ring.length < 12 then old.ring ++ [v.toNat] else (old.ring ++ [v.toNat]).drop 1
    let gust := (ring.sum + ring.length / 2) / ring.length
    ∃ t, exec (.sample k v 0x00#8) s = .next t ∧
      WindFrame ((s.setLine k .hunt).editChannel k fun ch =>
        { ch with
          state := .live, ring := ring, gust := some gust, staleTimer := some (100 * ch.staleTime)
          rejectedRun := 0
          openSum := if ch.openCount < 240 then ch.openSum + v.toNat else ch.openSum
          openCount := if ch.openCount < 240 then ch.openCount + 1 else ch.openCount }) t ∧
      (∀ c p, s.permit c = some p → p.config.primary = k →
        (t.wind c).source = .primary ∧ (t.wind c).gust = some gust ∧ (t.wind c).mean = old.mean ∧
        (t.wind c).blind = false ∧
        (p.config.stop ≤ gust → (t.wind c).stage = .stop) ∧
        (p.config.restrict ≤ gust → 2 ≤ (t.wind c).stage.rank) ∧
        (p.config.caution ≤ gust → 1 ≤ (t.wind c).stage.rank) ∧
        (∀ m, old.mean = some m → p.config.stopMean ≤ m → (t.wind c).stage = .stop) ∧
        ((s.bookings.map (·.id)).Nodup → ∀ b ∈ s.bookings, b.crane = c →
          let checked : Prop := (s.wind c).gust ≠ some gust ∨ (s.wind c).blind = true ∨
            (t.wind c).stage ≠ (s.wind c).stage
          ∃ b', t.bookingById b.id = some b' ∧
            (checked → BookingChecked p.config.hysteresis (t.wind c) (t.event .booking) b b') ∧
            (¬checked → b' = b))) ∧
      (∀ c p, s.permit c = some p → p.config.primary ≠ k → p.config.fallback = some k →
        (s.channel p.config.primary).state ≠ .live →
        (t.wind c).source = .fallback ∧ (t.wind c).gust = some (min 700 (gust + p.config.fbm)) ∧
        (t.wind c).mean = old.mean.map (fun m => min 700 (m + p.config.fbm)) ∧
        (t.wind c).blind = false) ∧
      (∀ c, (∀ p, s.permit c = some p → p.config.primary ≠ k ∧ p.config.fallback ≠ some k) →
        t.wind c = s.wind c ∧
        ((s.bookings.map (·.id)).Nodup → ∀ b ∈ s.bookings, b.crane = c → b ∈ t.bookings))

/-- Rejected samples, and samples on a FAULTED channel (R89, R90, R92): a rejected sample counts and, in
FAULTED, ends the recovery run; the eighth in a row makes the channel FAULTED with everything it had
gathered cleared when it was LIVE, and sets SENSOR. An accepted one on a FAULTED channel enters the ring
alone, and the twelfth in a row makes the channel LIVE with a one-sample open bin. -/
def Obligations.SampleRejectedOrRecovering : Prop :=
  ∀ (k : ChannelId) (v : BitVec 16) (x : Byte) (s : State), (s.channel k).enable = true →
    (s.line k).awaits (sampleBytes v x) = true →
    let old := s.channel k
    let heard := s.setLine k .hunt
    let ring := if old.ring.length < 12 then old.ring ++ [v.toNat] else (old.ring ++ [v.toNat]).drop 1
    let gust := (ring.sum + ring.length / 2) / ring.length
    (x ≠ 0x00#8 ∨ 700 < v.toNat →
      (old.state = .faulted → exec (.sample k v x) s = .next (heard.editChannel k fun ch =>
        { ch with rejected := min 65535 (ch.rejected + 1), recoveryRun := 0 })) ∧
      (old.state ≠ .faulted → old.rejectedRun < 7 →
        exec (.sample k v x) s = .next (heard.editChannel k fun ch =>
          { ch with rejected := min 65535 (ch.rejected + 1), rejectedRun := ch.rejectedRun + 1 })) ∧
      (old.state ≠ .faulted → 7 ≤ old.rejectedRun →
        ∃ t, exec (.sample k v x) s = .next t ∧
          WindFrame ((heard.editChannel k fun ch =>
            { ch with
              state := .faulted, rejected := min 65535 (ch.rejected + 1), rejectedRun := 0
              recoveryRun := 0, staleTimer := none, ring := [], gust := none, openSum := 0
              openCount := 0, bins := [], mean := none }).setEvent .sensor) t)) ∧
    (x = 0x00#8 → v.toNat ≤ 700 → old.state = .faulted →
      (old.recoveryRun < 11 → exec (.sample k v x) s = .next (heard.editChannel k fun ch =>
        { ch with ring := ring, rejectedRun := 0, recoveryRun := ch.recoveryRun + 1 })) ∧
      (11 ≤ old.recoveryRun → old.openCount = 0 → old.openSum = 0 →
        ∃ t, exec (.sample k v x) s = .next t ∧
          WindFrame (heard.editChannel k fun ch =>
            { ch with
              state := .live, ring := ring, gust := some gust, rejectedRun := 0, recoveryRun := 0
              staleTimer := some (100 * ch.staleTime), openSum := v.toNat, openCount := 1 }) t))

/-- Samples that do not reach their channel (R88): on a disabled channel a frame that passes its check is
discarded; a frame whose fourth byte is not the exclusive-or of its other characters, or whose completion
timer has run out, adds one to the channel's check-failure count and does nothing else. A frame given byte by
byte whose check matches is the sample of its speed and status. The model's choice: bytes come by
SAMPLE_CHECK_FAILURE whatever their check (log entry 7), and SAMPLE on a receiver that holds other bytes than
the frame's beginning brings the whole frame from A5 on, as data there (log entry 6). A timer that has not run
out does not expire (log entry 3). -/
def Obligations.SamplesDropped : Prop :=
  ∀ (k : ChannelId) (s : State),
    let dropped := (s.setLine k .hunt).editChannel k fun ch =>
      { ch with checkFailures := min 65535 (ch.checkFailures + 1) }
    (∀ v x, (s.channel k).enable = false → (s.line k).awaits (sampleBytes v x) = true →
      exec (.sample k v x) s = .next (s.setLine k .hunt)) ∧
    (∀ (bytes : List Byte) (hi lo x check : Byte),
      (s.line k = .hunt ∧ bytes = [0xA5#8, hi, lo, x, check] ∨
        ∃ n got, s.line k = .inFrame n got ∧ got ++ bytes = [hi, lo, x, check] ∧ bytes ≠ []) →
      (check ≠ 0xA5#8 ^^^ hi ^^^ lo ^^^ x →
        exec (.sampleCheckFailure { line := k, bytes := bytes }) s = .next dropped) ∧
      (check = 0xA5#8 ^^^ hi ^^^ lo ^^^ x →
        exec (.sampleCheckFailure { line := k, bytes := bytes }) s = exec (.sample k (hi ++ lo) x) s)) ∧
    (∀ n got (hi lo x : Byte), s.line k = .inFrame n got →
      let rest := [hi, lo, x, 0xA5#8 ^^^ hi ^^^ lo ^^^ x]
      ¬got <+: rest → exec (.sample k (hi ++ lo) x) s =
        exec (.sampleCheckFailure { line := k, bytes := 0xA5#8 :: rest }) s) ∧
    (∀ got, s.line k = .inFrame 0 got → exec (.sampleFrameTimeout k) s = .next dropped) ∧
    ((∀ got, s.line k ≠ .inFrame 0 got) → exec (.sampleFrameTimeout k) s = .next s)

/-- The timers of a channel, which expire when they have run out and have no effect before (R96, log entry
3). The stale timer of a LIVE channel: STALE, everything it had gathered cleared, SENSOR set, and a crane
with this primary channel and no LIVE fallback is blind at RESTRICT or above, by which its ACTIVE bookings
are SUSPENDED; one that was not blind has SENSOR_LOSS latched where it is registered and the cause is not
masked, and is HALTED from DISARMED, RUNNING and DERATED (R93, R98, R100, R107, R125, R154). The bin timer
restarts in every state; a LIVE channel closes its bin, keeps ten, and its mean is taken over them (R95). -/
def Obligations.ChannelTimersExpire : Prop :=
  ∀ (k : ChannelId) (s : State),
    let old := s.channel k
    (old.staleTimer ≠ some 0 → exec (.staleTimerExpiry k) s = .next s) ∧
    (old.staleTimer = some 0 → old.state = .live →
      ∃ t, exec (.staleTimerExpiry k) s = .next t ∧
        WindFrame ((s.editChannel k fun ch =>
          { ch with
            state := .stale, staleTimer := none, ring := [], gust := none, openSum := 0
            openCount := 0, bins := [], mean := none }).setEvent .sensor) t ∧
        ∀ c p, s.permit c = some p → p.config.primary = k →
          (∀ f, p.config.fallback = some f → f = k ∨ (s.channel f).state ≠ .live) →
          (t.wind c).source = .none ∧ (t.wind c).gust = none ∧ (t.wind c).mean = none ∧
          (t.wind c).blind = true ∧ 2 ≤ (t.wind c).stage.rank ∧
          ((s.wind c).blind = false → p.maskSensorLoss = false → p.state ≠ .offline →
            ∃ q, t.permit c = some q ∧ q.hasLatched .sensorLoss = true ∧
              (p.state = .disarmed ∨ p.state = .running ∨ p.state = .derated →
                q.state = .halted ∧ q.factor = 0 ∧ t.event .trip = true)) ∧
          ((s.bookings.map (·.id)).Nodup → ∀ b ∈ s.bookings, b.crane = c →
            let checked : Prop := (s.wind c).gust ≠ none ∨ (s.wind c).blind = false ∨
              (t.wind c).stage ≠ (s.wind c).stage
            ∃ b', t.bookingById b.id = some b' ∧
              (checked → BookingChecked p.config.hysteresis (t.wind c) (t.event .booking) b b') ∧
              (¬checked → b' = b))) ∧
    (old.binTimer ≠ 0 → exec (.binTimerExpiry k) s = .next s) ∧
    (old.binTimer = 0 → old.state ≠ .live →
      exec (.binTimerExpiry k) s = .next (s.editChannel k fun ch => { ch with binTimer := 6000 })) ∧
    (old.binTimer = 0 → old.state = .live →
      let all := old.bins ++ [(old.openSum, old.openCount)]
      let bins := if all.length ≤ 10 then all else all.drop 1
      let sum := (bins.map (·.1)).sum
      let count := (bins.map (·.2)).sum
      let mean := if count = 0 then none else some ((sum + count / 2) / count)
      ∃ t, exec (.binTimerExpiry k) s = .next t ∧
        WindFrame (s.editChannel k fun ch =>
          { ch with binTimer := 6000, bins := bins, openSum := 0, openCount := 0, mean := mean }) t ∧
        ∀ c p, s.permit c = some p → p.config.primary = k →
          (t.wind c).mean = mean ∧
          ∀ m, mean = some m → p.config.stopMean ≤ m → (t.wind c).stage = .stop)

/-- The expiry of a hold timer that has run out, above CALM: one stage down, the hold timer started again
where the descent condition of the new stage holds at once; a STOWING crane that leaves STOP is DISARMED,
or HALTED, with its stow timer stopped; the crane's running bookings go through the wind check (R108, R109,
R116, R154). A timer that has not run out does not expire (R110, log entry 3). -/
def Obligations.HoldTimerExpires : Prop :=
  ∀ (c : CraneId) (s : State) (p : Permit), s.permit c = some p →
    ((s.wind c).holdTimer ≠ some 0 → exec (.holdTimerExpiry c) s = .next s) ∧
    ((s.wind c).holdTimer = some 0 → (s.wind c).stage ≠ .calm →
      let w := s.wind c
      let below : Stage := match w.stage with
        | .stop => .restrict
        | .restrict => .caution
        | .caution => .calm
        | .calm => .calm
      let again (threshold : Nat) : Prop :=
        w.blind = false ∧ ∃ g, w.gust = some g ∧ g + p.config.hysteresis < threshold
      ∃ t, exec (.holdTimerExpiry c) s = .next t ∧ WindFrame s t ∧
        (t.wind c).stage = below ∧ (t.wind c).gust = w.gust ∧ (t.wind c).mean = w.mean ∧
        (t.wind c).blind = w.blind ∧
        (w.stage = .stop → again p.config.restrict →
          (t.wind c).holdTimer = some (100 * p.config.holdRestrict)) ∧
        (w.stage = .stop → ¬again p.config.restrict → (t.wind c).holdTimer = none) ∧
        (w.stage = .restrict → again p.config.caution →
          (t.wind c).holdTimer = some (100 * p.config.holdCaution)) ∧
        (w.stage = .restrict → ¬again p.config.caution → (t.wind c).holdTimer = none) ∧
        (w.stage = .caution → (t.wind c).holdTimer = none) ∧
        (∀ d, d ≠ c → t.wind d = s.wind d) ∧
        ((s.bookings.map (·.id)).Nodup → ∀ b ∈ s.bookings, b.crane = c →
          ∃ b', t.bookingById b.id = some b' ∧
            BookingChecked p.config.hysteresis (t.wind c) (t.event .booking) b b') ∧
        (w.stage = .stop → p.state = .stowing →
          ∃ q, t.permit c = some q ∧ (q.state = .disarmed ∨ q.state = .halted) ∧ q.factor = 0 ∧
            q.stowTimer = none ∧ q.stowOverdue = false))

/-! ## Zone, crane and clock timers -/

/-- The handover timer's expiry makes the zone FREE and grants it to the first claim in queue order whose
crane meets the grant conditions, with the yield demand of the claims behind it, and may complete a pending
apply where the zone carries the mark; the yield timer's expiry is recorded, the holder keeps the zone, and
a DISARMED, RUNNING or DERATED holder is HALTED by YIELD_TIMEOUT (R6, R16, R53, R54, R56, R67 to R69, R75).
The first qualifying claim behind the granted one is decisive for that demand (log entry 23). A timer that
has not run out does not expire (R62, R77, log entry 3). -/
def Obligations.ZoneTimersExpire : Prop :=
  ∀ (z : ZoneId) (s : State),
    ((s.zone z).state ≠ .handover 0 → exec (.handoverTimerExpiry z) s = .next s) ∧
    ((s.zone z).state = .handover 0 →
      let free := s.editZone z fun d => { d with state := .free }
      ∃ t, exec (.handoverTimerExpiry z) s = .next t ∧ CalendarFrame free t ∧
        ((s.zone z).mark = false → HandOffs free t ∧
          ((∀ x ∈ (s.zone z).queue, free.grantable x.crane z = false) → t = free) ∧
          ∀ ahead cl behind, (s.zone z).queue = ahead ++ cl :: behind →
            (∀ x ∈ ahead, free.grantable x.crane z = false) → free.grantable cl.crane z = true →
            let left := (s.zone z).queue.filter (·.crane != cl.crane)
            let h : Holding :=
              { holder := cl.crane, level := cl.level, emergency := cl.emergency, demand := none }
            t.zone z = { s.zone z with
              queue := left, state := .held { h with demand := demandAfter h (s.record z) left } })) ∧
    ((∀ h d, s.holding z = some h → h.demand = some d → d.timer ≠ some 0) →
      exec (.yieldTimerExpiry z) s = .next s) ∧
    (∀ h d, s.holding z = some h → h.demand = some d → d.timer = some 0 →
      ∃ t, exec (.yieldTimerExpiry z) s = .next t ∧
        HandOffs (s.editZone z fun y =>
          { y with state := .held { h with demand := some { d with timer := none } } }) t ∧
        ∀ p, s.permit h.holder = some p →
          p.state = .disarmed ∨ p.state = .running ∨ p.state = .derated →
          ∃ q, t.permit h.holder = some q ∧ q.state = .halted ∧ q.factor = 0 ∧
            q.hasLatched .yieldTimeout = true ∧ t.event .trip = true)

/-- The report timer's expiry makes the crane silent and raises SILENCE: the site event for a registered
crane, the latch, and HALTED for a DISARMED, RUNNING or DERATED one. The stow timer's expiry of a
STOWING crane sets its STOW_OVERDUE mark and the site event (R39, R115, R125). A timer that has not run
out does not expire (log entry 3). -/
def Obligations.CraneTimersExpire : Prop :=
  ∀ (c : CraneId) (s : State),
    ((s.position c).timer ≠ some 0 → exec (.reportTimerExpiry c) s = .next s) ∧
    ((s.position c).timer = some 0 →
      ∃ t, exec (.reportTimerExpiry c) s = .next t ∧
        HandOffs (s.editPosition c fun o => { o with timer := none, silent := true }) t ∧
        ∀ p, s.permit c = some p → p.state ≠ .offline →
          t.event .silence = true ∧ ∃ q, t.permit c = some q ∧ q.hasLatched .silence = true ∧
            (p.state = .disarmed ∨ p.state = .running ∨ p.state = .derated →
              q.state = .halted ∧ q.factor = 0 ∧ t.event .trip = true)) ∧
    (∀ p, s.permit c = some p → p.state = .stowing → p.stowTimer = some 0 →
      exec (.stowTimerExpiry c) s = .next ((s.editPermit c fun p =>
        { p with stowTimer := none, stowOverdue := true }).setEvent .stowOverdue)) ∧
    ((∀ p, s.permit c = some p → p.state ≠ .stowing ∨ p.stowTimer ≠ some 0) →
      exec (.stowTimerExpiry c) s = .next s)

/-- The site clock at the expiry of its second timer: a second below 59 counts up and the timer restarts; at
second 59 the next minute is entered, 1439 being followed by 0 of the next weekday and 6 by 0, and the
tick acts on the bookings (R136). A clock that is not RUNNING, or whose second timer has time left (a
SET_CLOCK has just restarted it), does not move (R141). MINUTE_TICK as a row of its own is that expiry at
second 59: the model's choice (log entry 4). -/
def Obligations.ClockAdvances : Prop :=
  ∀ s : State,
    let minute := if s.clock.minute < 1439 then s.clock.minute + 1 else 0
    let weekday := if s.clock.minute < 1439 then s.clock.weekday else (s.clock.weekday + 1) % 7
    (s.clock.mode ≠ .running ∨ s.clock.timer ≠ some 0 →
      exec .secondTimerExpiry s = .next s ∧ exec .minuteTick s = .next s) ∧
    (s.clock.mode = .running → s.clock.timer = some 0 → s.clock.second < 59 →
      exec .secondTimerExpiry s =
        .next { s with clock := { s.clock with second := s.clock.second + 1, timer := some 100 } } ∧
      exec .minuteTick s = .next s) ∧
    (s.clock.mode = .running → s.clock.timer = some 0 → 59 ≤ s.clock.second →
      exec .secondTimerExpiry s = exec .minuteTick s ∧
      ∃ t, exec .minuteTick s = .next t ∧
        CalendarFrame { s with clock := { mode := .running, weekday := weekday, minute := minute,
                                          second := 0, timer := some 100 } } t)

/-- What a minute tick does to each booking of a table with distinct ids (R149, R151, R152): a running
booking loses a minute, and at its last one ends as DONE, or LAPSED from SUSPENDED, or BOOKED when it is
recurring; at its start a BOOKED or ARMED booking becomes ACTIVE, or SUSPENDED where the wind forbids
the lift, with its whole duration ahead; at its arm point a BOOKED one becomes ARMED (R148, R150); any
other stays, a DONE, LAPSED or CANCELLED one but for its terminal order. -/
def Obligations.TickMovesBookings : Prop :=
  ∀ (s : State) (b : Booking), s.clock.mode = .running → s.clock.timer = some 0 →
    59 ≤ s.clock.second → (s.bookings.map (·.id)).Nodup → b ∈ s.bookings →
    let m := if s.clock.minute < 1439 then s.clock.minute + 1 else 0
    let w := if s.clock.minute < 1439 then s.clock.weekday else (s.clock.weekday + 1) % 7
    let starts : Prop := (b.weekday = none ∨ b.weekday = some w) ∧ b.start = m
    let arms : Prop :=
      if s.leadTime ≤ b.start then
        (b.weekday = none ∨ b.weekday = some w) ∧ b.start - s.leadTime = m
      else (b.weekday = none ∨ ∃ d, b.weekday = some d ∧ (d + 6) % 7 = w) ∧
        b.start + 1440 - s.leadTime = m
    let forbidden : Prop := (s.wind b.crane).blind = true ∨ (s.wind b.crane).stage = .stop ∨
      ∃ l g, b.windLimit = some l ∧ (s.wind b.crane).gust = some g ∧ l < g
    ∃ t b', exec .minuteTick s = .next t ∧ t.bookingById b.id = some b' ∧
      b'.crane = b.crane ∧ b'.zones = b.zones ∧ b'.start = b.start ∧ b'.duration = b.duration ∧
      ((b.state = .active ∨ b.state = .suspended) → 2 ≤ b.remaining →
        b' = { b with remaining := b.remaining - 1 }) ∧
      (b.state = .active → b.remaining ≤ 1 →
        b'.remaining = 0 ∧ b'.state = if b.recurring then .booked else .done) ∧
      (b.state = .suspended → b.remaining ≤ 1 → t.event .booking = true ∧
        b'.remaining = 0 ∧ b'.state = if b.recurring then .booked else .lapsed) ∧
      ((b.state = .booked ∨ b.state = .armed) → starts → b'.remaining = b.duration ∧
        (forbidden → b'.state = .suspended ∧ t.event .booking = true) ∧
        (¬forbidden → b'.state = .active)) ∧
      (b.state = .booked → ¬starts → arms → b'.state = .armed ∧ b'.remaining = b.remaining) ∧
      (b.state = .booked → ¬starts → ¬arms → b' = b) ∧
      (b.state = .armed → ¬starts → b' = b) ∧
      (b.state = .done ∨ b.state = .lapsed ∨ b.state = .cancelled →
        b' = { b with terminalOrder := b'.terminalOrder })

/-- A running booking whose remaining minutes reach 0 ends at the minute tick that takes them there, and at no
other moment: ACTIVE as DONE, SUSPENDED as LAPSED with site event BOOKING, either as BOOKED when recurring
(R140, R149, R152). The row as a command is that tick, taken whole: the model's choice (log entries 4 and 5). It
has no effect where no tick is due, or on a booking that does not run or has more than its last minute left. -/
def Obligations.MinutesRunOut : Prop :=
  ∀ (id : Nat) (s : State),
    let due : Prop := s.clock.mode = .running ∧ s.clock.timer = some 0 ∧ 59 ≤ s.clock.second
    (¬due → exec (.remainingMinutesZero id) s = .next s) ∧
    ((∀ b, s.bookingById id = some b → (b.state ≠ .active ∧ b.state ≠ .suspended) ∨ 2 ≤ b.remaining) →
      exec (.remainingMinutesZero id) s = .next s) ∧
    ∀ b, due → (s.bookings.map (·.id)).Nodup → s.bookingById id = some b →
      b.state = .active ∨ b.state = .suspended → b.remaining ≤ 1 →
      let minute := if s.clock.minute < 1439 then s.clock.minute + 1 else 0
      let weekday := if s.clock.minute < 1439 then s.clock.weekday else (s.clock.weekday + 1) % 7
      let ending : BookingState := if b.state = .active then .done else .lapsed
      exec (.remainingMinutesZero id) s = exec .minuteTick s ∧
      ∃ t b', exec (.remainingMinutesZero id) s = .next t ∧
        CalendarFrame { s with
          clock := { mode := .running, weekday := weekday, minute := minute, second := 0, timer := some 100 } } t ∧
        t.bookingById id = some b' ∧
        b' = { b with
          state := if b.recurring then .booked else ending, remaining := 0
          short := if b.recurring then false else b.short
          notPlaced := if b.recurring then 0 else b.notPlaced, terminalOrder := b'.terminalOrder } ∧
        (b.state = .suspended → t.event .booking = true)

/-! ## Invariants and encodings -/

/-- The state after reset meets every invariant of Safety.lean. -/
def Obligations.ResetMeetsInvariants : Prop :=
  State.reset.noticeStoreOk ∧ State.reset.linksOk ∧ State.reset.linesOk ∧ State.reset.queuesOk ∧ State.reset.permitsOk ∧
    State.reset.stopIsStowed ∧ State.reset.channelsOk ∧ State.reset.clockOk

/-- No step overfills a notice queue or lets two areas share a slot (R169), and between steps every
link stands as R164, R166 and R167 say, its receiver holding less than a frame. -/
def Obligations.StepKeepsPorts : Prop :=
  ∀ s t : State, s.noticeStoreOk → s.linksOk → step s = .next t → t.noticeStoreOk ∧ t.linksOk

/-- Every step keeps every claim queue in order with at most one claim for each crane, and no holder in
its own zone's queue (R44). -/
def Obligations.StepKeepsQueues : Prop :=
  ∀ s t : State, s.queuesOk → step s = .next t → t.queuesOk

/-- Every step keeps the permit records: the speed factor of each state, causes latched only where R125
latches them; and a crane at stage STOP is STOWING, STOWED or OFFLINE (R113, R119, R131). -/
def Obligations.StepKeepsPermits : Prop :=
  ∀ s t : State, s.permitsOk → s.stopIsStowed → step s = .next t → t.permitsOk ∧ t.stopIsStowed

/-- Every step keeps the channel records, with the gust the mean of the ring exactly while LIVE, the line
receivers, with fewer than the four bytes of a frame, and the clock record, with its second timer running
exactly while RUNNING (R87, R88, R94, R135). -/
def Obligations.StepKeepsChannelsAndClock : Prop :=
  ∀ s t : State, s.channelsOk → s.linesOk → s.clockOk → step s = .next t →
    t.channelsOk ∧ t.linesOk ∧ t.clockOk

/-- The bodies of the requests with fields read back as they were written, every field at every value
of its range (R162, R163 with R12, R24, R120, R145, R169). -/
def Obligations.BodiesReadBack : Prop :=
  (∀ r : Report, r.angle < 3600 → -100 ≤ r.rate → r.rate ≤ 100 → (r.mode = .parked → r.rate = 0) →
    r.radius ≤ 1200 → reportOf (reportBody r) = some r ∧ (reportBody r).length = 7) ∧
  (∀ (c : CraneId) (g : CraneConfig), g.base ≤ 3 → 1 ≤ g.stopTime → g.stopTime ≤ 200 →
    g.margin ≤ 300 → g.windGain ≤ 50 → g.windMax ≤ 600 → 5 ≤ g.reportTime → g.reportTime ≤ 50 →
    g.fbm ≤ 100 → 50 ≤ g.caution → g.caution < g.restrict → g.restrict < g.stop → g.stop ≤ 500 →
    50 ≤ g.stopMean → g.stopMean ≤ 500 → g.hysteresis ≤ 50 → 10 ≤ g.holdCaution →
    g.holdCaution ≤ 1800 → 10 ≤ g.holdRestrict → g.holdRestrict ≤ 1800 → 10 ≤ g.holdStop →
    g.holdStop ≤ 1800 → 30 ≤ g.stowTime → g.stowTime ≤ 600 → 10 ≤ g.restrictFactor →
    g.restrictFactor ≤ 90 →
    configOf (configBody c g) = some g ∧ craneOf (byteAt (configBody c g) 0) = some c ∧
      (configBody c g).length = 30) ∧
  (∀ (z : ZoneId) (r : ZoneRecord), 5 ≤ r.yieldTime → r.yieldTime ≤ 120 → r.deadTime ≤ 30 →
    (∀ c f, Table.entry r.footprints c = some f → f.lo < 3600 ∧ f.hi < 3600) →
    (∀ c lo hi m, Table.entry r.footprints c = some (.hook lo hi m) → m ≤ 1200) →
    zoneRecordOf (stageZoneBody z r) = some r ∧ zoneOf (byteAt (stageZoneBody z r) 0) = some z ∧
      (stageZoneBody z r).length = 54) ∧
  (∀ f : BookFields, f.start ≤ 1439 → f.duration ≤ 255 → f.level ≤ 255 → f.windLimit ≤ 65535 →
    (∀ d, f.weekday = some d → d ≤ 6) → 1 ≤ f.zones.length → f.zones.length ≤ 8 → f.zones.Nodup →
    bookOf (bookBody f) = some f ∧ (bookBody f).length = 19) ∧
  ∀ areas : List (Nat × Nat), areas.length = 6 → (∀ a ∈ areas, a.1 ≤ 65535 ∧ a.2 ≤ 65535) →
    areasOf (areasBody areas) = areas ∧ (areasBody areas).length = 24

end
end

