-- ==== Sys2Proof/Laws/State.lean ====
section
/-! SUPPORT. The small lemmas of the records: for each named write, each field and each read it leaves
alone (all by rfl), and what the read of the written record gives. -/

namespace Sys2Proof.Machine

/-! ## Fields that a write leaves alone -/

@[simp] theorem State.setEvent_links (s : State) (e : SiteEvent) : (s.setEvent e).links = s.links := rfl
@[simp] theorem State.setEvent_boxes (s : State) (e : SiteEvent) : (s.setEvent e).boxes = s.boxes := rfl
@[simp] theorem State.setEvent_lines (s : State) (e : SiteEvent) : (s.setEvent e).lines = s.lines := rfl
@[simp] theorem State.setEvent_enables (s : State) (e : SiteEvent) : (s.setEvent e).enables = s.enables := rfl
@[simp] theorem State.setEvent_restart (s : State) (e : SiteEvent) : (s.setEvent e).restart = s.restart := rfl
@[simp] theorem State.setEvent_channels (s : State) (e : SiteEvent) : (s.setEvent e).channels = s.channels := rfl
@[simp] theorem State.setEvent_winds (s : State) (e : SiteEvent) : (s.setEvent e).winds = s.winds := rfl
@[simp] theorem State.setEvent_positions (s : State) (e : SiteEvent) : (s.setEvent e).positions = s.positions := rfl
@[simp] theorem State.setEvent_active (s : State) (e : SiteEvent) : (s.setEvent e).active = s.active := rfl
@[simp] theorem State.setEvent_shadow (s : State) (e : SiteEvent) : (s.setEvent e).shadow = s.shadow := rfl
@[simp] theorem State.setEvent_zones (s : State) (e : SiteEvent) : (s.setEvent e).zones = s.zones := rfl
@[simp] theorem State.setEvent_arrivals (s : State) (e : SiteEvent) : (s.setEvent e).arrivals = s.arrivals := rfl
@[simp] theorem State.setEvent_clock (s : State) (e : SiteEvent) : (s.setEvent e).clock = s.clock := rfl
@[simp] theorem State.setEvent_leadTime (s : State) (e : SiteEvent) : (s.setEvent e).leadTime = s.leadTime := rfl
@[simp] theorem State.setEvent_bookings (s : State) (e : SiteEvent) : (s.setEvent e).bookings = s.bookings := rfl
@[simp] theorem State.setEvent_nextId (s : State) (e : SiteEvent) : (s.setEvent e).nextId = s.nextId := rfl
@[simp] theorem State.setEvent_terminals (s : State) (e : SiteEvent) : (s.setEvent e).terminals = s.terminals := rfl
@[simp] theorem State.setEvent_permits (s : State) (e : SiteEvent) : (s.setEvent e).permits = s.permits := rfl
@[simp] theorem State.setEvent_choice (s : State) (e : SiteEvent) : (s.setEvent e).choice = s.choice := rfl
@[simp] theorem State.setEvent_pending (s : State) (e : SiteEvent) : (s.setEvent e).pending = s.pending := rfl

@[simp] theorem State.clearEvents_links (s : State) : (s.clearEvents).links = s.links := rfl
@[simp] theorem State.clearEvents_boxes (s : State) : (s.clearEvents).boxes = s.boxes := rfl
@[simp] theorem State.clearEvents_lines (s : State) : (s.clearEvents).lines = s.lines := rfl
@[simp] theorem State.clearEvents_enables (s : State) : (s.clearEvents).enables = s.enables := rfl
@[simp] theorem State.clearEvents_channels (s : State) : (s.clearEvents).channels = s.channels := rfl
@[simp] theorem State.clearEvents_winds (s : State) : (s.clearEvents).winds = s.winds := rfl
@[simp] theorem State.clearEvents_positions (s : State) : (s.clearEvents).positions = s.positions := rfl
@[simp] theorem State.clearEvents_active (s : State) : (s.clearEvents).active = s.active := rfl
@[simp] theorem State.clearEvents_shadow (s : State) : (s.clearEvents).shadow = s.shadow := rfl
@[simp] theorem State.clearEvents_zones (s : State) : (s.clearEvents).zones = s.zones := rfl
@[simp] theorem State.clearEvents_arrivals (s : State) : (s.clearEvents).arrivals = s.arrivals := rfl
@[simp] theorem State.clearEvents_clock (s : State) : (s.clearEvents).clock = s.clock := rfl
@[simp] theorem State.clearEvents_leadTime (s : State) : (s.clearEvents).leadTime = s.leadTime := rfl
@[simp] theorem State.clearEvents_bookings (s : State) : (s.clearEvents).bookings = s.bookings := rfl
@[simp] theorem State.clearEvents_nextId (s : State) : (s.clearEvents).nextId = s.nextId := rfl
@[simp] theorem State.clearEvents_terminals (s : State) : (s.clearEvents).terminals = s.terminals := rfl
@[simp] theorem State.clearEvents_permits (s : State) : (s.clearEvents).permits = s.permits := rfl
@[simp] theorem State.clearEvents_choice (s : State) : (s.clearEvents).choice = s.choice := rfl
@[simp] theorem State.clearEvents_pending (s : State) : (s.clearEvents).pending = s.pending := rfl

@[simp] theorem State.editLink_boxes (s : State) (p : Port) (f : Link → Link) : (s.editLink p f).boxes = s.boxes := rfl
@[simp] theorem State.editLink_lines (s : State) (p : Port) (f : Link → Link) : (s.editLink p f).lines = s.lines := rfl
@[simp] theorem State.editLink_flags (s : State) (p : Port) (f : Link → Link) : (s.editLink p f).flags = s.flags := rfl
@[simp] theorem State.editLink_enables (s : State) (p : Port) (f : Link → Link) : (s.editLink p f).enables = s.enables := rfl
@[simp] theorem State.editLink_restart (s : State) (p : Port) (f : Link → Link) : (s.editLink p f).restart = s.restart := rfl
@[simp] theorem State.editLink_channels (s : State) (p : Port) (f : Link → Link) : (s.editLink p f).channels = s.channels := rfl
@[simp] theorem State.editLink_winds (s : State) (p : Port) (f : Link → Link) : (s.editLink p f).winds = s.winds := rfl
@[simp] theorem State.editLink_positions (s : State) (p : Port) (f : Link → Link) : (s.editLink p f).positions = s.positions := rfl
@[simp] theorem State.editLink_active (s : State) (p : Port) (f : Link → Link) : (s.editLink p f).active = s.active := rfl
@[simp] theorem State.editLink_shadow (s : State) (p : Port) (f : Link → Link) : (s.editLink p f).shadow = s.shadow := rfl
@[simp] theorem State.editLink_zones (s : State) (p : Port) (f : Link → Link) : (s.editLink p f).zones = s.zones := rfl
@[simp] theorem State.editLink_arrivals (s : State) (p : Port) (f : Link → Link) : (s.editLink p f).arrivals = s.arrivals := rfl
@[simp] theorem State.editLink_clock (s : State) (p : Port) (f : Link → Link) : (s.editLink p f).clock = s.clock := rfl
@[simp] theorem State.editLink_leadTime (s : State) (p : Port) (f : Link → Link) : (s.editLink p f).leadTime = s.leadTime := rfl
@[simp] theorem State.editLink_bookings (s : State) (p : Port) (f : Link → Link) : (s.editLink p f).bookings = s.bookings := rfl
@[simp] theorem State.editLink_nextId (s : State) (p : Port) (f : Link → Link) : (s.editLink p f).nextId = s.nextId := rfl
@[simp] theorem State.editLink_terminals (s : State) (p : Port) (f : Link → Link) : (s.editLink p f).terminals = s.terminals := rfl
@[simp] theorem State.editLink_permits (s : State) (p : Port) (f : Link → Link) : (s.editLink p f).permits = s.permits := rfl
@[simp] theorem State.editLink_choice (s : State) (p : Port) (f : Link → Link) : (s.editLink p f).choice = s.choice := rfl
@[simp] theorem State.editLink_pending (s : State) (p : Port) (f : Link → Link) : (s.editLink p f).pending = s.pending := rfl

@[simp] theorem State.editBox_links (s : State) (c : CraneId) (f : NoticeBox → NoticeBox) : (s.editBox c f).links = s.links := rfl
@[simp] theorem State.editBox_lines (s : State) (c : CraneId) (f : NoticeBox → NoticeBox) : (s.editBox c f).lines = s.lines := rfl
@[simp] theorem State.editBox_flags (s : State) (c : CraneId) (f : NoticeBox → NoticeBox) : (s.editBox c f).flags = s.flags := rfl
@[simp] theorem State.editBox_enables (s : State) (c : CraneId) (f : NoticeBox → NoticeBox) : (s.editBox c f).enables = s.enables := rfl
@[simp] theorem State.editBox_restart (s : State) (c : CraneId) (f : NoticeBox → NoticeBox) : (s.editBox c f).restart = s.restart := rfl
@[simp] theorem State.editBox_channels (s : State) (c : CraneId) (f : NoticeBox → NoticeBox) : (s.editBox c f).channels = s.channels := rfl
@[simp] theorem State.editBox_winds (s : State) (c : CraneId) (f : NoticeBox → NoticeBox) : (s.editBox c f).winds = s.winds := rfl
@[simp] theorem State.editBox_positions (s : State) (c : CraneId) (f : NoticeBox → NoticeBox) : (s.editBox c f).positions = s.positions := rfl
@[simp] theorem State.editBox_active (s : State) (c : CraneId) (f : NoticeBox → NoticeBox) : (s.editBox c f).active = s.active := rfl
@[simp] theorem State.editBox_shadow (s : State) (c : CraneId) (f : NoticeBox → NoticeBox) : (s.editBox c f).shadow = s.shadow := rfl
@[simp] theorem State.editBox_zones (s : State) (c : CraneId) (f : NoticeBox → NoticeBox) : (s.editBox c f).zones = s.zones := rfl
@[simp] theorem State.editBox_arrivals (s : State) (c : CraneId) (f : NoticeBox → NoticeBox) : (s.editBox c f).arrivals = s.arrivals := rfl
@[simp] theorem State.editBox_clock (s : State) (c : CraneId) (f : NoticeBox → NoticeBox) : (s.editBox c f).clock = s.clock := rfl
@[simp] theorem State.editBox_leadTime (s : State) (c : CraneId) (f : NoticeBox → NoticeBox) : (s.editBox c f).leadTime = s.leadTime := rfl
@[simp] theorem State.editBox_bookings (s : State) (c : CraneId) (f : NoticeBox → NoticeBox) : (s.editBox c f).bookings = s.bookings := rfl
@[simp] theorem State.editBox_nextId (s : State) (c : CraneId) (f : NoticeBox → NoticeBox) : (s.editBox c f).nextId = s.nextId := rfl
@[simp] theorem State.editBox_terminals (s : State) (c : CraneId) (f : NoticeBox → NoticeBox) : (s.editBox c f).terminals = s.terminals := rfl
@[simp] theorem State.editBox_permits (s : State) (c : CraneId) (f : NoticeBox → NoticeBox) : (s.editBox c f).permits = s.permits := rfl
@[simp] theorem State.editBox_choice (s : State) (c : CraneId) (f : NoticeBox → NoticeBox) : (s.editBox c f).choice = s.choice := rfl
@[simp] theorem State.editBox_pending (s : State) (c : CraneId) (f : NoticeBox → NoticeBox) : (s.editBox c f).pending = s.pending := rfl

@[simp] theorem State.setLine_links (s : State) (l : ChannelId) (r : Receiver) : (s.setLine l r).links = s.links := rfl
@[simp] theorem State.setLine_boxes (s : State) (l : ChannelId) (r : Receiver) : (s.setLine l r).boxes = s.boxes := rfl
@[simp] theorem State.setLine_flags (s : State) (l : ChannelId) (r : Receiver) : (s.setLine l r).flags = s.flags := rfl
@[simp] theorem State.setLine_enables (s : State) (l : ChannelId) (r : Receiver) : (s.setLine l r).enables = s.enables := rfl
@[simp] theorem State.setLine_restart (s : State) (l : ChannelId) (r : Receiver) : (s.setLine l r).restart = s.restart := rfl
@[simp] theorem State.setLine_channels (s : State) (l : ChannelId) (r : Receiver) : (s.setLine l r).channels = s.channels := rfl
@[simp] theorem State.setLine_winds (s : State) (l : ChannelId) (r : Receiver) : (s.setLine l r).winds = s.winds := rfl
@[simp] theorem State.setLine_positions (s : State) (l : ChannelId) (r : Receiver) : (s.setLine l r).positions = s.positions := rfl
@[simp] theorem State.setLine_active (s : State) (l : ChannelId) (r : Receiver) : (s.setLine l r).active = s.active := rfl
@[simp] theorem State.setLine_shadow (s : State) (l : ChannelId) (r : Receiver) : (s.setLine l r).shadow = s.shadow := rfl
@[simp] theorem State.setLine_zones (s : State) (l : ChannelId) (r : Receiver) : (s.setLine l r).zones = s.zones := rfl
@[simp] theorem State.setLine_arrivals (s : State) (l : ChannelId) (r : Receiver) : (s.setLine l r).arrivals = s.arrivals := rfl
@[simp] theorem State.setLine_clock (s : State) (l : ChannelId) (r : Receiver) : (s.setLine l r).clock = s.clock := rfl
@[simp] theorem State.setLine_leadTime (s : State) (l : ChannelId) (r : Receiver) : (s.setLine l r).leadTime = s.leadTime := rfl
@[simp] theorem State.setLine_bookings (s : State) (l : ChannelId) (r : Receiver) : (s.setLine l r).bookings = s.bookings := rfl
@[simp] theorem State.setLine_nextId (s : State) (l : ChannelId) (r : Receiver) : (s.setLine l r).nextId = s.nextId := rfl
@[simp] theorem State.setLine_terminals (s : State) (l : ChannelId) (r : Receiver) : (s.setLine l r).terminals = s.terminals := rfl
@[simp] theorem State.setLine_permits (s : State) (l : ChannelId) (r : Receiver) : (s.setLine l r).permits = s.permits := rfl
@[simp] theorem State.setLine_choice (s : State) (l : ChannelId) (r : Receiver) : (s.setLine l r).choice = s.choice := rfl
@[simp] theorem State.setLine_pending (s : State) (l : ChannelId) (r : Receiver) : (s.setLine l r).pending = s.pending := rfl

@[simp] theorem State.editChannel_links (s : State) (k : ChannelId) (f : Channel → Channel) : (s.editChannel k f).links = s.links := rfl
@[simp] theorem State.editChannel_boxes (s : State) (k : ChannelId) (f : Channel → Channel) : (s.editChannel k f).boxes = s.boxes := rfl
@[simp] theorem State.editChannel_lines (s : State) (k : ChannelId) (f : Channel → Channel) : (s.editChannel k f).lines = s.lines := rfl
@[simp] theorem State.editChannel_flags (s : State) (k : ChannelId) (f : Channel → Channel) : (s.editChannel k f).flags = s.flags := rfl
@[simp] theorem State.editChannel_enables (s : State) (k : ChannelId) (f : Channel → Channel) : (s.editChannel k f).enables = s.enables := rfl
@[simp] theorem State.editChannel_restart (s : State) (k : ChannelId) (f : Channel → Channel) : (s.editChannel k f).restart = s.restart := rfl
@[simp] theorem State.editChannel_winds (s : State) (k : ChannelId) (f : Channel → Channel) : (s.editChannel k f).winds = s.winds := rfl
@[simp] theorem State.editChannel_positions (s : State) (k : ChannelId) (f : Channel → Channel) : (s.editChannel k f).positions = s.positions := rfl
@[simp] theorem State.editChannel_active (s : State) (k : ChannelId) (f : Channel → Channel) : (s.editChannel k f).active = s.active := rfl
@[simp] theorem State.editChannel_shadow (s : State) (k : ChannelId) (f : Channel → Channel) : (s.editChannel k f).shadow = s.shadow := rfl
@[simp] theorem State.editChannel_zones (s : State) (k : ChannelId) (f : Channel → Channel) : (s.editChannel k f).zones = s.zones := rfl
@[simp] theorem State.editChannel_arrivals (s : State) (k : ChannelId) (f : Channel → Channel) : (s.editChannel k f).arrivals = s.arrivals := rfl
@[simp] theorem State.editChannel_clock (s : State) (k : ChannelId) (f : Channel → Channel) : (s.editChannel k f).clock = s.clock := rfl
@[simp] theorem State.editChannel_leadTime (s : State) (k : ChannelId) (f : Channel → Channel) : (s.editChannel k f).leadTime = s.leadTime := rfl
@[simp] theorem State.editChannel_bookings (s : State) (k : ChannelId) (f : Channel → Channel) : (s.editChannel k f).bookings = s.bookings := rfl
@[simp] theorem State.editChannel_nextId (s : State) (k : ChannelId) (f : Channel → Channel) : (s.editChannel k f).nextId = s.nextId := rfl
@[simp] theorem State.editChannel_terminals (s : State) (k : ChannelId) (f : Channel → Channel) : (s.editChannel k f).terminals = s.terminals := rfl
@[simp] theorem State.editChannel_permits (s : State) (k : ChannelId) (f : Channel → Channel) : (s.editChannel k f).permits = s.permits := rfl
@[simp] theorem State.editChannel_choice (s : State) (k : ChannelId) (f : Channel → Channel) : (s.editChannel k f).choice = s.choice := rfl
@[simp] theorem State.editChannel_pending (s : State) (k : ChannelId) (f : Channel → Channel) : (s.editChannel k f).pending = s.pending := rfl

@[simp] theorem State.editWind_links (s : State) (c : CraneId) (f : Wind → Wind) : (s.editWind c f).links = s.links := rfl
@[simp] theorem State.editWind_boxes (s : State) (c : CraneId) (f : Wind → Wind) : (s.editWind c f).boxes = s.boxes := rfl
@[simp] theorem State.editWind_lines (s : State) (c : CraneId) (f : Wind → Wind) : (s.editWind c f).lines = s.lines := rfl
@[simp] theorem State.editWind_flags (s : State) (c : CraneId) (f : Wind → Wind) : (s.editWind c f).flags = s.flags := rfl
@[simp] theorem State.editWind_enables (s : State) (c : CraneId) (f : Wind → Wind) : (s.editWind c f).enables = s.enables := rfl
@[simp] theorem State.editWind_restart (s : State) (c : CraneId) (f : Wind → Wind) : (s.editWind c f).restart = s.restart := rfl
@[simp] theorem State.editWind_channels (s : State) (c : CraneId) (f : Wind → Wind) : (s.editWind c f).channels = s.channels := rfl
@[simp] theorem State.editWind_positions (s : State) (c : CraneId) (f : Wind → Wind) : (s.editWind c f).positions = s.positions := rfl
@[simp] theorem State.editWind_active (s : State) (c : CraneId) (f : Wind → Wind) : (s.editWind c f).active = s.active := rfl
@[simp] theorem State.editWind_shadow (s : State) (c : CraneId) (f : Wind → Wind) : (s.editWind c f).shadow = s.shadow := rfl
@[simp] theorem State.editWind_zones (s : State) (c : CraneId) (f : Wind → Wind) : (s.editWind c f).zones = s.zones := rfl
@[simp] theorem State.editWind_arrivals (s : State) (c : CraneId) (f : Wind → Wind) : (s.editWind c f).arrivals = s.arrivals := rfl
@[simp] theorem State.editWind_clock (s : State) (c : CraneId) (f : Wind → Wind) : (s.editWind c f).clock = s.clock := rfl
@[simp] theorem State.editWind_leadTime (s : State) (c : CraneId) (f : Wind → Wind) : (s.editWind c f).leadTime = s.leadTime := rfl
@[simp] theorem State.editWind_bookings (s : State) (c : CraneId) (f : Wind → Wind) : (s.editWind c f).bookings = s.bookings := rfl
@[simp] theorem State.editWind_nextId (s : State) (c : CraneId) (f : Wind → Wind) : (s.editWind c f).nextId = s.nextId := rfl
@[simp] theorem State.editWind_terminals (s : State) (c : CraneId) (f : Wind → Wind) : (s.editWind c f).terminals = s.terminals := rfl
@[simp] theorem State.editWind_permits (s : State) (c : CraneId) (f : Wind → Wind) : (s.editWind c f).permits = s.permits := rfl
@[simp] theorem State.editWind_choice (s : State) (c : CraneId) (f : Wind → Wind) : (s.editWind c f).choice = s.choice := rfl
@[simp] theorem State.editWind_pending (s : State) (c : CraneId) (f : Wind → Wind) : (s.editWind c f).pending = s.pending := rfl

@[simp] theorem State.editPosition_links (s : State) (c : CraneId) (f : Position → Position) : (s.editPosition c f).links = s.links := rfl
@[simp] theorem State.editPosition_boxes (s : State) (c : CraneId) (f : Position → Position) : (s.editPosition c f).boxes = s.boxes := rfl
@[simp] theorem State.editPosition_lines (s : State) (c : CraneId) (f : Position → Position) : (s.editPosition c f).lines = s.lines := rfl
@[simp] theorem State.editPosition_flags (s : State) (c : CraneId) (f : Position → Position) : (s.editPosition c f).flags = s.flags := rfl
@[simp] theorem State.editPosition_enables (s : State) (c : CraneId) (f : Position → Position) : (s.editPosition c f).enables = s.enables := rfl
@[simp] theorem State.editPosition_restart (s : State) (c : CraneId) (f : Position → Position) : (s.editPosition c f).restart = s.restart := rfl
@[simp] theorem State.editPosition_channels (s : State) (c : CraneId) (f : Position → Position) : (s.editPosition c f).channels = s.channels := rfl
@[simp] theorem State.editPosition_winds (s : State) (c : CraneId) (f : Position → Position) : (s.editPosition c f).winds = s.winds := rfl
@[simp] theorem State.editPosition_active (s : State) (c : CraneId) (f : Position → Position) : (s.editPosition c f).active = s.active := rfl
@[simp] theorem State.editPosition_shadow (s : State) (c : CraneId) (f : Position → Position) : (s.editPosition c f).shadow = s.shadow := rfl
@[simp] theorem State.editPosition_zones (s : State) (c : CraneId) (f : Position → Position) : (s.editPosition c f).zones = s.zones := rfl
@[simp] theorem State.editPosition_arrivals (s : State) (c : CraneId) (f : Position → Position) : (s.editPosition c f).arrivals = s.arrivals := rfl
@[simp] theorem State.editPosition_clock (s : State) (c : CraneId) (f : Position → Position) : (s.editPosition c f).clock = s.clock := rfl
@[simp] theorem State.editPosition_leadTime (s : State) (c : CraneId) (f : Position → Position) : (s.editPosition c f).leadTime = s.leadTime := rfl
@[simp] theorem State.editPosition_bookings (s : State) (c : CraneId) (f : Position → Position) : (s.editPosition c f).bookings = s.bookings := rfl
@[simp] theorem State.editPosition_nextId (s : State) (c : CraneId) (f : Position → Position) : (s.editPosition c f).nextId = s.nextId := rfl
@[simp] theorem State.editPosition_terminals (s : State) (c : CraneId) (f : Position → Position) : (s.editPosition c f).terminals = s.terminals := rfl
@[simp] theorem State.editPosition_permits (s : State) (c : CraneId) (f : Position → Position) : (s.editPosition c f).permits = s.permits := rfl
@[simp] theorem State.editPosition_choice (s : State) (c : CraneId) (f : Position → Position) : (s.editPosition c f).choice = s.choice := rfl
@[simp] theorem State.editPosition_pending (s : State) (c : CraneId) (f : Position → Position) : (s.editPosition c f).pending = s.pending := rfl

@[simp] theorem State.editZone_links (s : State) (z : ZoneId) (f : ZoneDyn → ZoneDyn) : (s.editZone z f).links = s.links := rfl
@[simp] theorem State.editZone_boxes (s : State) (z : ZoneId) (f : ZoneDyn → ZoneDyn) : (s.editZone z f).boxes = s.boxes := rfl
@[simp] theorem State.editZone_lines (s : State) (z : ZoneId) (f : ZoneDyn → ZoneDyn) : (s.editZone z f).lines = s.lines := rfl
@[simp] theorem State.editZone_flags (s : State) (z : ZoneId) (f : ZoneDyn → ZoneDyn) : (s.editZone z f).flags = s.flags := rfl
@[simp] theorem State.editZone_enables (s : State) (z : ZoneId) (f : ZoneDyn → ZoneDyn) : (s.editZone z f).enables = s.enables := rfl
@[simp] theorem State.editZone_restart (s : State) (z : ZoneId) (f : ZoneDyn → ZoneDyn) : (s.editZone z f).restart = s.restart := rfl
@[simp] theorem State.editZone_channels (s : State) (z : ZoneId) (f : ZoneDyn → ZoneDyn) : (s.editZone z f).channels = s.channels := rfl
@[simp] theorem State.editZone_winds (s : State) (z : ZoneId) (f : ZoneDyn → ZoneDyn) : (s.editZone z f).winds = s.winds := rfl
@[simp] theorem State.editZone_positions (s : State) (z : ZoneId) (f : ZoneDyn → ZoneDyn) : (s.editZone z f).positions = s.positions := rfl
@[simp] theorem State.editZone_active (s : State) (z : ZoneId) (f : ZoneDyn → ZoneDyn) : (s.editZone z f).active = s.active := rfl
@[simp] theorem State.editZone_shadow (s : State) (z : ZoneId) (f : ZoneDyn → ZoneDyn) : (s.editZone z f).shadow = s.shadow := rfl
@[simp] theorem State.editZone_arrivals (s : State) (z : ZoneId) (f : ZoneDyn → ZoneDyn) : (s.editZone z f).arrivals = s.arrivals := rfl
@[simp] theorem State.editZone_clock (s : State) (z : ZoneId) (f : ZoneDyn → ZoneDyn) : (s.editZone z f).clock = s.clock := rfl
@[simp] theorem State.editZone_leadTime (s : State) (z : ZoneId) (f : ZoneDyn → ZoneDyn) : (s.editZone z f).leadTime = s.leadTime := rfl
@[simp] theorem State.editZone_bookings (s : State) (z : ZoneId) (f : ZoneDyn → ZoneDyn) : (s.editZone z f).bookings = s.bookings := rfl
@[simp] theorem State.editZone_nextId (s : State) (z : ZoneId) (f : ZoneDyn → ZoneDyn) : (s.editZone z f).nextId = s.nextId := rfl
@[simp] theorem State.editZone_terminals (s : State) (z : ZoneId) (f : ZoneDyn → ZoneDyn) : (s.editZone z f).terminals = s.terminals := rfl
@[simp] theorem State.editZone_permits (s : State) (z : ZoneId) (f : ZoneDyn → ZoneDyn) : (s.editZone z f).permits = s.permits := rfl
@[simp] theorem State.editZone_choice (s : State) (z : ZoneId) (f : ZoneDyn → ZoneDyn) : (s.editZone z f).choice = s.choice := rfl
@[simp] theorem State.editZone_pending (s : State) (z : ZoneId) (f : ZoneDyn → ZoneDyn) : (s.editZone z f).pending = s.pending := rfl

@[simp] theorem State.editPermit_links (s : State) (c : CraneId) (f : Permit → Permit) : (s.editPermit c f).links = s.links := rfl
@[simp] theorem State.editPermit_boxes (s : State) (c : CraneId) (f : Permit → Permit) : (s.editPermit c f).boxes = s.boxes := rfl
@[simp] theorem State.editPermit_lines (s : State) (c : CraneId) (f : Permit → Permit) : (s.editPermit c f).lines = s.lines := rfl
@[simp] theorem State.editPermit_flags (s : State) (c : CraneId) (f : Permit → Permit) : (s.editPermit c f).flags = s.flags := rfl
@[simp] theorem State.editPermit_enables (s : State) (c : CraneId) (f : Permit → Permit) : (s.editPermit c f).enables = s.enables := rfl
@[simp] theorem State.editPermit_restart (s : State) (c : CraneId) (f : Permit → Permit) : (s.editPermit c f).restart = s.restart := rfl
@[simp] theorem State.editPermit_channels (s : State) (c : CraneId) (f : Permit → Permit) : (s.editPermit c f).channels = s.channels := rfl
@[simp] theorem State.editPermit_winds (s : State) (c : CraneId) (f : Permit → Permit) : (s.editPermit c f).winds = s.winds := rfl
@[simp] theorem State.editPermit_positions (s : State) (c : CraneId) (f : Permit → Permit) : (s.editPermit c f).positions = s.positions := rfl
@[simp] theorem State.editPermit_active (s : State) (c : CraneId) (f : Permit → Permit) : (s.editPermit c f).active = s.active := rfl
@[simp] theorem State.editPermit_shadow (s : State) (c : CraneId) (f : Permit → Permit) : (s.editPermit c f).shadow = s.shadow := rfl
@[simp] theorem State.editPermit_zones (s : State) (c : CraneId) (f : Permit → Permit) : (s.editPermit c f).zones = s.zones := rfl
@[simp] theorem State.editPermit_arrivals (s : State) (c : CraneId) (f : Permit → Permit) : (s.editPermit c f).arrivals = s.arrivals := rfl
@[simp] theorem State.editPermit_clock (s : State) (c : CraneId) (f : Permit → Permit) : (s.editPermit c f).clock = s.clock := rfl
@[simp] theorem State.editPermit_leadTime (s : State) (c : CraneId) (f : Permit → Permit) : (s.editPermit c f).leadTime = s.leadTime := rfl
@[simp] theorem State.editPermit_bookings (s : State) (c : CraneId) (f : Permit → Permit) : (s.editPermit c f).bookings = s.bookings := rfl
@[simp] theorem State.editPermit_nextId (s : State) (c : CraneId) (f : Permit → Permit) : (s.editPermit c f).nextId = s.nextId := rfl
@[simp] theorem State.editPermit_terminals (s : State) (c : CraneId) (f : Permit → Permit) : (s.editPermit c f).terminals = s.terminals := rfl
@[simp] theorem State.editPermit_choice (s : State) (c : CraneId) (f : Permit → Permit) : (s.editPermit c f).choice = s.choice := rfl
@[simp] theorem State.editPermit_pending (s : State) (c : CraneId) (f : Permit → Permit) : (s.editPermit c f).pending = s.pending := rfl

@[simp] theorem State.editBooking_links (s : State) (id : Nat) (f : Booking → Booking) : (s.editBooking id f).links = s.links := rfl
@[simp] theorem State.editBooking_boxes (s : State) (id : Nat) (f : Booking → Booking) : (s.editBooking id f).boxes = s.boxes := rfl
@[simp] theorem State.editBooking_lines (s : State) (id : Nat) (f : Booking → Booking) : (s.editBooking id f).lines = s.lines := rfl
@[simp] theorem State.editBooking_flags (s : State) (id : Nat) (f : Booking → Booking) : (s.editBooking id f).flags = s.flags := rfl
@[simp] theorem State.editBooking_enables (s : State) (id : Nat) (f : Booking → Booking) : (s.editBooking id f).enables = s.enables := rfl
@[simp] theorem State.editBooking_restart (s : State) (id : Nat) (f : Booking → Booking) : (s.editBooking id f).restart = s.restart := rfl
@[simp] theorem State.editBooking_channels (s : State) (id : Nat) (f : Booking → Booking) : (s.editBooking id f).channels = s.channels := rfl
@[simp] theorem State.editBooking_winds (s : State) (id : Nat) (f : Booking → Booking) : (s.editBooking id f).winds = s.winds := rfl
@[simp] theorem State.editBooking_positions (s : State) (id : Nat) (f : Booking → Booking) : (s.editBooking id f).positions = s.positions := rfl
@[simp] theorem State.editBooking_active (s : State) (id : Nat) (f : Booking → Booking) : (s.editBooking id f).active = s.active := rfl
@[simp] theorem State.editBooking_shadow (s : State) (id : Nat) (f : Booking → Booking) : (s.editBooking id f).shadow = s.shadow := rfl
@[simp] theorem State.editBooking_zones (s : State) (id : Nat) (f : Booking → Booking) : (s.editBooking id f).zones = s.zones := rfl
@[simp] theorem State.editBooking_arrivals (s : State) (id : Nat) (f : Booking → Booking) : (s.editBooking id f).arrivals = s.arrivals := rfl
@[simp] theorem State.editBooking_clock (s : State) (id : Nat) (f : Booking → Booking) : (s.editBooking id f).clock = s.clock := rfl
@[simp] theorem State.editBooking_leadTime (s : State) (id : Nat) (f : Booking → Booking) : (s.editBooking id f).leadTime = s.leadTime := rfl
@[simp] theorem State.editBooking_nextId (s : State) (id : Nat) (f : Booking → Booking) : (s.editBooking id f).nextId = s.nextId := rfl
@[simp] theorem State.editBooking_terminals (s : State) (id : Nat) (f : Booking → Booking) : (s.editBooking id f).terminals = s.terminals := rfl
@[simp] theorem State.editBooking_permits (s : State) (id : Nat) (f : Booking → Booking) : (s.editBooking id f).permits = s.permits := rfl
@[simp] theorem State.editBooking_choice (s : State) (id : Nat) (f : Booking → Booking) : (s.editBooking id f).choice = s.choice := rfl
@[simp] theorem State.editBooking_pending (s : State) (id : Nat) (f : Booking → Booking) : (s.editBooking id f).pending = s.pending := rfl

@[simp] theorem State.chosen_links (s : State) : (s.chosen).links = s.links := rfl
@[simp] theorem State.chosen_boxes (s : State) : (s.chosen).boxes = s.boxes := rfl
@[simp] theorem State.chosen_lines (s : State) : (s.chosen).lines = s.lines := rfl
@[simp] theorem State.chosen_flags (s : State) : (s.chosen).flags = s.flags := rfl
@[simp] theorem State.chosen_enables (s : State) : (s.chosen).enables = s.enables := rfl
@[simp] theorem State.chosen_restart (s : State) : (s.chosen).restart = s.restart := rfl
@[simp] theorem State.chosen_channels (s : State) : (s.chosen).channels = s.channels := rfl
@[simp] theorem State.chosen_winds (s : State) : (s.chosen).winds = s.winds := rfl
@[simp] theorem State.chosen_positions (s : State) : (s.chosen).positions = s.positions := rfl
@[simp] theorem State.chosen_active (s : State) : (s.chosen).active = s.active := rfl
@[simp] theorem State.chosen_shadow (s : State) : (s.chosen).shadow = s.shadow := rfl
@[simp] theorem State.chosen_zones (s : State) : (s.chosen).zones = s.zones := rfl
@[simp] theorem State.chosen_arrivals (s : State) : (s.chosen).arrivals = s.arrivals := rfl
@[simp] theorem State.chosen_clock (s : State) : (s.chosen).clock = s.clock := rfl
@[simp] theorem State.chosen_leadTime (s : State) : (s.chosen).leadTime = s.leadTime := rfl
@[simp] theorem State.chosen_bookings (s : State) : (s.chosen).bookings = s.bookings := rfl
@[simp] theorem State.chosen_nextId (s : State) : (s.chosen).nextId = s.nextId := rfl
@[simp] theorem State.chosen_terminals (s : State) : (s.chosen).terminals = s.terminals := rfl
@[simp] theorem State.chosen_permits (s : State) : (s.chosen).permits = s.permits := rfl
@[simp] theorem State.chosen_pending (s : State) : (s.chosen).pending = s.pending := rfl

/-! ## Reads that a write leaves alone -/

@[simp] theorem State.setEvent_link (s : State) (e : SiteEvent) (q : Port) : (s.setEvent e).link q = s.link q := rfl
@[simp] theorem State.setEvent_box (s : State) (e : SiteEvent) (d : CraneId) : (s.setEvent e).box d = s.box d := rfl
@[simp] theorem State.setEvent_line (s : State) (e : SiteEvent) (m : ChannelId) : (s.setEvent e).line m = s.line m := rfl
@[simp] theorem State.setEvent_channel (s : State) (e : SiteEvent) (j : ChannelId) : (s.setEvent e).channel j = s.channel j := rfl
@[simp] theorem State.setEvent_wind (s : State) (e : SiteEvent) (d : CraneId) : (s.setEvent e).wind d = s.wind d := rfl
@[simp] theorem State.setEvent_position (s : State) (e : SiteEvent) (d : CraneId) : (s.setEvent e).position d = s.position d := rfl
@[simp] theorem State.setEvent_zone (s : State) (e : SiteEvent) (y : ZoneId) : (s.setEvent e).zone y = s.zone y := rfl
@[simp] theorem State.setEvent_record (s : State) (e : SiteEvent) (y : ZoneId) : (s.setEvent e).record y = s.record y := rfl
@[simp] theorem State.setEvent_shadowRecord (s : State) (e : SiteEvent) (y : ZoneId) : (s.setEvent e).shadowRecord y = s.shadowRecord y := rfl
@[simp] theorem State.setEvent_permit (s : State) (e : SiteEvent) (d : CraneId) : (s.setEvent e).permit d = s.permit d := rfl
@[simp] theorem State.setEvent_permitState (s : State) (e : SiteEvent) (d : CraneId) : (s.setEvent e).permitState d = s.permitState d := rfl
@[simp] theorem State.setEvent_bookingById (s : State) (e : SiteEvent) (i : Nat) : (s.setEvent e).bookingById i = s.bookingById i := rfl
@[simp] theorem State.setEvent_footprint (s : State) (e : SiteEvent) (y : ZoneId) (d : CraneId) : (s.setEvent e).footprint y d = s.footprint y d := rfl
@[simp] theorem State.setEvent_holding (s : State) (e : SiteEvent) (y : ZoneId) : (s.setEvent e).holding y = s.holding y := rfl
@[simp] theorem State.setEvent_heldBy (s : State) (e : SiteEvent) (y : ZoneId) (d : CraneId) : (s.setEvent e).heldBy y d = s.heldBy y d := rfl
@[simp] theorem State.setEvent_occupies (s : State) (e : SiteEvent) (d : CraneId) (y : ZoneId) : (s.setEvent e).occupies d y = s.occupies d y := rfl
@[simp] theorem State.setEvent_otherOccupant (s : State) (e : SiteEvent) (y : ZoneId) (d : CraneId) : (s.setEvent e).otherOccupant y d = s.otherOccupant y d := rfl
@[simp] theorem State.setEvent_claimOf (s : State) (e : SiteEvent) (y : ZoneId) (d : CraneId) : (s.setEvent e).claimOf y d = s.claimOf y d := rfl
@[simp] theorem State.setEvent_hasClaim (s : State) (e : SiteEvent) (y : ZoneId) (d : CraneId) : (s.setEvent e).hasClaim y d = s.hasClaim y d := rfl
@[simp] theorem State.setEvent_claimZones (s : State) (e : SiteEvent) (d : CraneId) : (s.setEvent e).claimZones d = s.claimZones d := rfl
@[simp] theorem State.setEvent_heldZones (s : State) (e : SiteEvent) (d : CraneId) : (s.setEvent e).heldZones d = s.heldZones d := rfl
@[simp] theorem State.setEvent_baseLevel (s : State) (e : SiteEvent) (d : CraneId) : (s.setEvent e).baseLevel d = s.baseLevel d := rfl
@[simp] theorem State.setEvent_bookingLevel (s : State) (e : SiteEvent) (d : CraneId) (y : ZoneId) : (s.setEvent e).bookingLevel d y = s.bookingLevel d y := rfl
@[simp] theorem State.setEvent_allClaims (s : State) (e : SiteEvent) : (s.setEvent e).allClaims = s.allClaims := rfl
@[simp] theorem State.setEvent_countOf (s : State) (e : SiteEvent) (d : CraneId) : (s.setEvent e).countOf d = s.countOf d := rfl
@[simp] theorem State.setEvent_applyPending (s : State) (e : SiteEvent) : (s.setEvent e).applyPending = s.applyPending := rfl
@[simp] theorem State.setEvent_markedZones (s : State) (e : SiteEvent) : (s.setEvent e).markedZones = s.markedZones := rfl
@[simp] theorem State.setEvent_suspendedBooking (s : State) (e : SiteEvent) (d : CraneId) : (s.setEvent e).suspendedBooking d = s.suspendedBooking d := rfl
@[simp] theorem State.setEvent_openedForCrane (s : State) (e : SiteEvent) (y : ZoneId) (d : CraneId) : (s.setEvent e).openedForCrane y d = s.openedForCrane y d := rfl
@[simp] theorem State.setEvent_admitted (s : State) (e : SiteEvent) (d : CraneId) (y : ZoneId) : (s.setEvent e).admitted d y = s.admitted d y := rfl
@[simp] theorem State.setEvent_closing (s : State) (e : SiteEvent) (y : ZoneId) : (s.setEvent e).closing y = s.closing y := rfl
@[simp] theorem State.setEvent_levelFor (s : State) (e : SiteEvent) (d : CraneId) (y : ZoneId) (em : Bool) : (s.setEvent e).levelFor d y em = s.levelFor d y em := rfl
@[simp] theorem State.setEvent_grantable (s : State) (e : SiteEvent) (d : CraneId) (y : ZoneId) : (s.setEvent e).grantable d y = s.grantable d y := rfl
@[simp] theorem State.setEvent_grantableButMark (s : State) (e : SiteEvent) (d : CraneId) (y : ZoneId) : (s.setEvent e).grantableButMark d y = s.grantableButMark d y := rfl
@[simp] theorem State.setEvent_firstEligible (s : State) (e : SiteEvent) (y : ZoneId) : (s.setEvent e).firstEligible y = s.firstEligible y := rfl

@[simp] theorem State.clearEvents_link (s : State) (q : Port) : (s.clearEvents).link q = s.link q := rfl
@[simp] theorem State.clearEvents_box (s : State) (d : CraneId) : (s.clearEvents).box d = s.box d := rfl
@[simp] theorem State.clearEvents_line (s : State) (m : ChannelId) : (s.clearEvents).line m = s.line m := rfl
@[simp] theorem State.clearEvents_channel (s : State) (j : ChannelId) : (s.clearEvents).channel j = s.channel j := rfl
@[simp] theorem State.clearEvents_wind (s : State) (d : CraneId) : (s.clearEvents).wind d = s.wind d := rfl
@[simp] theorem State.clearEvents_position (s : State) (d : CraneId) : (s.clearEvents).position d = s.position d := rfl
@[simp] theorem State.clearEvents_zone (s : State) (y : ZoneId) : (s.clearEvents).zone y = s.zone y := rfl
@[simp] theorem State.clearEvents_record (s : State) (y : ZoneId) : (s.clearEvents).record y = s.record y := rfl
@[simp] theorem State.clearEvents_shadowRecord (s : State) (y : ZoneId) : (s.clearEvents).shadowRecord y = s.shadowRecord y := rfl
@[simp] theorem State.clearEvents_permit (s : State) (d : CraneId) : (s.clearEvents).permit d = s.permit d := rfl
@[simp] theorem State.clearEvents_permitState (s : State) (d : CraneId) : (s.clearEvents).permitState d = s.permitState d := rfl
@[simp] theorem State.clearEvents_bookingById (s : State) (i : Nat) : (s.clearEvents).bookingById i = s.bookingById i := rfl
@[simp] theorem State.clearEvents_footprint (s : State) (y : ZoneId) (d : CraneId) : (s.clearEvents).footprint y d = s.footprint y d := rfl
@[simp] theorem State.clearEvents_holding (s : State) (y : ZoneId) : (s.clearEvents).holding y = s.holding y := rfl
@[simp] theorem State.clearEvents_heldBy (s : State) (y : ZoneId) (d : CraneId) : (s.clearEvents).heldBy y d = s.heldBy y d := rfl
@[simp] theorem State.clearEvents_occupies (s : State) (d : CraneId) (y : ZoneId) : (s.clearEvents).occupies d y = s.occupies d y := rfl
@[simp] theorem State.clearEvents_otherOccupant (s : State) (y : ZoneId) (d : CraneId) : (s.clearEvents).otherOccupant y d = s.otherOccupant y d := rfl
@[simp] theorem State.clearEvents_claimOf (s : State) (y : ZoneId) (d : CraneId) : (s.clearEvents).claimOf y d = s.claimOf y d := rfl
@[simp] theorem State.clearEvents_hasClaim (s : State) (y : ZoneId) (d : CraneId) : (s.clearEvents).hasClaim y d = s.hasClaim y d := rfl
@[simp] theorem State.clearEvents_claimZones (s : State) (d : CraneId) : (s.clearEvents).claimZones d = s.claimZones d := rfl
@[simp] theorem State.clearEvents_heldZones (s : State) (d : CraneId) : (s.clearEvents).heldZones d = s.heldZones d := rfl
@[simp] theorem State.clearEvents_baseLevel (s : State) (d : CraneId) : (s.clearEvents).baseLevel d = s.baseLevel d := rfl
@[simp] theorem State.clearEvents_bookingLevel (s : State) (d : CraneId) (y : ZoneId) : (s.clearEvents).bookingLevel d y = s.bookingLevel d y := rfl
@[simp] theorem State.clearEvents_allClaims (s : State) : (s.clearEvents).allClaims = s.allClaims := rfl
@[simp] theorem State.clearEvents_countOf (s : State) (d : CraneId) : (s.clearEvents).countOf d = s.countOf d := rfl
@[simp] theorem State.clearEvents_applyPending (s : State) : (s.clearEvents).applyPending = s.applyPending := rfl
@[simp] theorem State.clearEvents_markedZones (s : State) : (s.clearEvents).markedZones = s.markedZones := rfl
@[simp] theorem State.clearEvents_suspendedBooking (s : State) (d : CraneId) : (s.clearEvents).suspendedBooking d = s.suspendedBooking d := rfl
@[simp] theorem State.clearEvents_openedForCrane (s : State) (y : ZoneId) (d : CraneId) : (s.clearEvents).openedForCrane y d = s.openedForCrane y d := rfl
@[simp] theorem State.clearEvents_admitted (s : State) (d : CraneId) (y : ZoneId) : (s.clearEvents).admitted d y = s.admitted d y := rfl
@[simp] theorem State.clearEvents_closing (s : State) (y : ZoneId) : (s.clearEvents).closing y = s.closing y := rfl
@[simp] theorem State.clearEvents_levelFor (s : State) (d : CraneId) (y : ZoneId) (em : Bool) : (s.clearEvents).levelFor d y em = s.levelFor d y em := rfl
@[simp] theorem State.clearEvents_grantable (s : State) (d : CraneId) (y : ZoneId) : (s.clearEvents).grantable d y = s.grantable d y := rfl
@[simp] theorem State.clearEvents_grantableButMark (s : State) (d : CraneId) (y : ZoneId) : (s.clearEvents).grantableButMark d y = s.grantableButMark d y := rfl
@[simp] theorem State.clearEvents_firstEligible (s : State) (y : ZoneId) : (s.clearEvents).firstEligible y = s.firstEligible y := rfl

@[simp] theorem State.editLink_box (s : State) (p : Port) (f : Link → Link) (d : CraneId) : (s.editLink p f).box d = s.box d := rfl
@[simp] theorem State.editLink_line (s : State) (p : Port) (f : Link → Link) (m : ChannelId) : (s.editLink p f).line m = s.line m := rfl
@[simp] theorem State.editLink_channel (s : State) (p : Port) (f : Link → Link) (j : ChannelId) : (s.editLink p f).channel j = s.channel j := rfl
@[simp] theorem State.editLink_wind (s : State) (p : Port) (f : Link → Link) (d : CraneId) : (s.editLink p f).wind d = s.wind d := rfl
@[simp] theorem State.editLink_position (s : State) (p : Port) (f : Link → Link) (d : CraneId) : (s.editLink p f).position d = s.position d := rfl
@[simp] theorem State.editLink_zone (s : State) (p : Port) (f : Link → Link) (y : ZoneId) : (s.editLink p f).zone y = s.zone y := rfl
@[simp] theorem State.editLink_record (s : State) (p : Port) (f : Link → Link) (y : ZoneId) : (s.editLink p f).record y = s.record y := rfl
@[simp] theorem State.editLink_shadowRecord (s : State) (p : Port) (f : Link → Link) (y : ZoneId) : (s.editLink p f).shadowRecord y = s.shadowRecord y := rfl
@[simp] theorem State.editLink_permit (s : State) (p : Port) (f : Link → Link) (d : CraneId) : (s.editLink p f).permit d = s.permit d := rfl
@[simp] theorem State.editLink_permitState (s : State) (p : Port) (f : Link → Link) (d : CraneId) : (s.editLink p f).permitState d = s.permitState d := rfl
@[simp] theorem State.editLink_bookingById (s : State) (p : Port) (f : Link → Link) (i : Nat) : (s.editLink p f).bookingById i = s.bookingById i := rfl
@[simp] theorem State.editLink_event (s : State) (p : Port) (f : Link → Link) (x : SiteEvent) : (s.editLink p f).event x = s.event x := rfl
@[simp] theorem State.editLink_footprint (s : State) (p : Port) (f : Link → Link) (y : ZoneId) (d : CraneId) : (s.editLink p f).footprint y d = s.footprint y d := rfl
@[simp] theorem State.editLink_holding (s : State) (p : Port) (f : Link → Link) (y : ZoneId) : (s.editLink p f).holding y = s.holding y := rfl
@[simp] theorem State.editLink_heldBy (s : State) (p : Port) (f : Link → Link) (y : ZoneId) (d : CraneId) : (s.editLink p f).heldBy y d = s.heldBy y d := rfl
@[simp] theorem State.editLink_occupies (s : State) (p : Port) (f : Link → Link) (d : CraneId) (y : ZoneId) : (s.editLink p f).occupies d y = s.occupies d y := rfl
@[simp] theorem State.editLink_otherOccupant (s : State) (p : Port) (f : Link → Link) (y : ZoneId) (d : CraneId) : (s.editLink p f).otherOccupant y d = s.otherOccupant y d := rfl
@[simp] theorem State.editLink_claimOf (s : State) (p : Port) (f : Link → Link) (y : ZoneId) (d : CraneId) : (s.editLink p f).claimOf y d = s.claimOf y d := rfl
@[simp] theorem State.editLink_hasClaim (s : State) (p : Port) (f : Link → Link) (y : ZoneId) (d : CraneId) : (s.editLink p f).hasClaim y d = s.hasClaim y d := rfl
@[simp] theorem State.editLink_claimZones (s : State) (p : Port) (f : Link → Link) (d : CraneId) : (s.editLink p f).claimZones d = s.claimZones d := rfl
@[simp] theorem State.editLink_heldZones (s : State) (p : Port) (f : Link → Link) (d : CraneId) : (s.editLink p f).heldZones d = s.heldZones d := rfl
@[simp] theorem State.editLink_baseLevel (s : State) (p : Port) (f : Link → Link) (d : CraneId) : (s.editLink p f).baseLevel d = s.baseLevel d := rfl
@[simp] theorem State.editLink_bookingLevel (s : State) (p : Port) (f : Link → Link) (d : CraneId) (y : ZoneId) : (s.editLink p f).bookingLevel d y = s.bookingLevel d y := rfl
@[simp] theorem State.editLink_allClaims (s : State) (p : Port) (f : Link → Link) : (s.editLink p f).allClaims = s.allClaims := rfl
@[simp] theorem State.editLink_countOf (s : State) (p : Port) (f : Link → Link) (d : CraneId) : (s.editLink p f).countOf d = s.countOf d := rfl
@[simp] theorem State.editLink_applyPending (s : State) (p : Port) (f : Link → Link) : (s.editLink p f).applyPending = s.applyPending := rfl
@[simp] theorem State.editLink_markedZones (s : State) (p : Port) (f : Link → Link) : (s.editLink p f).markedZones = s.markedZones := rfl
@[simp] theorem State.editLink_suspendedBooking (s : State) (p : Port) (f : Link → Link) (d : CraneId) : (s.editLink p f).suspendedBooking d = s.suspendedBooking d := rfl
@[simp] theorem State.editLink_openedForCrane (s : State) (p : Port) (f : Link → Link) (y : ZoneId) (d : CraneId) : (s.editLink p f).openedForCrane y d = s.openedForCrane y d := rfl
@[simp] theorem State.editLink_admitted (s : State) (p : Port) (f : Link → Link) (d : CraneId) (y : ZoneId) : (s.editLink p f).admitted d y = s.admitted d y := rfl
@[simp] theorem State.editLink_closing (s : State) (p : Port) (f : Link → Link) (y : ZoneId) : (s.editLink p f).closing y = s.closing y := rfl
@[simp] theorem State.editLink_levelFor (s : State) (p : Port) (f : Link → Link) (d : CraneId) (y : ZoneId) (em : Bool) : (s.editLink p f).levelFor d y em = s.levelFor d y em := rfl
@[simp] theorem State.editLink_grantable (s : State) (p : Port) (f : Link → Link) (d : CraneId) (y : ZoneId) : (s.editLink p f).grantable d y = s.grantable d y := rfl
@[simp] theorem State.editLink_grantableButMark (s : State) (p : Port) (f : Link → Link) (d : CraneId) (y : ZoneId) : (s.editLink p f).grantableButMark d y = s.grantableButMark d y := rfl
@[simp] theorem State.editLink_firstEligible (s : State) (p : Port) (f : Link → Link) (y : ZoneId) : (s.editLink p f).firstEligible y = s.firstEligible y := rfl

@[simp] theorem State.editBox_link (s : State) (c : CraneId) (f : NoticeBox → NoticeBox) (q : Port) : (s.editBox c f).link q = s.link q := rfl
@[simp] theorem State.editBox_line (s : State) (c : CraneId) (f : NoticeBox → NoticeBox) (m : ChannelId) : (s.editBox c f).line m = s.line m := rfl
@[simp] theorem State.editBox_channel (s : State) (c : CraneId) (f : NoticeBox → NoticeBox) (j : ChannelId) : (s.editBox c f).channel j = s.channel j := rfl
@[simp] theorem State.editBox_wind (s : State) (c : CraneId) (f : NoticeBox → NoticeBox) (d : CraneId) : (s.editBox c f).wind d = s.wind d := rfl
@[simp] theorem State.editBox_position (s : State) (c : CraneId) (f : NoticeBox → NoticeBox) (d : CraneId) : (s.editBox c f).position d = s.position d := rfl
@[simp] theorem State.editBox_zone (s : State) (c : CraneId) (f : NoticeBox → NoticeBox) (y : ZoneId) : (s.editBox c f).zone y = s.zone y := rfl
@[simp] theorem State.editBox_record (s : State) (c : CraneId) (f : NoticeBox → NoticeBox) (y : ZoneId) : (s.editBox c f).record y = s.record y := rfl
@[simp] theorem State.editBox_shadowRecord (s : State) (c : CraneId) (f : NoticeBox → NoticeBox) (y : ZoneId) : (s.editBox c f).shadowRecord y = s.shadowRecord y := rfl
@[simp] theorem State.editBox_permit (s : State) (c : CraneId) (f : NoticeBox → NoticeBox) (d : CraneId) : (s.editBox c f).permit d = s.permit d := rfl
@[simp] theorem State.editBox_permitState (s : State) (c : CraneId) (f : NoticeBox → NoticeBox) (d : CraneId) : (s.editBox c f).permitState d = s.permitState d := rfl
@[simp] theorem State.editBox_bookingById (s : State) (c : CraneId) (f : NoticeBox → NoticeBox) (i : Nat) : (s.editBox c f).bookingById i = s.bookingById i := rfl
@[simp] theorem State.editBox_event (s : State) (c : CraneId) (f : NoticeBox → NoticeBox) (x : SiteEvent) : (s.editBox c f).event x = s.event x := rfl
@[simp] theorem State.editBox_footprint (s : State) (c : CraneId) (f : NoticeBox → NoticeBox) (y : ZoneId) (d : CraneId) : (s.editBox c f).footprint y d = s.footprint y d := rfl
@[simp] theorem State.editBox_holding (s : State) (c : CraneId) (f : NoticeBox → NoticeBox) (y : ZoneId) : (s.editBox c f).holding y = s.holding y := rfl
@[simp] theorem State.editBox_heldBy (s : State) (c : CraneId) (f : NoticeBox → NoticeBox) (y : ZoneId) (d : CraneId) : (s.editBox c f).heldBy y d = s.heldBy y d := rfl
@[simp] theorem State.editBox_occupies (s : State) (c : CraneId) (f : NoticeBox → NoticeBox) (d : CraneId) (y : ZoneId) : (s.editBox c f).occupies d y = s.occupies d y := rfl
@[simp] theorem State.editBox_otherOccupant (s : State) (c : CraneId) (f : NoticeBox → NoticeBox) (y : ZoneId) (d : CraneId) : (s.editBox c f).otherOccupant y d = s.otherOccupant y d := rfl
@[simp] theorem State.editBox_claimOf (s : State) (c : CraneId) (f : NoticeBox → NoticeBox) (y : ZoneId) (d : CraneId) : (s.editBox c f).claimOf y d = s.claimOf y d := rfl
@[simp] theorem State.editBox_hasClaim (s : State) (c : CraneId) (f : NoticeBox → NoticeBox) (y : ZoneId) (d : CraneId) : (s.editBox c f).hasClaim y d = s.hasClaim y d := rfl
@[simp] theorem State.editBox_claimZones (s : State) (c : CraneId) (f : NoticeBox → NoticeBox) (d : CraneId) : (s.editBox c f).claimZones d = s.claimZones d := rfl
@[simp] theorem State.editBox_heldZones (s : State) (c : CraneId) (f : NoticeBox → NoticeBox) (d : CraneId) : (s.editBox c f).heldZones d = s.heldZones d := rfl
@[simp] theorem State.editBox_baseLevel (s : State) (c : CraneId) (f : NoticeBox → NoticeBox) (d : CraneId) : (s.editBox c f).baseLevel d = s.baseLevel d := rfl
@[simp] theorem State.editBox_bookingLevel (s : State) (c : CraneId) (f : NoticeBox → NoticeBox) (d : CraneId) (y : ZoneId) : (s.editBox c f).bookingLevel d y = s.bookingLevel d y := rfl
@[simp] theorem State.editBox_allClaims (s : State) (c : CraneId) (f : NoticeBox → NoticeBox) : (s.editBox c f).allClaims = s.allClaims := rfl
@[simp] theorem State.editBox_countOf (s : State) (c : CraneId) (f : NoticeBox → NoticeBox) (d : CraneId) : (s.editBox c f).countOf d = s.countOf d := rfl
@[simp] theorem State.editBox_applyPending (s : State) (c : CraneId) (f : NoticeBox → NoticeBox) : (s.editBox c f).applyPending = s.applyPending := rfl
@[simp] theorem State.editBox_markedZones (s : State) (c : CraneId) (f : NoticeBox → NoticeBox) : (s.editBox c f).markedZones = s.markedZones := rfl
@[simp] theorem State.editBox_suspendedBooking (s : State) (c : CraneId) (f : NoticeBox → NoticeBox) (d : CraneId) : (s.editBox c f).suspendedBooking d = s.suspendedBooking d := rfl
@[simp] theorem State.editBox_openedForCrane (s : State) (c : CraneId) (f : NoticeBox → NoticeBox) (y : ZoneId) (d : CraneId) : (s.editBox c f).openedForCrane y d = s.openedForCrane y d := rfl
@[simp] theorem State.editBox_admitted (s : State) (c : CraneId) (f : NoticeBox → NoticeBox) (d : CraneId) (y : ZoneId) : (s.editBox c f).admitted d y = s.admitted d y := rfl
@[simp] theorem State.editBox_closing (s : State) (c : CraneId) (f : NoticeBox → NoticeBox) (y : ZoneId) : (s.editBox c f).closing y = s.closing y := rfl
@[simp] theorem State.editBox_levelFor (s : State) (c : CraneId) (f : NoticeBox → NoticeBox) (d : CraneId) (y : ZoneId) (em : Bool) : (s.editBox c f).levelFor d y em = s.levelFor d y em := rfl
@[simp] theorem State.editBox_grantable (s : State) (c : CraneId) (f : NoticeBox → NoticeBox) (d : CraneId) (y : ZoneId) : (s.editBox c f).grantable d y = s.grantable d y := rfl
@[simp] theorem State.editBox_grantableButMark (s : State) (c : CraneId) (f : NoticeBox → NoticeBox) (d : CraneId) (y : ZoneId) : (s.editBox c f).grantableButMark d y = s.grantableButMark d y := rfl
@[simp] theorem State.editBox_firstEligible (s : State) (c : CraneId) (f : NoticeBox → NoticeBox) (y : ZoneId) : (s.editBox c f).firstEligible y = s.firstEligible y := rfl

@[simp] theorem State.setLine_link (s : State) (l : ChannelId) (r : Receiver) (q : Port) : (s.setLine l r).link q = s.link q := rfl
@[simp] theorem State.setLine_box (s : State) (l : ChannelId) (r : Receiver) (d : CraneId) : (s.setLine l r).box d = s.box d := rfl
@[simp] theorem State.setLine_channel (s : State) (l : ChannelId) (r : Receiver) (j : ChannelId) : (s.setLine l r).channel j = s.channel j := rfl
@[simp] theorem State.setLine_wind (s : State) (l : ChannelId) (r : Receiver) (d : CraneId) : (s.setLine l r).wind d = s.wind d := rfl
@[simp] theorem State.setLine_position (s : State) (l : ChannelId) (r : Receiver) (d : CraneId) : (s.setLine l r).position d = s.position d := rfl
@[simp] theorem State.setLine_zone (s : State) (l : ChannelId) (r : Receiver) (y : ZoneId) : (s.setLine l r).zone y = s.zone y := rfl
@[simp] theorem State.setLine_record (s : State) (l : ChannelId) (r : Receiver) (y : ZoneId) : (s.setLine l r).record y = s.record y := rfl
@[simp] theorem State.setLine_shadowRecord (s : State) (l : ChannelId) (r : Receiver) (y : ZoneId) : (s.setLine l r).shadowRecord y = s.shadowRecord y := rfl
@[simp] theorem State.setLine_permit (s : State) (l : ChannelId) (r : Receiver) (d : CraneId) : (s.setLine l r).permit d = s.permit d := rfl
@[simp] theorem State.setLine_permitState (s : State) (l : ChannelId) (r : Receiver) (d : CraneId) : (s.setLine l r).permitState d = s.permitState d := rfl
@[simp] theorem State.setLine_bookingById (s : State) (l : ChannelId) (r : Receiver) (i : Nat) : (s.setLine l r).bookingById i = s.bookingById i := rfl
@[simp] theorem State.setLine_event (s : State) (l : ChannelId) (r : Receiver) (x : SiteEvent) : (s.setLine l r).event x = s.event x := rfl
@[simp] theorem State.setLine_footprint (s : State) (l : ChannelId) (r : Receiver) (y : ZoneId) (d : CraneId) : (s.setLine l r).footprint y d = s.footprint y d := rfl
@[simp] theorem State.setLine_holding (s : State) (l : ChannelId) (r : Receiver) (y : ZoneId) : (s.setLine l r).holding y = s.holding y := rfl
@[simp] theorem State.setLine_heldBy (s : State) (l : ChannelId) (r : Receiver) (y : ZoneId) (d : CraneId) : (s.setLine l r).heldBy y d = s.heldBy y d := rfl
@[simp] theorem State.setLine_occupies (s : State) (l : ChannelId) (r : Receiver) (d : CraneId) (y : ZoneId) : (s.setLine l r).occupies d y = s.occupies d y := rfl
@[simp] theorem State.setLine_otherOccupant (s : State) (l : ChannelId) (r : Receiver) (y : ZoneId) (d : CraneId) : (s.setLine l r).otherOccupant y d = s.otherOccupant y d := rfl
@[simp] theorem State.setLine_claimOf (s : State) (l : ChannelId) (r : Receiver) (y : ZoneId) (d : CraneId) : (s.setLine l r).claimOf y d = s.claimOf y d := rfl
@[simp] theorem State.setLine_hasClaim (s : State) (l : ChannelId) (r : Receiver) (y : ZoneId) (d : CraneId) : (s.setLine l r).hasClaim y d = s.hasClaim y d := rfl
@[simp] theorem State.setLine_claimZones (s : State) (l : ChannelId) (r : Receiver) (d : CraneId) : (s.setLine l r).claimZones d = s.claimZones d := rfl
@[simp] theorem State.setLine_heldZones (s : State) (l : ChannelId) (r : Receiver) (d : CraneId) : (s.setLine l r).heldZones d = s.heldZones d := rfl
@[simp] theorem State.setLine_baseLevel (s : State) (l : ChannelId) (r : Receiver) (d : CraneId) : (s.setLine l r).baseLevel d = s.baseLevel d := rfl
@[simp] theorem State.setLine_bookingLevel (s : State) (l : ChannelId) (r : Receiver) (d : CraneId) (y : ZoneId) : (s.setLine l r).bookingLevel d y = s.bookingLevel d y := rfl
@[simp] theorem State.setLine_allClaims (s : State) (l : ChannelId) (r : Receiver) : (s.setLine l r).allClaims = s.allClaims := rfl
@[simp] theorem State.setLine_countOf (s : State) (l : ChannelId) (r : Receiver) (d : CraneId) : (s.setLine l r).countOf d = s.countOf d := rfl
@[simp] theorem State.setLine_applyPending (s : State) (l : ChannelId) (r : Receiver) : (s.setLine l r).applyPending = s.applyPending := rfl
@[simp] theorem State.setLine_markedZones (s : State) (l : ChannelId) (r : Receiver) : (s.setLine l r).markedZones = s.markedZones := rfl
@[simp] theorem State.setLine_suspendedBooking (s : State) (l : ChannelId) (r : Receiver) (d : CraneId) : (s.setLine l r).suspendedBooking d = s.suspendedBooking d := rfl
@[simp] theorem State.setLine_openedForCrane (s : State) (l : ChannelId) (r : Receiver) (y : ZoneId) (d : CraneId) : (s.setLine l r).openedForCrane y d = s.openedForCrane y d := rfl
@[simp] theorem State.setLine_admitted (s : State) (l : ChannelId) (r : Receiver) (d : CraneId) (y : ZoneId) : (s.setLine l r).admitted d y = s.admitted d y := rfl
@[simp] theorem State.setLine_closing (s : State) (l : ChannelId) (r : Receiver) (y : ZoneId) : (s.setLine l r).closing y = s.closing y := rfl
@[simp] theorem State.setLine_levelFor (s : State) (l : ChannelId) (r : Receiver) (d : CraneId) (y : ZoneId) (em : Bool) : (s.setLine l r).levelFor d y em = s.levelFor d y em := rfl
@[simp] theorem State.setLine_grantable (s : State) (l : ChannelId) (r : Receiver) (d : CraneId) (y : ZoneId) : (s.setLine l r).grantable d y = s.grantable d y := rfl
@[simp] theorem State.setLine_grantableButMark (s : State) (l : ChannelId) (r : Receiver) (d : CraneId) (y : ZoneId) : (s.setLine l r).grantableButMark d y = s.grantableButMark d y := rfl
@[simp] theorem State.setLine_firstEligible (s : State) (l : ChannelId) (r : Receiver) (y : ZoneId) : (s.setLine l r).firstEligible y = s.firstEligible y := rfl

@[simp] theorem State.editChannel_link (s : State) (k : ChannelId) (f : Channel → Channel) (q : Port) : (s.editChannel k f).link q = s.link q := rfl
@[simp] theorem State.editChannel_box (s : State) (k : ChannelId) (f : Channel → Channel) (d : CraneId) : (s.editChannel k f).box d = s.box d := rfl
@[simp] theorem State.editChannel_line (s : State) (k : ChannelId) (f : Channel → Channel) (m : ChannelId) : (s.editChannel k f).line m = s.line m := rfl
@[simp] theorem State.editChannel_wind (s : State) (k : ChannelId) (f : Channel → Channel) (d : CraneId) : (s.editChannel k f).wind d = s.wind d := rfl
@[simp] theorem State.editChannel_position (s : State) (k : ChannelId) (f : Channel → Channel) (d : CraneId) : (s.editChannel k f).position d = s.position d := rfl
@[simp] theorem State.editChannel_zone (s : State) (k : ChannelId) (f : Channel → Channel) (y : ZoneId) : (s.editChannel k f).zone y = s.zone y := rfl
@[simp] theorem State.editChannel_record (s : State) (k : ChannelId) (f : Channel → Channel) (y : ZoneId) : (s.editChannel k f).record y = s.record y := rfl
@[simp] theorem State.editChannel_shadowRecord (s : State) (k : ChannelId) (f : Channel → Channel) (y : ZoneId) : (s.editChannel k f).shadowRecord y = s.shadowRecord y := rfl
@[simp] theorem State.editChannel_permit (s : State) (k : ChannelId) (f : Channel → Channel) (d : CraneId) : (s.editChannel k f).permit d = s.permit d := rfl
@[simp] theorem State.editChannel_permitState (s : State) (k : ChannelId) (f : Channel → Channel) (d : CraneId) : (s.editChannel k f).permitState d = s.permitState d := rfl
@[simp] theorem State.editChannel_bookingById (s : State) (k : ChannelId) (f : Channel → Channel) (i : Nat) : (s.editChannel k f).bookingById i = s.bookingById i := rfl
@[simp] theorem State.editChannel_event (s : State) (k : ChannelId) (f : Channel → Channel) (x : SiteEvent) : (s.editChannel k f).event x = s.event x := rfl
@[simp] theorem State.editChannel_footprint (s : State) (k : ChannelId) (f : Channel → Channel) (y : ZoneId) (d : CraneId) : (s.editChannel k f).footprint y d = s.footprint y d := rfl
@[simp] theorem State.editChannel_holding (s : State) (k : ChannelId) (f : Channel → Channel) (y : ZoneId) : (s.editChannel k f).holding y = s.holding y := rfl
@[simp] theorem State.editChannel_heldBy (s : State) (k : ChannelId) (f : Channel → Channel) (y : ZoneId) (d : CraneId) : (s.editChannel k f).heldBy y d = s.heldBy y d := rfl
@[simp] theorem State.editChannel_occupies (s : State) (k : ChannelId) (f : Channel → Channel) (d : CraneId) (y : ZoneId) : (s.editChannel k f).occupies d y = s.occupies d y := rfl
@[simp] theorem State.editChannel_otherOccupant (s : State) (k : ChannelId) (f : Channel → Channel) (y : ZoneId) (d : CraneId) : (s.editChannel k f).otherOccupant y d = s.otherOccupant y d := rfl
@[simp] theorem State.editChannel_claimOf (s : State) (k : ChannelId) (f : Channel → Channel) (y : ZoneId) (d : CraneId) : (s.editChannel k f).claimOf y d = s.claimOf y d := rfl
@[simp] theorem State.editChannel_hasClaim (s : State) (k : ChannelId) (f : Channel → Channel) (y : ZoneId) (d : CraneId) : (s.editChannel k f).hasClaim y d = s.hasClaim y d := rfl
@[simp] theorem State.editChannel_claimZones (s : State) (k : ChannelId) (f : Channel → Channel) (d : CraneId) : (s.editChannel k f).claimZones d = s.claimZones d := rfl
@[simp] theorem State.editChannel_heldZones (s : State) (k : ChannelId) (f : Channel → Channel) (d : CraneId) : (s.editChannel k f).heldZones d = s.heldZones d := rfl
@[simp] theorem State.editChannel_baseLevel (s : State) (k : ChannelId) (f : Channel → Channel) (d : CraneId) : (s.editChannel k f).baseLevel d = s.baseLevel d := rfl
@[simp] theorem State.editChannel_bookingLevel (s : State) (k : ChannelId) (f : Channel → Channel) (d : CraneId) (y : ZoneId) : (s.editChannel k f).bookingLevel d y = s.bookingLevel d y := rfl
@[simp] theorem State.editChannel_allClaims (s : State) (k : ChannelId) (f : Channel → Channel) : (s.editChannel k f).allClaims = s.allClaims := rfl
@[simp] theorem State.editChannel_countOf (s : State) (k : ChannelId) (f : Channel → Channel) (d : CraneId) : (s.editChannel k f).countOf d = s.countOf d := rfl
@[simp] theorem State.editChannel_applyPending (s : State) (k : ChannelId) (f : Channel → Channel) : (s.editChannel k f).applyPending = s.applyPending := rfl
@[simp] theorem State.editChannel_markedZones (s : State) (k : ChannelId) (f : Channel → Channel) : (s.editChannel k f).markedZones = s.markedZones := rfl
@[simp] theorem State.editChannel_suspendedBooking (s : State) (k : ChannelId) (f : Channel → Channel) (d : CraneId) : (s.editChannel k f).suspendedBooking d = s.suspendedBooking d := rfl
@[simp] theorem State.editChannel_openedForCrane (s : State) (k : ChannelId) (f : Channel → Channel) (y : ZoneId) (d : CraneId) : (s.editChannel k f).openedForCrane y d = s.openedForCrane y d := rfl
@[simp] theorem State.editChannel_admitted (s : State) (k : ChannelId) (f : Channel → Channel) (d : CraneId) (y : ZoneId) : (s.editChannel k f).admitted d y = s.admitted d y := rfl
@[simp] theorem State.editChannel_closing (s : State) (k : ChannelId) (f : Channel → Channel) (y : ZoneId) : (s.editChannel k f).closing y = s.closing y := rfl
@[simp] theorem State.editChannel_levelFor (s : State) (k : ChannelId) (f : Channel → Channel) (d : CraneId) (y : ZoneId) (em : Bool) : (s.editChannel k f).levelFor d y em = s.levelFor d y em := rfl
@[simp] theorem State.editChannel_grantable (s : State) (k : ChannelId) (f : Channel → Channel) (d : CraneId) (y : ZoneId) : (s.editChannel k f).grantable d y = s.grantable d y := rfl
@[simp] theorem State.editChannel_grantableButMark (s : State) (k : ChannelId) (f : Channel → Channel) (d : CraneId) (y : ZoneId) : (s.editChannel k f).grantableButMark d y = s.grantableButMark d y := rfl
@[simp] theorem State.editChannel_firstEligible (s : State) (k : ChannelId) (f : Channel → Channel) (y : ZoneId) : (s.editChannel k f).firstEligible y = s.firstEligible y := rfl

@[simp] theorem State.editWind_link (s : State) (c : CraneId) (f : Wind → Wind) (q : Port) : (s.editWind c f).link q = s.link q := rfl
@[simp] theorem State.editWind_box (s : State) (c : CraneId) (f : Wind → Wind) (d : CraneId) : (s.editWind c f).box d = s.box d := rfl
@[simp] theorem State.editWind_line (s : State) (c : CraneId) (f : Wind → Wind) (m : ChannelId) : (s.editWind c f).line m = s.line m := rfl
@[simp] theorem State.editWind_channel (s : State) (c : CraneId) (f : Wind → Wind) (j : ChannelId) : (s.editWind c f).channel j = s.channel j := rfl
@[simp] theorem State.editWind_position (s : State) (c : CraneId) (f : Wind → Wind) (d : CraneId) : (s.editWind c f).position d = s.position d := rfl
@[simp] theorem State.editWind_zone (s : State) (c : CraneId) (f : Wind → Wind) (y : ZoneId) : (s.editWind c f).zone y = s.zone y := rfl
@[simp] theorem State.editWind_record (s : State) (c : CraneId) (f : Wind → Wind) (y : ZoneId) : (s.editWind c f).record y = s.record y := rfl
@[simp] theorem State.editWind_shadowRecord (s : State) (c : CraneId) (f : Wind → Wind) (y : ZoneId) : (s.editWind c f).shadowRecord y = s.shadowRecord y := rfl
@[simp] theorem State.editWind_permit (s : State) (c : CraneId) (f : Wind → Wind) (d : CraneId) : (s.editWind c f).permit d = s.permit d := rfl
@[simp] theorem State.editWind_permitState (s : State) (c : CraneId) (f : Wind → Wind) (d : CraneId) : (s.editWind c f).permitState d = s.permitState d := rfl
@[simp] theorem State.editWind_bookingById (s : State) (c : CraneId) (f : Wind → Wind) (i : Nat) : (s.editWind c f).bookingById i = s.bookingById i := rfl
@[simp] theorem State.editWind_event (s : State) (c : CraneId) (f : Wind → Wind) (x : SiteEvent) : (s.editWind c f).event x = s.event x := rfl
@[simp] theorem State.editWind_footprint (s : State) (c : CraneId) (f : Wind → Wind) (y : ZoneId) (d : CraneId) : (s.editWind c f).footprint y d = s.footprint y d := rfl
@[simp] theorem State.editWind_holding (s : State) (c : CraneId) (f : Wind → Wind) (y : ZoneId) : (s.editWind c f).holding y = s.holding y := rfl
@[simp] theorem State.editWind_heldBy (s : State) (c : CraneId) (f : Wind → Wind) (y : ZoneId) (d : CraneId) : (s.editWind c f).heldBy y d = s.heldBy y d := rfl
@[simp] theorem State.editWind_occupies (s : State) (c : CraneId) (f : Wind → Wind) (d : CraneId) (y : ZoneId) : (s.editWind c f).occupies d y = s.occupies d y := rfl
@[simp] theorem State.editWind_otherOccupant (s : State) (c : CraneId) (f : Wind → Wind) (y : ZoneId) (d : CraneId) : (s.editWind c f).otherOccupant y d = s.otherOccupant y d := rfl
@[simp] theorem State.editWind_claimOf (s : State) (c : CraneId) (f : Wind → Wind) (y : ZoneId) (d : CraneId) : (s.editWind c f).claimOf y d = s.claimOf y d := rfl
@[simp] theorem State.editWind_hasClaim (s : State) (c : CraneId) (f : Wind → Wind) (y : ZoneId) (d : CraneId) : (s.editWind c f).hasClaim y d = s.hasClaim y d := rfl
@[simp] theorem State.editWind_claimZones (s : State) (c : CraneId) (f : Wind → Wind) (d : CraneId) : (s.editWind c f).claimZones d = s.claimZones d := rfl
@[simp] theorem State.editWind_heldZones (s : State) (c : CraneId) (f : Wind → Wind) (d : CraneId) : (s.editWind c f).heldZones d = s.heldZones d := rfl
@[simp] theorem State.editWind_baseLevel (s : State) (c : CraneId) (f : Wind → Wind) (d : CraneId) : (s.editWind c f).baseLevel d = s.baseLevel d := rfl
@[simp] theorem State.editWind_bookingLevel (s : State) (c : CraneId) (f : Wind → Wind) (d : CraneId) (y : ZoneId) : (s.editWind c f).bookingLevel d y = s.bookingLevel d y := rfl
@[simp] theorem State.editWind_allClaims (s : State) (c : CraneId) (f : Wind → Wind) : (s.editWind c f).allClaims = s.allClaims := rfl
@[simp] theorem State.editWind_countOf (s : State) (c : CraneId) (f : Wind → Wind) (d : CraneId) : (s.editWind c f).countOf d = s.countOf d := rfl
@[simp] theorem State.editWind_applyPending (s : State) (c : CraneId) (f : Wind → Wind) : (s.editWind c f).applyPending = s.applyPending := rfl
@[simp] theorem State.editWind_markedZones (s : State) (c : CraneId) (f : Wind → Wind) : (s.editWind c f).markedZones = s.markedZones := rfl
@[simp] theorem State.editWind_suspendedBooking (s : State) (c : CraneId) (f : Wind → Wind) (d : CraneId) : (s.editWind c f).suspendedBooking d = s.suspendedBooking d := rfl
@[simp] theorem State.editWind_openedForCrane (s : State) (c : CraneId) (f : Wind → Wind) (y : ZoneId) (d : CraneId) : (s.editWind c f).openedForCrane y d = s.openedForCrane y d := rfl
@[simp] theorem State.editWind_admitted (s : State) (c : CraneId) (f : Wind → Wind) (d : CraneId) (y : ZoneId) : (s.editWind c f).admitted d y = s.admitted d y := rfl
@[simp] theorem State.editWind_closing (s : State) (c : CraneId) (f : Wind → Wind) (y : ZoneId) : (s.editWind c f).closing y = s.closing y := rfl
@[simp] theorem State.editWind_levelFor (s : State) (c : CraneId) (f : Wind → Wind) (d : CraneId) (y : ZoneId) (em : Bool) : (s.editWind c f).levelFor d y em = s.levelFor d y em := rfl
@[simp] theorem State.editWind_grantable (s : State) (c : CraneId) (f : Wind → Wind) (d : CraneId) (y : ZoneId) : (s.editWind c f).grantable d y = s.grantable d y := rfl
@[simp] theorem State.editWind_grantableButMark (s : State) (c : CraneId) (f : Wind → Wind) (d : CraneId) (y : ZoneId) : (s.editWind c f).grantableButMark d y = s.grantableButMark d y := rfl
@[simp] theorem State.editWind_firstEligible (s : State) (c : CraneId) (f : Wind → Wind) (y : ZoneId) : (s.editWind c f).firstEligible y = s.firstEligible y := rfl

@[simp] theorem State.editPosition_link (s : State) (c : CraneId) (f : Position → Position) (q : Port) : (s.editPosition c f).link q = s.link q := rfl
@[simp] theorem State.editPosition_box (s : State) (c : CraneId) (f : Position → Position) (d : CraneId) : (s.editPosition c f).box d = s.box d := rfl
@[simp] theorem State.editPosition_line (s : State) (c : CraneId) (f : Position → Position) (m : ChannelId) : (s.editPosition c f).line m = s.line m := rfl
@[simp] theorem State.editPosition_channel (s : State) (c : CraneId) (f : Position → Position) (j : ChannelId) : (s.editPosition c f).channel j = s.channel j := rfl
@[simp] theorem State.editPosition_wind (s : State) (c : CraneId) (f : Position → Position) (d : CraneId) : (s.editPosition c f).wind d = s.wind d := rfl
@[simp] theorem State.editPosition_zone (s : State) (c : CraneId) (f : Position → Position) (y : ZoneId) : (s.editPosition c f).zone y = s.zone y := rfl
@[simp] theorem State.editPosition_record (s : State) (c : CraneId) (f : Position → Position) (y : ZoneId) : (s.editPosition c f).record y = s.record y := rfl
@[simp] theorem State.editPosition_shadowRecord (s : State) (c : CraneId) (f : Position → Position) (y : ZoneId) : (s.editPosition c f).shadowRecord y = s.shadowRecord y := rfl
@[simp] theorem State.editPosition_permit (s : State) (c : CraneId) (f : Position → Position) (d : CraneId) : (s.editPosition c f).permit d = s.permit d := rfl
@[simp] theorem State.editPosition_permitState (s : State) (c : CraneId) (f : Position → Position) (d : CraneId) : (s.editPosition c f).permitState d = s.permitState d := rfl
@[simp] theorem State.editPosition_bookingById (s : State) (c : CraneId) (f : Position → Position) (i : Nat) : (s.editPosition c f).bookingById i = s.bookingById i := rfl
@[simp] theorem State.editPosition_event (s : State) (c : CraneId) (f : Position → Position) (x : SiteEvent) : (s.editPosition c f).event x = s.event x := rfl
@[simp] theorem State.editPosition_footprint (s : State) (c : CraneId) (f : Position → Position) (y : ZoneId) (d : CraneId) : (s.editPosition c f).footprint y d = s.footprint y d := rfl
@[simp] theorem State.editPosition_holding (s : State) (c : CraneId) (f : Position → Position) (y : ZoneId) : (s.editPosition c f).holding y = s.holding y := rfl
@[simp] theorem State.editPosition_heldBy (s : State) (c : CraneId) (f : Position → Position) (y : ZoneId) (d : CraneId) : (s.editPosition c f).heldBy y d = s.heldBy y d := rfl
@[simp] theorem State.editPosition_claimOf (s : State) (c : CraneId) (f : Position → Position) (y : ZoneId) (d : CraneId) : (s.editPosition c f).claimOf y d = s.claimOf y d := rfl
@[simp] theorem State.editPosition_hasClaim (s : State) (c : CraneId) (f : Position → Position) (y : ZoneId) (d : CraneId) : (s.editPosition c f).hasClaim y d = s.hasClaim y d := rfl
@[simp] theorem State.editPosition_claimZones (s : State) (c : CraneId) (f : Position → Position) (d : CraneId) : (s.editPosition c f).claimZones d = s.claimZones d := rfl
@[simp] theorem State.editPosition_heldZones (s : State) (c : CraneId) (f : Position → Position) (d : CraneId) : (s.editPosition c f).heldZones d = s.heldZones d := rfl
@[simp] theorem State.editPosition_baseLevel (s : State) (c : CraneId) (f : Position → Position) (d : CraneId) : (s.editPosition c f).baseLevel d = s.baseLevel d := rfl
@[simp] theorem State.editPosition_bookingLevel (s : State) (c : CraneId) (f : Position → Position) (d : CraneId) (y : ZoneId) : (s.editPosition c f).bookingLevel d y = s.bookingLevel d y := rfl
@[simp] theorem State.editPosition_allClaims (s : State) (c : CraneId) (f : Position → Position) : (s.editPosition c f).allClaims = s.allClaims := rfl
@[simp] theorem State.editPosition_countOf (s : State) (c : CraneId) (f : Position → Position) (d : CraneId) : (s.editPosition c f).countOf d = s.countOf d := rfl
@[simp] theorem State.editPosition_applyPending (s : State) (c : CraneId) (f : Position → Position) : (s.editPosition c f).applyPending = s.applyPending := rfl
@[simp] theorem State.editPosition_markedZones (s : State) (c : CraneId) (f : Position → Position) : (s.editPosition c f).markedZones = s.markedZones := rfl
@[simp] theorem State.editPosition_suspendedBooking (s : State) (c : CraneId) (f : Position → Position) (d : CraneId) : (s.editPosition c f).suspendedBooking d = s.suspendedBooking d := rfl
@[simp] theorem State.editPosition_openedForCrane (s : State) (c : CraneId) (f : Position → Position) (y : ZoneId) (d : CraneId) : (s.editPosition c f).openedForCrane y d = s.openedForCrane y d := rfl
@[simp] theorem State.editPosition_admitted (s : State) (c : CraneId) (f : Position → Position) (d : CraneId) (y : ZoneId) : (s.editPosition c f).admitted d y = s.admitted d y := rfl
@[simp] theorem State.editPosition_closing (s : State) (c : CraneId) (f : Position → Position) (y : ZoneId) : (s.editPosition c f).closing y = s.closing y := rfl
@[simp] theorem State.editPosition_levelFor (s : State) (c : CraneId) (f : Position → Position) (d : CraneId) (y : ZoneId) (em : Bool) : (s.editPosition c f).levelFor d y em = s.levelFor d y em := rfl

@[simp] theorem State.editZone_link (s : State) (z : ZoneId) (f : ZoneDyn → ZoneDyn) (q : Port) : (s.editZone z f).link q = s.link q := rfl
@[simp] theorem State.editZone_box (s : State) (z : ZoneId) (f : ZoneDyn → ZoneDyn) (d : CraneId) : (s.editZone z f).box d = s.box d := rfl
@[simp] theorem State.editZone_line (s : State) (z : ZoneId) (f : ZoneDyn → ZoneDyn) (m : ChannelId) : (s.editZone z f).line m = s.line m := rfl
@[simp] theorem State.editZone_channel (s : State) (z : ZoneId) (f : ZoneDyn → ZoneDyn) (j : ChannelId) : (s.editZone z f).channel j = s.channel j := rfl
@[simp] theorem State.editZone_wind (s : State) (z : ZoneId) (f : ZoneDyn → ZoneDyn) (d : CraneId) : (s.editZone z f).wind d = s.wind d := rfl
@[simp] theorem State.editZone_position (s : State) (z : ZoneId) (f : ZoneDyn → ZoneDyn) (d : CraneId) : (s.editZone z f).position d = s.position d := rfl
@[simp] theorem State.editZone_record (s : State) (z : ZoneId) (f : ZoneDyn → ZoneDyn) (y : ZoneId) : (s.editZone z f).record y = s.record y := rfl
@[simp] theorem State.editZone_shadowRecord (s : State) (z : ZoneId) (f : ZoneDyn → ZoneDyn) (y : ZoneId) : (s.editZone z f).shadowRecord y = s.shadowRecord y := rfl
@[simp] theorem State.editZone_permit (s : State) (z : ZoneId) (f : ZoneDyn → ZoneDyn) (d : CraneId) : (s.editZone z f).permit d = s.permit d := rfl
@[simp] theorem State.editZone_permitState (s : State) (z : ZoneId) (f : ZoneDyn → ZoneDyn) (d : CraneId) : (s.editZone z f).permitState d = s.permitState d := rfl
@[simp] theorem State.editZone_bookingById (s : State) (z : ZoneId) (f : ZoneDyn → ZoneDyn) (i : Nat) : (s.editZone z f).bookingById i = s.bookingById i := rfl
@[simp] theorem State.editZone_event (s : State) (z : ZoneId) (f : ZoneDyn → ZoneDyn) (x : SiteEvent) : (s.editZone z f).event x = s.event x := rfl
@[simp] theorem State.editZone_footprint (s : State) (z : ZoneId) (f : ZoneDyn → ZoneDyn) (y : ZoneId) (d : CraneId) : (s.editZone z f).footprint y d = s.footprint y d := rfl
@[simp] theorem State.editZone_occupies (s : State) (z : ZoneId) (f : ZoneDyn → ZoneDyn) (d : CraneId) (y : ZoneId) : (s.editZone z f).occupies d y = s.occupies d y := rfl
@[simp] theorem State.editZone_otherOccupant (s : State) (z : ZoneId) (f : ZoneDyn → ZoneDyn) (y : ZoneId) (d : CraneId) : (s.editZone z f).otherOccupant y d = s.otherOccupant y d := rfl
@[simp] theorem State.editZone_baseLevel (s : State) (z : ZoneId) (f : ZoneDyn → ZoneDyn) (d : CraneId) : (s.editZone z f).baseLevel d = s.baseLevel d := rfl
@[simp] theorem State.editZone_bookingLevel (s : State) (z : ZoneId) (f : ZoneDyn → ZoneDyn) (d : CraneId) (y : ZoneId) : (s.editZone z f).bookingLevel d y = s.bookingLevel d y := rfl
@[simp] theorem State.editZone_suspendedBooking (s : State) (z : ZoneId) (f : ZoneDyn → ZoneDyn) (d : CraneId) : (s.editZone z f).suspendedBooking d = s.suspendedBooking d := rfl
@[simp] theorem State.editZone_levelFor (s : State) (z : ZoneId) (f : ZoneDyn → ZoneDyn) (d : CraneId) (y : ZoneId) (em : Bool) : (s.editZone z f).levelFor d y em = s.levelFor d y em := rfl

@[simp] theorem State.editPermit_link (s : State) (c : CraneId) (f : Permit → Permit) (q : Port) : (s.editPermit c f).link q = s.link q := rfl
@[simp] theorem State.editPermit_box (s : State) (c : CraneId) (f : Permit → Permit) (d : CraneId) : (s.editPermit c f).box d = s.box d := rfl
@[simp] theorem State.editPermit_line (s : State) (c : CraneId) (f : Permit → Permit) (m : ChannelId) : (s.editPermit c f).line m = s.line m := rfl
@[simp] theorem State.editPermit_channel (s : State) (c : CraneId) (f : Permit → Permit) (j : ChannelId) : (s.editPermit c f).channel j = s.channel j := rfl
@[simp] theorem State.editPermit_wind (s : State) (c : CraneId) (f : Permit → Permit) (d : CraneId) : (s.editPermit c f).wind d = s.wind d := rfl
@[simp] theorem State.editPermit_position (s : State) (c : CraneId) (f : Permit → Permit) (d : CraneId) : (s.editPermit c f).position d = s.position d := rfl
@[simp] theorem State.editPermit_zone (s : State) (c : CraneId) (f : Permit → Permit) (y : ZoneId) : (s.editPermit c f).zone y = s.zone y := rfl
@[simp] theorem State.editPermit_record (s : State) (c : CraneId) (f : Permit → Permit) (y : ZoneId) : (s.editPermit c f).record y = s.record y := rfl
@[simp] theorem State.editPermit_shadowRecord (s : State) (c : CraneId) (f : Permit → Permit) (y : ZoneId) : (s.editPermit c f).shadowRecord y = s.shadowRecord y := rfl
@[simp] theorem State.editPermit_bookingById (s : State) (c : CraneId) (f : Permit → Permit) (i : Nat) : (s.editPermit c f).bookingById i = s.bookingById i := rfl
@[simp] theorem State.editPermit_event (s : State) (c : CraneId) (f : Permit → Permit) (x : SiteEvent) : (s.editPermit c f).event x = s.event x := rfl
@[simp] theorem State.editPermit_footprint (s : State) (c : CraneId) (f : Permit → Permit) (y : ZoneId) (d : CraneId) : (s.editPermit c f).footprint y d = s.footprint y d := rfl
@[simp] theorem State.editPermit_holding (s : State) (c : CraneId) (f : Permit → Permit) (y : ZoneId) : (s.editPermit c f).holding y = s.holding y := rfl
@[simp] theorem State.editPermit_heldBy (s : State) (c : CraneId) (f : Permit → Permit) (y : ZoneId) (d : CraneId) : (s.editPermit c f).heldBy y d = s.heldBy y d := rfl
@[simp] theorem State.editPermit_occupies (s : State) (c : CraneId) (f : Permit → Permit) (d : CraneId) (y : ZoneId) : (s.editPermit c f).occupies d y = s.occupies d y := rfl
@[simp] theorem State.editPermit_otherOccupant (s : State) (c : CraneId) (f : Permit → Permit) (y : ZoneId) (d : CraneId) : (s.editPermit c f).otherOccupant y d = s.otherOccupant y d := rfl
@[simp] theorem State.editPermit_claimOf (s : State) (c : CraneId) (f : Permit → Permit) (y : ZoneId) (d : CraneId) : (s.editPermit c f).claimOf y d = s.claimOf y d := rfl
@[simp] theorem State.editPermit_hasClaim (s : State) (c : CraneId) (f : Permit → Permit) (y : ZoneId) (d : CraneId) : (s.editPermit c f).hasClaim y d = s.hasClaim y d := rfl
@[simp] theorem State.editPermit_claimZones (s : State) (c : CraneId) (f : Permit → Permit) (d : CraneId) : (s.editPermit c f).claimZones d = s.claimZones d := rfl
@[simp] theorem State.editPermit_heldZones (s : State) (c : CraneId) (f : Permit → Permit) (d : CraneId) : (s.editPermit c f).heldZones d = s.heldZones d := rfl
@[simp] theorem State.editPermit_bookingLevel (s : State) (c : CraneId) (f : Permit → Permit) (d : CraneId) (y : ZoneId) : (s.editPermit c f).bookingLevel d y = s.bookingLevel d y := rfl
@[simp] theorem State.editPermit_allClaims (s : State) (c : CraneId) (f : Permit → Permit) : (s.editPermit c f).allClaims = s.allClaims := rfl
@[simp] theorem State.editPermit_countOf (s : State) (c : CraneId) (f : Permit → Permit) (d : CraneId) : (s.editPermit c f).countOf d = s.countOf d := rfl
@[simp] theorem State.editPermit_applyPending (s : State) (c : CraneId) (f : Permit → Permit) : (s.editPermit c f).applyPending = s.applyPending := rfl
@[simp] theorem State.editPermit_markedZones (s : State) (c : CraneId) (f : Permit → Permit) : (s.editPermit c f).markedZones = s.markedZones := rfl
@[simp] theorem State.editPermit_suspendedBooking (s : State) (c : CraneId) (f : Permit → Permit) (d : CraneId) : (s.editPermit c f).suspendedBooking d = s.suspendedBooking d := rfl
@[simp] theorem State.editPermit_openedForCrane (s : State) (c : CraneId) (f : Permit → Permit) (y : ZoneId) (d : CraneId) : (s.editPermit c f).openedForCrane y d = s.openedForCrane y d := rfl
@[simp] theorem State.editPermit_admitted (s : State) (c : CraneId) (f : Permit → Permit) (d : CraneId) (y : ZoneId) : (s.editPermit c f).admitted d y = s.admitted d y := rfl
@[simp] theorem State.editPermit_closing (s : State) (c : CraneId) (f : Permit → Permit) (y : ZoneId) : (s.editPermit c f).closing y = s.closing y := rfl

@[simp] theorem State.editBooking_link (s : State) (id : Nat) (f : Booking → Booking) (q : Port) : (s.editBooking id f).link q = s.link q := rfl
@[simp] theorem State.editBooking_box (s : State) (id : Nat) (f : Booking → Booking) (d : CraneId) : (s.editBooking id f).box d = s.box d := rfl
@[simp] theorem State.editBooking_line (s : State) (id : Nat) (f : Booking → Booking) (m : ChannelId) : (s.editBooking id f).line m = s.line m := rfl
@[simp] theorem State.editBooking_channel (s : State) (id : Nat) (f : Booking → Booking) (j : ChannelId) : (s.editBooking id f).channel j = s.channel j := rfl
@[simp] theorem State.editBooking_wind (s : State) (id : Nat) (f : Booking → Booking) (d : CraneId) : (s.editBooking id f).wind d = s.wind d := rfl
@[simp] theorem State.editBooking_position (s : State) (id : Nat) (f : Booking → Booking) (d : CraneId) : (s.editBooking id f).position d = s.position d := rfl
@[simp] theorem State.editBooking_zone (s : State) (id : Nat) (f : Booking → Booking) (y : ZoneId) : (s.editBooking id f).zone y = s.zone y := rfl
@[simp] theorem State.editBooking_record (s : State) (id : Nat) (f : Booking → Booking) (y : ZoneId) : (s.editBooking id f).record y = s.record y := rfl
@[simp] theorem State.editBooking_shadowRecord (s : State) (id : Nat) (f : Booking → Booking) (y : ZoneId) : (s.editBooking id f).shadowRecord y = s.shadowRecord y := rfl
@[simp] theorem State.editBooking_permit (s : State) (id : Nat) (f : Booking → Booking) (d : CraneId) : (s.editBooking id f).permit d = s.permit d := rfl
@[simp] theorem State.editBooking_permitState (s : State) (id : Nat) (f : Booking → Booking) (d : CraneId) : (s.editBooking id f).permitState d = s.permitState d := rfl
@[simp] theorem State.editBooking_event (s : State) (id : Nat) (f : Booking → Booking) (x : SiteEvent) : (s.editBooking id f).event x = s.event x := rfl
@[simp] theorem State.editBooking_footprint (s : State) (id : Nat) (f : Booking → Booking) (y : ZoneId) (d : CraneId) : (s.editBooking id f).footprint y d = s.footprint y d := rfl
@[simp] theorem State.editBooking_holding (s : State) (id : Nat) (f : Booking → Booking) (y : ZoneId) : (s.editBooking id f).holding y = s.holding y := rfl
@[simp] theorem State.editBooking_heldBy (s : State) (id : Nat) (f : Booking → Booking) (y : ZoneId) (d : CraneId) : (s.editBooking id f).heldBy y d = s.heldBy y d := rfl
@[simp] theorem State.editBooking_occupies (s : State) (id : Nat) (f : Booking → Booking) (d : CraneId) (y : ZoneId) : (s.editBooking id f).occupies d y = s.occupies d y := rfl
@[simp] theorem State.editBooking_otherOccupant (s : State) (id : Nat) (f : Booking → Booking) (y : ZoneId) (d : CraneId) : (s.editBooking id f).otherOccupant y d = s.otherOccupant y d := rfl
@[simp] theorem State.editBooking_claimOf (s : State) (id : Nat) (f : Booking → Booking) (y : ZoneId) (d : CraneId) : (s.editBooking id f).claimOf y d = s.claimOf y d := rfl
@[simp] theorem State.editBooking_hasClaim (s : State) (id : Nat) (f : Booking → Booking) (y : ZoneId) (d : CraneId) : (s.editBooking id f).hasClaim y d = s.hasClaim y d := rfl
@[simp] theorem State.editBooking_claimZones (s : State) (id : Nat) (f : Booking → Booking) (d : CraneId) : (s.editBooking id f).claimZones d = s.claimZones d := rfl
@[simp] theorem State.editBooking_heldZones (s : State) (id : Nat) (f : Booking → Booking) (d : CraneId) : (s.editBooking id f).heldZones d = s.heldZones d := rfl
@[simp] theorem State.editBooking_baseLevel (s : State) (id : Nat) (f : Booking → Booking) (d : CraneId) : (s.editBooking id f).baseLevel d = s.baseLevel d := rfl
@[simp] theorem State.editBooking_allClaims (s : State) (id : Nat) (f : Booking → Booking) : (s.editBooking id f).allClaims = s.allClaims := rfl
@[simp] theorem State.editBooking_countOf (s : State) (id : Nat) (f : Booking → Booking) (d : CraneId) : (s.editBooking id f).countOf d = s.countOf d := rfl
@[simp] theorem State.editBooking_applyPending (s : State) (id : Nat) (f : Booking → Booking) : (s.editBooking id f).applyPending = s.applyPending := rfl
@[simp] theorem State.editBooking_markedZones (s : State) (id : Nat) (f : Booking → Booking) : (s.editBooking id f).markedZones = s.markedZones := rfl
@[simp] theorem State.editBooking_closing (s : State) (id : Nat) (f : Booking → Booking) (y : ZoneId) : (s.editBooking id f).closing y = s.closing y := rfl

@[simp] theorem State.chosen_link (s : State) (q : Port) : (s.chosen).link q = s.link q := rfl
@[simp] theorem State.chosen_box (s : State) (d : CraneId) : (s.chosen).box d = s.box d := rfl
@[simp] theorem State.chosen_line (s : State) (m : ChannelId) : (s.chosen).line m = s.line m := rfl
@[simp] theorem State.chosen_channel (s : State) (j : ChannelId) : (s.chosen).channel j = s.channel j := rfl
@[simp] theorem State.chosen_wind (s : State) (d : CraneId) : (s.chosen).wind d = s.wind d := rfl
@[simp] theorem State.chosen_position (s : State) (d : CraneId) : (s.chosen).position d = s.position d := rfl
@[simp] theorem State.chosen_zone (s : State) (y : ZoneId) : (s.chosen).zone y = s.zone y := rfl
@[simp] theorem State.chosen_record (s : State) (y : ZoneId) : (s.chosen).record y = s.record y := rfl
@[simp] theorem State.chosen_shadowRecord (s : State) (y : ZoneId) : (s.chosen).shadowRecord y = s.shadowRecord y := rfl
@[simp] theorem State.chosen_permit (s : State) (d : CraneId) : (s.chosen).permit d = s.permit d := rfl
@[simp] theorem State.chosen_permitState (s : State) (d : CraneId) : (s.chosen).permitState d = s.permitState d := rfl
@[simp] theorem State.chosen_bookingById (s : State) (i : Nat) : (s.chosen).bookingById i = s.bookingById i := rfl
@[simp] theorem State.chosen_event (s : State) (x : SiteEvent) : (s.chosen).event x = s.event x := rfl
@[simp] theorem State.chosen_footprint (s : State) (y : ZoneId) (d : CraneId) : (s.chosen).footprint y d = s.footprint y d := rfl
@[simp] theorem State.chosen_holding (s : State) (y : ZoneId) : (s.chosen).holding y = s.holding y := rfl
@[simp] theorem State.chosen_heldBy (s : State) (y : ZoneId) (d : CraneId) : (s.chosen).heldBy y d = s.heldBy y d := rfl
@[simp] theorem State.chosen_occupies (s : State) (d : CraneId) (y : ZoneId) : (s.chosen).occupies d y = s.occupies d y := rfl
@[simp] theorem State.chosen_otherOccupant (s : State) (y : ZoneId) (d : CraneId) : (s.chosen).otherOccupant y d = s.otherOccupant y d := rfl
@[simp] theorem State.chosen_claimOf (s : State) (y : ZoneId) (d : CraneId) : (s.chosen).claimOf y d = s.claimOf y d := rfl
@[simp] theorem State.chosen_hasClaim (s : State) (y : ZoneId) (d : CraneId) : (s.chosen).hasClaim y d = s.hasClaim y d := rfl
@[simp] theorem State.chosen_claimZones (s : State) (d : CraneId) : (s.chosen).claimZones d = s.claimZones d := rfl
@[simp] theorem State.chosen_heldZones (s : State) (d : CraneId) : (s.chosen).heldZones d = s.heldZones d := rfl
@[simp] theorem State.chosen_baseLevel (s : State) (d : CraneId) : (s.chosen).baseLevel d = s.baseLevel d := rfl
@[simp] theorem State.chosen_bookingLevel (s : State) (d : CraneId) (y : ZoneId) : (s.chosen).bookingLevel d y = s.bookingLevel d y := rfl
@[simp] theorem State.chosen_allClaims (s : State) : (s.chosen).allClaims = s.allClaims := rfl
@[simp] theorem State.chosen_countOf (s : State) (d : CraneId) : (s.chosen).countOf d = s.countOf d := rfl
@[simp] theorem State.chosen_applyPending (s : State) : (s.chosen).applyPending = s.applyPending := rfl
@[simp] theorem State.chosen_markedZones (s : State) : (s.chosen).markedZones = s.markedZones := rfl
@[simp] theorem State.chosen_suspendedBooking (s : State) (d : CraneId) : (s.chosen).suspendedBooking d = s.suspendedBooking d := rfl
@[simp] theorem State.chosen_openedForCrane (s : State) (y : ZoneId) (d : CraneId) : (s.chosen).openedForCrane y d = s.openedForCrane y d := rfl
@[simp] theorem State.chosen_admitted (s : State) (d : CraneId) (y : ZoneId) : (s.chosen).admitted d y = s.admitted d y := rfl
@[simp] theorem State.chosen_closing (s : State) (y : ZoneId) : (s.chosen).closing y = s.closing y := rfl
@[simp] theorem State.chosen_levelFor (s : State) (d : CraneId) (y : ZoneId) (em : Bool) : (s.chosen).levelFor d y em = s.levelFor d y em := rfl
@[simp] theorem State.chosen_grantable (s : State) (d : CraneId) (y : ZoneId) : (s.chosen).grantable d y = s.grantable d y := rfl
@[simp] theorem State.chosen_grantableButMark (s : State) (d : CraneId) (y : ZoneId) : (s.chosen).grantableButMark d y = s.grantableButMark d y := rfl
@[simp] theorem State.chosen_firstEligible (s : State) (y : ZoneId) : (s.chosen).firstEligible y = s.firstEligible y := rfl

/-! ## Reads of the record written -/

theorem linkIdx_injective {p q : Port} (h : linkIdx p = linkIdx q) : p = q := by
  cases p <;> cases q <;> simp_all [linkIdx, Fin.ext_iff] <;> omega

@[simp] theorem State.editLink_link_same (s : State) (p : Port) (f : Link → Link) :
    (s.editLink p f).link p = f (s.link p) := by simp [State.editLink, State.link]

theorem State.editLink_link_other (s : State) {p q : Port} (f : Link → Link) (h : q ≠ p) :
    (s.editLink p f).link q = s.link q := by
  simp only [State.editLink, State.link]
  exact Table.entry_edit_other _ _ fun e => h (linkIdx_injective e)

theorem State.editLink_link (s : State) (p q : Port) (f : Link → Link) :
    (s.editLink p f).link q = if q = p then f (s.link q) else s.link q := by
  by_cases h : q = p
  · subst h; simp
  · simp [h, State.editLink_link_other s f h]

theorem State.editBox_box (s : State) (i j : CraneId) (f : NoticeBox → NoticeBox) :
    (s.editBox i f).box j = if j = i then f (s.box j) else s.box j := by
  simp [State.editBox, State.box, Table.entry_edit]

@[simp] theorem State.editBox_box_same (s : State) (i : CraneId) (f : NoticeBox → NoticeBox) :
    (s.editBox i f).box i = f (s.box i) := by simp [State.editBox_box]

theorem State.editBox_box_other (s : State) {i j : CraneId} (f : NoticeBox → NoticeBox) (h : j ≠ i) :
    (s.editBox i f).box j = s.box j := by simp [State.editBox_box, h]

theorem State.editChannel_channel (s : State) (i j : ChannelId) (f : Channel → Channel) :
    (s.editChannel i f).channel j = if j = i then f (s.channel j) else s.channel j := by
  simp [State.editChannel, State.channel, Table.entry_edit]

@[simp] theorem State.editChannel_channel_same (s : State) (i : ChannelId) (f : Channel → Channel) :
    (s.editChannel i f).channel i = f (s.channel i) := by simp [State.editChannel_channel]

theorem State.editChannel_channel_other (s : State) {i j : ChannelId} (f : Channel → Channel) (h : j ≠ i) :
    (s.editChannel i f).channel j = s.channel j := by simp [State.editChannel_channel, h]

theorem State.editWind_wind (s : State) (i j : CraneId) (f : Wind → Wind) :
    (s.editWind i f).wind j = if j = i then f (s.wind j) else s.wind j := by
  simp [State.editWind, State.wind, Table.entry_edit]

@[simp] theorem State.editWind_wind_same (s : State) (i : CraneId) (f : Wind → Wind) :
    (s.editWind i f).wind i = f (s.wind i) := by simp [State.editWind_wind]

theorem State.editWind_wind_other (s : State) {i j : CraneId} (f : Wind → Wind) (h : j ≠ i) :
    (s.editWind i f).wind j = s.wind j := by simp [State.editWind_wind, h]

theorem State.editPosition_position (s : State) (i j : CraneId) (f : Position → Position) :
    (s.editPosition i f).position j = if j = i then f (s.position j) else s.position j := by
  simp [State.editPosition, State.position, Table.entry_edit]

@[simp] theorem State.editPosition_position_same (s : State) (i : CraneId) (f : Position → Position) :
    (s.editPosition i f).position i = f (s.position i) := by simp [State.editPosition_position]

theorem State.editPosition_position_other (s : State) {i j : CraneId} (f : Position → Position) (h : j ≠ i) :
    (s.editPosition i f).position j = s.position j := by simp [State.editPosition_position, h]

theorem State.editZone_zone (s : State) (i j : ZoneId) (f : ZoneDyn → ZoneDyn) :
    (s.editZone i f).zone j = if j = i then f (s.zone j) else s.zone j := by
  simp [State.editZone, State.zone, Table.entry_edit]

@[simp] theorem State.editZone_zone_same (s : State) (i : ZoneId) (f : ZoneDyn → ZoneDyn) :
    (s.editZone i f).zone i = f (s.zone i) := by simp [State.editZone_zone]

theorem State.editZone_zone_other (s : State) {i j : ZoneId} (f : ZoneDyn → ZoneDyn) (h : j ≠ i) :
    (s.editZone i f).zone j = s.zone j := by simp [State.editZone_zone, h]

theorem State.setLine_line (s : State) (i j : ChannelId) (r : Receiver) :
    (s.setLine i r).line j = if j = i then r else s.line j := by
  simp [State.setLine, State.line, Table.entry_edit]

@[simp] theorem State.setLine_line_same (s : State) (i : ChannelId) (r : Receiver) :
    (s.setLine i r).line i = r := by simp [State.setLine_line]

theorem State.setLine_line_other (s : State) {i j : ChannelId} (r : Receiver) (h : j ≠ i) :
    (s.setLine i r).line j = s.line j := by simp [State.setLine_line, h]

theorem State.editPermit_permit (s : State) (c d : CraneId) (f : Permit → Permit) :
    (s.editPermit c f).permit d = if d = c then (s.permit d).map f else s.permit d := by
  simp [State.editPermit, State.permit, Table.entry_edit]

@[simp] theorem State.editPermit_permit_same (s : State) (c : CraneId) (f : Permit → Permit) :
    (s.editPermit c f).permit c = (s.permit c).map f := by simp [State.editPermit_permit]

theorem State.editPermit_permit_other (s : State) {c d : CraneId} (f : Permit → Permit) (h : d ≠ c) :
    (s.editPermit c f).permit d = s.permit d := by simp [State.editPermit_permit, h]

theorem SiteEvent.idx_injective {e x : SiteEvent} (h : e.idx = x.idx) : e = x := by
  cases e <;> cases x <;> simp_all [SiteEvent.idx]

theorem State.setEvent_event (s : State) (e x : SiteEvent) :
    (s.setEvent e).event x = (decide (x = e) || s.event x) := by
  simp only [State.setEvent, State.event, Table.entry_edit]
  by_cases h : x = e
  · subst h; simp
  · have : x.idx ≠ e.idx := fun he => h (SiteEvent.idx_injective he)
    simp [h, this]

@[simp] theorem State.setEvent_event_same (s : State) (e : SiteEvent) :
    (s.setEvent e).event e = true := by simp [State.setEvent_event]

/-- A permit state is read from the permit record. -/
theorem State.permitState_of_permit {s : State} {c : CraneId} {p : Permit} (h : s.permit c = some p) :
    s.permitState c = p.state := by simp [State.permitState, h]

/-- A booking found by its id has that id and is an entry of the table. -/
theorem State.bookingById_some {s : State} {i : Nat} {b : Booking} (h : s.bookingById i = some b) :
    b.id = i ∧ b ∈ s.bookings := by
  have := List.find?_some h
  exact ⟨by simpa using this, List.mem_of_find?_eq_some h⟩

/-- Editing the bookings of an id in a way that keeps ids changes what is found under it, and nothing
under another id. -/
theorem State.editBooking_bookingById (s : State) (i j : Nat) (f : Booking → Booking)
    (hf : ∀ b, (f b).id = b.id) :
    (s.editBooking i f).bookingById j =
      if j = i then (s.bookingById j).map f else s.bookingById j := by
  simp only [State.editBooking, State.bookingById]
  induction s.bookings with
  | nil => simp
  | cons b bs ih =>
    by_cases hb : b.id = i <;> by_cases hj : j = i <;> by_cases hbj : b.id = j <;>
      simp_all

end Sys2Proof.Machine
end

