-- ==== Sys2Proof/Laws/Post.lean ====
section
/-! SUPPORT. What the posting and the transmission of notices touch: the links, the crane ports' areas
and the site event flags, and nothing else (R167, R170). -/

namespace Sys2Proof.Machine

/-- The start of a frame touches the links and the areas alone. -/
theorem State.startTx_eq (s : State) (p : Port) :
    s.startTx p = { s with links := (s.startTx p).links, boxes := (s.startTx p).boxes } := by
  unfold State.startTx
  simp only
  split
  · rfl
  · split
    · rfl
    · split
      · rfl
      · split <;> rfl

/-- A posting touches the links, the areas and the flags alone. -/
theorem State.post_eq (s : State) (c : CraneId) (n : Notice) :
    s.post c n =
      { s with links := (s.post c n).links, boxes := (s.post c n).boxes, flags := (s.post c n).flags } := by
  unfold State.post
  simp only
  split
  · rw [State.startTx_eq]; rfl
  · rfl

@[simp] theorem State.startTx_lines (s : State) (p : Port) : (s.startTx p).lines = s.lines := by
  rw [State.startTx_eq]

@[simp] theorem State.startTx_enables (s : State) (p : Port) : (s.startTx p).enables = s.enables := by
  rw [State.startTx_eq]

@[simp] theorem State.startTx_restart (s : State) (p : Port) : (s.startTx p).restart = s.restart := by
  rw [State.startTx_eq]

@[simp] theorem State.startTx_channels (s : State) (p : Port) : (s.startTx p).channels = s.channels := by
  rw [State.startTx_eq]

@[simp] theorem State.startTx_winds (s : State) (p : Port) : (s.startTx p).winds = s.winds := by
  rw [State.startTx_eq]

@[simp] theorem State.startTx_positions (s : State) (p : Port) : (s.startTx p).positions = s.positions := by
  rw [State.startTx_eq]

@[simp] theorem State.startTx_active (s : State) (p : Port) : (s.startTx p).active = s.active := by
  rw [State.startTx_eq]

@[simp] theorem State.startTx_shadow (s : State) (p : Port) : (s.startTx p).shadow = s.shadow := by
  rw [State.startTx_eq]

@[simp] theorem State.startTx_zones (s : State) (p : Port) : (s.startTx p).zones = s.zones := by
  rw [State.startTx_eq]

@[simp] theorem State.startTx_arrivals (s : State) (p : Port) : (s.startTx p).arrivals = s.arrivals := by
  rw [State.startTx_eq]

@[simp] theorem State.startTx_clock (s : State) (p : Port) : (s.startTx p).clock = s.clock := by
  rw [State.startTx_eq]

@[simp] theorem State.startTx_leadTime (s : State) (p : Port) : (s.startTx p).leadTime = s.leadTime := by
  rw [State.startTx_eq]

@[simp] theorem State.startTx_bookings (s : State) (p : Port) : (s.startTx p).bookings = s.bookings := by
  rw [State.startTx_eq]

@[simp] theorem State.startTx_nextId (s : State) (p : Port) : (s.startTx p).nextId = s.nextId := by
  rw [State.startTx_eq]

@[simp] theorem State.startTx_terminals (s : State) (p : Port) : (s.startTx p).terminals = s.terminals := by
  rw [State.startTx_eq]

@[simp] theorem State.startTx_permits (s : State) (p : Port) : (s.startTx p).permits = s.permits := by
  rw [State.startTx_eq]

@[simp] theorem State.startTx_choice (s : State) (p : Port) : (s.startTx p).choice = s.choice := by
  rw [State.startTx_eq]

@[simp] theorem State.startTx_pending (s : State) (p : Port) : (s.startTx p).pending = s.pending := by
  rw [State.startTx_eq]

@[simp] theorem State.startTx_flags (s : State) (p : Port) : (s.startTx p).flags = s.flags := by
  rw [State.startTx_eq]

@[simp] theorem State.post_lines (s : State) (c : CraneId) (n : Notice) : (s.post c n).lines = s.lines := by
  rw [State.post_eq]

@[simp] theorem State.post_enables (s : State) (c : CraneId) (n : Notice) : (s.post c n).enables = s.enables := by
  rw [State.post_eq]

@[simp] theorem State.post_restart (s : State) (c : CraneId) (n : Notice) : (s.post c n).restart = s.restart := by
  rw [State.post_eq]

@[simp] theorem State.post_channels (s : State) (c : CraneId) (n : Notice) : (s.post c n).channels = s.channels := by
  rw [State.post_eq]

@[simp] theorem State.post_winds (s : State) (c : CraneId) (n : Notice) : (s.post c n).winds = s.winds := by
  rw [State.post_eq]

@[simp] theorem State.post_positions (s : State) (c : CraneId) (n : Notice) : (s.post c n).positions = s.positions := by
  rw [State.post_eq]

@[simp] theorem State.post_active (s : State) (c : CraneId) (n : Notice) : (s.post c n).active = s.active := by
  rw [State.post_eq]

@[simp] theorem State.post_shadow (s : State) (c : CraneId) (n : Notice) : (s.post c n).shadow = s.shadow := by
  rw [State.post_eq]

@[simp] theorem State.post_zones (s : State) (c : CraneId) (n : Notice) : (s.post c n).zones = s.zones := by
  rw [State.post_eq]

@[simp] theorem State.post_arrivals (s : State) (c : CraneId) (n : Notice) : (s.post c n).arrivals = s.arrivals := by
  rw [State.post_eq]

@[simp] theorem State.post_clock (s : State) (c : CraneId) (n : Notice) : (s.post c n).clock = s.clock := by
  rw [State.post_eq]

@[simp] theorem State.post_leadTime (s : State) (c : CraneId) (n : Notice) : (s.post c n).leadTime = s.leadTime := by
  rw [State.post_eq]

@[simp] theorem State.post_bookings (s : State) (c : CraneId) (n : Notice) : (s.post c n).bookings = s.bookings := by
  rw [State.post_eq]

@[simp] theorem State.post_nextId (s : State) (c : CraneId) (n : Notice) : (s.post c n).nextId = s.nextId := by
  rw [State.post_eq]

@[simp] theorem State.post_terminals (s : State) (c : CraneId) (n : Notice) : (s.post c n).terminals = s.terminals := by
  rw [State.post_eq]

@[simp] theorem State.post_permits (s : State) (c : CraneId) (n : Notice) : (s.post c n).permits = s.permits := by
  rw [State.post_eq]

@[simp] theorem State.post_choice (s : State) (c : CraneId) (n : Notice) : (s.post c n).choice = s.choice := by
  rw [State.post_eq]

@[simp] theorem State.post_pending (s : State) (c : CraneId) (n : Notice) : (s.post c n).pending = s.pending := by
  rw [State.post_eq]

@[simp] theorem State.startTx_line (s : State) (p : Port) (m : ChannelId) :
    (s.startTx p).line m = s.line m := by
  rw [State.startTx_eq]; rfl

@[simp] theorem State.startTx_channel (s : State) (p : Port) (j : ChannelId) :
    (s.startTx p).channel j = s.channel j := by
  rw [State.startTx_eq]; rfl

@[simp] theorem State.startTx_wind (s : State) (p : Port) (d : CraneId) :
    (s.startTx p).wind d = s.wind d := by
  rw [State.startTx_eq]; rfl

@[simp] theorem State.startTx_position (s : State) (p : Port) (d : CraneId) :
    (s.startTx p).position d = s.position d := by
  rw [State.startTx_eq]; rfl

@[simp] theorem State.startTx_zone (s : State) (p : Port) (y : ZoneId) :
    (s.startTx p).zone y = s.zone y := by
  rw [State.startTx_eq]; rfl

@[simp] theorem State.startTx_record (s : State) (p : Port) (y : ZoneId) :
    (s.startTx p).record y = s.record y := by
  rw [State.startTx_eq]; rfl

@[simp] theorem State.startTx_shadowRecord (s : State) (p : Port) (y : ZoneId) :
    (s.startTx p).shadowRecord y = s.shadowRecord y := by
  rw [State.startTx_eq]; rfl

@[simp] theorem State.startTx_permit (s : State) (p : Port) (d : CraneId) :
    (s.startTx p).permit d = s.permit d := by
  rw [State.startTx_eq]; rfl

@[simp] theorem State.startTx_permitState (s : State) (p : Port) (d : CraneId) :
    (s.startTx p).permitState d = s.permitState d := by
  rw [State.startTx_eq]; rfl

@[simp] theorem State.startTx_bookingById (s : State) (p : Port) (i : Nat) :
    (s.startTx p).bookingById i = s.bookingById i := by
  rw [State.startTx_eq]; rfl

@[simp] theorem State.startTx_footprint (s : State) (p : Port) (y : ZoneId) (d : CraneId) :
    (s.startTx p).footprint y d = s.footprint y d := by
  rw [State.startTx_eq]; rfl

@[simp] theorem State.startTx_holding (s : State) (p : Port) (y : ZoneId) :
    (s.startTx p).holding y = s.holding y := by
  rw [State.startTx_eq]; rfl

@[simp] theorem State.startTx_heldBy (s : State) (p : Port) (y : ZoneId) (d : CraneId) :
    (s.startTx p).heldBy y d = s.heldBy y d := by
  rw [State.startTx_eq]; rfl

@[simp] theorem State.startTx_occupies (s : State) (p : Port) (d : CraneId) (y : ZoneId) :
    (s.startTx p).occupies d y = s.occupies d y := by
  rw [State.startTx_eq]; rfl

@[simp] theorem State.startTx_claimOf (s : State) (p : Port) (y : ZoneId) (d : CraneId) :
    (s.startTx p).claimOf y d = s.claimOf y d := by
  rw [State.startTx_eq]; rfl

@[simp] theorem State.startTx_hasClaim (s : State) (p : Port) (y : ZoneId) (d : CraneId) :
    (s.startTx p).hasClaim y d = s.hasClaim y d := by
  rw [State.startTx_eq]; rfl

@[simp] theorem State.startTx_claimZones (s : State) (p : Port) (d : CraneId) :
    (s.startTx p).claimZones d = s.claimZones d := by
  rw [State.startTx_eq]; rfl

@[simp] theorem State.startTx_heldZones (s : State) (p : Port) (d : CraneId) :
    (s.startTx p).heldZones d = s.heldZones d := by
  rw [State.startTx_eq]; rfl

@[simp] theorem State.startTx_suspendedBooking (s : State) (p : Port) (d : CraneId) :
    (s.startTx p).suspendedBooking d = s.suspendedBooking d := by
  rw [State.startTx_eq]; rfl

@[simp] theorem State.startTx_levelFor (s : State) (p : Port) (d : CraneId) (y : ZoneId) (em : Bool) :
    (s.startTx p).levelFor d y em = s.levelFor d y em := by
  rw [State.startTx_eq]; rfl

@[simp] theorem State.startTx_grantable (s : State) (p : Port) (d : CraneId) (y : ZoneId) :
    (s.startTx p).grantable d y = s.grantable d y := by
  rw [State.startTx_eq]; rfl

@[simp] theorem State.startTx_allClaims (s : State) (p : Port) :
    (s.startTx p).allClaims  = s.allClaims  := by
  rw [State.startTx_eq]; rfl

@[simp] theorem State.post_line (s : State) (c : CraneId) (n : Notice) (m : ChannelId) :
    (s.post c n).line m = s.line m := by
  rw [State.post_eq]; rfl

@[simp] theorem State.post_channel (s : State) (c : CraneId) (n : Notice) (j : ChannelId) :
    (s.post c n).channel j = s.channel j := by
  rw [State.post_eq]; rfl

@[simp] theorem State.post_wind (s : State) (c : CraneId) (n : Notice) (d : CraneId) :
    (s.post c n).wind d = s.wind d := by
  rw [State.post_eq]; rfl

@[simp] theorem State.post_position (s : State) (c : CraneId) (n : Notice) (d : CraneId) :
    (s.post c n).position d = s.position d := by
  rw [State.post_eq]; rfl

@[simp] theorem State.post_zone (s : State) (c : CraneId) (n : Notice) (y : ZoneId) :
    (s.post c n).zone y = s.zone y := by
  rw [State.post_eq]; rfl

@[simp] theorem State.post_record (s : State) (c : CraneId) (n : Notice) (y : ZoneId) :
    (s.post c n).record y = s.record y := by
  rw [State.post_eq]; rfl

@[simp] theorem State.post_shadowRecord (s : State) (c : CraneId) (n : Notice) (y : ZoneId) :
    (s.post c n).shadowRecord y = s.shadowRecord y := by
  rw [State.post_eq]; rfl

@[simp] theorem State.post_permit (s : State) (c : CraneId) (n : Notice) (d : CraneId) :
    (s.post c n).permit d = s.permit d := by
  rw [State.post_eq]; rfl

@[simp] theorem State.post_permitState (s : State) (c : CraneId) (n : Notice) (d : CraneId) :
    (s.post c n).permitState d = s.permitState d := by
  rw [State.post_eq]; rfl

@[simp] theorem State.post_bookingById (s : State) (c : CraneId) (n : Notice) (i : Nat) :
    (s.post c n).bookingById i = s.bookingById i := by
  rw [State.post_eq]; rfl

@[simp] theorem State.post_footprint (s : State) (c : CraneId) (n : Notice) (y : ZoneId) (d : CraneId) :
    (s.post c n).footprint y d = s.footprint y d := by
  rw [State.post_eq]; rfl

@[simp] theorem State.post_holding (s : State) (c : CraneId) (n : Notice) (y : ZoneId) :
    (s.post c n).holding y = s.holding y := by
  rw [State.post_eq]; rfl

@[simp] theorem State.post_heldBy (s : State) (c : CraneId) (n : Notice) (y : ZoneId) (d : CraneId) :
    (s.post c n).heldBy y d = s.heldBy y d := by
  rw [State.post_eq]; rfl

@[simp] theorem State.post_occupies (s : State) (c : CraneId) (n : Notice) (d : CraneId) (y : ZoneId) :
    (s.post c n).occupies d y = s.occupies d y := by
  rw [State.post_eq]; rfl

@[simp] theorem State.post_claimOf (s : State) (c : CraneId) (n : Notice) (y : ZoneId) (d : CraneId) :
    (s.post c n).claimOf y d = s.claimOf y d := by
  rw [State.post_eq]; rfl

@[simp] theorem State.post_hasClaim (s : State) (c : CraneId) (n : Notice) (y : ZoneId) (d : CraneId) :
    (s.post c n).hasClaim y d = s.hasClaim y d := by
  rw [State.post_eq]; rfl

@[simp] theorem State.post_claimZones (s : State) (c : CraneId) (n : Notice) (d : CraneId) :
    (s.post c n).claimZones d = s.claimZones d := by
  rw [State.post_eq]; rfl

@[simp] theorem State.post_heldZones (s : State) (c : CraneId) (n : Notice) (d : CraneId) :
    (s.post c n).heldZones d = s.heldZones d := by
  rw [State.post_eq]; rfl

@[simp] theorem State.post_suspendedBooking (s : State) (c : CraneId) (n : Notice) (d : CraneId) :
    (s.post c n).suspendedBooking d = s.suspendedBooking d := by
  rw [State.post_eq]; rfl

@[simp] theorem State.post_levelFor (s : State) (c : CraneId) (n : Notice) (d : CraneId) (y : ZoneId) (em : Bool) :
    (s.post c n).levelFor d y em = s.levelFor d y em := by
  rw [State.post_eq]; rfl

@[simp] theorem State.post_grantable (s : State) (c : CraneId) (n : Notice) (d : CraneId) (y : ZoneId) :
    (s.post c n).grantable d y = s.grantable d y := by
  rw [State.post_eq]; rfl

@[simp] theorem State.post_allClaims (s : State) (c : CraneId) (n : Notice) :
    (s.post c n).allClaims  = s.allClaims  := by
  rw [State.post_eq]; rfl

end Sys2Proof.Machine
end

