-- ==== Sys2Proof/Laws/Moves.lean ====
section
/-! SUPPORT. What the shared operations can do, said once: each is a chain of a few single moves. A
relation between states that holds across every single move holds across the whole operation; so a frame
or an invariant is proved by going through the moves, never by unfolding an operation. -/

namespace Sys2Proof.Machine

/-- The single moves of grant evaluation, recomputation and latching (the agenda of Cascade.lean). -/
structure CascadeMoves (R : State → State → Prop) : Prop where
  refl : ∀ s, R s s
  trans : ∀ {s t u}, R s t → R t u → R s u
  chosen : ∀ s, R s s.chosen
  post : ∀ s c n, R s (s.post c n)
  trip : ∀ s, R s (s.setEvent .trip)
  silence : ∀ s, R s (s.setEvent .silence)
  grant : ∀ s z cl, cl ∈ (s.zone z).queue → s.grantable cl.crane z = true →
    R s (s.editZone z (ZoneDyn.grant cl))
  demand : ∀ s z h d, s.holding z = some h → R s (s.setDemand z h d)
  figures : ∀ s c r p, (s.position c).report = some r → s.permit c = some p →
    R s (s.editPosition c fun _ => s.newFigures c r p.config (s.position c))
  judge : ∀ s c, R s (s.judgeStage c)
  latchKeep : ∀ s c p cause, s.permit c = some p →
    p.state = .halted ∨ p.state = .stowing ∨ p.state = .stowed →
    p.masks cause = false → p.hasLatched cause = false →
    R s (s.editPermit c fun _ => p.latch cause)
  latchHalt : ∀ s c p cause, s.permit c = some p →
    p.state = .disarmed ∨ p.state = .running ∨ p.state = .derated → p.masks cause = false →
    R s (s.editPermit c fun _ => { p.latch cause with state := .halted, factor := 0 })

/-- A claim that may be granted stands in its queue and meets the grant conditions (R53, R54). -/
theorem State.firstEligible_some {s : State} {z : ZoneId} {cl : Claim} (h : s.firstEligible z = some cl) :
    cl ∈ (s.zone z).queue ∧ s.grantable cl.crane z = true :=
  ⟨List.mem_of_find?_eq_some h, by simpa using List.find?_some h⟩

/-- A fold of steps that each keep the relation keeps it. -/
theorem State.each_rel {α : Type} {R : State → State → Prop} (refl : ∀ s, R s s)
    (trans : ∀ {s t u}, R s t → R t u → R s u) (xs : List α) (f : α → State → State)
    (hf : ∀ x ∈ xs, ∀ s, R s (f x s)) (s : State) : R s (s.each xs f) := by
  induction xs generalizing s with
  | nil => exact refl s
  | cons x xs ih =>
    exact trans (hf x (by simp) s) (ih (fun y hy => hf y (by simp [hy])) (f x s))

/-- The open order is an order of the same items. -/
theorem State.arranged_perm {α : Type} (key : α → Nat) (xs : List α) (s : State) :
    (s.arranged key xs).Perm xs := List.perm_insertionSort _ _

@[simp] theorem State.mem_arranged {α : Type} (key : α → Nat) (xs : List α) (s : State) (x : α) :
    x ∈ s.arranged key xs ↔ x ∈ xs := (State.arranged_perm key xs s).mem_iff

@[simp] theorem State.length_arranged {α : Type} (key : α → Nat) (xs : List α) (s : State) :
    (s.arranged key xs).length = xs.length := (State.arranged_perm key xs s).length_eq

namespace CascadeMoves

variable {R : State → State → Prop}

theorem each (h : CascadeMoves R) {α : Type} (xs : List α) (f : α → State → State)
    (hf : ∀ x ∈ xs, ∀ s, R s (f x s)) (s : State) : R s (s.each xs f) :=
  State.each_rel h.refl h.trans xs f hf s

theorem eachOpen (h : CascadeMoves R) {α : Type} (key : α → Nat) (xs : List α)
    (f : α → State → State) (hf : ∀ x ∈ xs, ∀ s, R s (f x s)) (s : State) :
    R s (s.eachOpen key xs f) :=
  h.trans (h.chosen s)
    (h.each _ f (fun x hx => hf x ((State.mem_arranged key xs s x).1 hx)) s.chosen)

theorem silenceEvent (h : CascadeMoves R) (cause : Cause) (s : State) : R s (s.silenceEvent cause) := by
  unfold State.silenceEvent
  split
  · exact h.silence s
  · exact h.refl s

theorem grantTo (h : CascadeMoves R) (z : ZoneId) (cl : Claim) (notify : Bool) (s : State)
    (hq : cl ∈ (s.zone z).queue) (hg : s.grantable cl.crane z = true) : R s (s.grantTo z cl notify) := by
  unfold State.grantTo
  cases notify
  · exact h.grant s z cl hq hg
  · exact h.trans (h.grant s z cl hq hg) (h.post _ _ _)

theorem examine (h : CascadeMoves R) (z : ZoneId) (s : State) : R s (s.examine z) := by
  unfold State.examine
  split
  · exact h.refl s
  · rename_i hd hh
    split
    · exact h.trans (h.demand _ _ _ _ hh) (h.post _ _ _)
    · exact h.demand _ _ _ _ hh
    · exact h.trans (h.demand _ _ _ _ hh) (h.post _ _ _)
    · exact h.refl s

theorem latchKeepAll (h : CascadeMoves R) (cause : Cause) (c : CraneId) (p : Permit) (s : State)
    (hp : s.permit c = some p) (hs : p.state = .halted ∨ p.state = .stowing ∨ p.state = .stowed)
    (hm : p.masks cause = false) (hl : p.hasLatched cause = false) : R s (s.latchKeep cause c p) :=
  h.trans (h.latchKeep s c p cause hp hs hm hl) (h.post _ _ _)

theorem latchHaltAll (h : CascadeMoves R) (cause : Cause) (c : CraneId) (p : Permit) (s : State)
    (hp : s.permit c = some p) (hs : p.state = .disarmed ∨ p.state = .running ∨ p.state = .derated)
    (hm : p.masks cause = false) : R s (s.latchHalt cause c p) :=
  h.trans (h.trans (h.latchHalt s c p cause hp hs hm) (h.post _ _ _)) (h.trip _)

theorem silenceEvent_permit (cause : Cause) (s : State) (c : CraneId) :
    (s.silenceEvent cause).permit c = s.permit c := by
  unfold State.silenceEvent
  split <;> simp

theorem takeCause (h : CascadeMoves R) (cause : Cause) (c : CraneId) (s : State) :
    R s (s.takeCause cause c).2 := by
  unfold State.takeCause
  have hs := h.silenceEvent cause s
  split
  · exact h.refl s
  · rename_i p hp
    have hp' : (s.silenceEvent cause).permit c = some p := by rw [silenceEvent_permit]; exact hp
    split
    · exact h.refl s
    all_goals rename_i hst
    all_goals split
    all_goals first
      | exact hs
      | (rename_i hm
         first
         | exact h.trans hs (h.latchHaltAll cause c p _ hp' (by simp [hst]) (by simpa using hm))
         | (simp only [Bool.or_eq_true, not_or, Bool.not_eq_true] at hm
            exact h.trans hs (h.latchKeepAll cause c p _ hp' (by simp [hst]) hm.1 hm.2)))

theorem doTask (h : CascadeMoves R) (t : Task) (rest : List Task) (s : State) :
    R s (Machine.doTask t rest s).2 := by
  cases t with
  | evaluate z =>
    simp only [Machine.doTask]
    split
    · exact h.refl s
    · rename_i cl hcl
      have := State.firstEligible_some hcl
      exact h.grantTo z cl true s this.1 this.2
  | recompute c =>
    simp only [Machine.doTask, State.recomputeStage]
    cases hr : (s.position c).report with
    | none => exact h.refl s
    | some r =>
      cases hp : s.permit c with
      | none => exact h.refl s
      | some p => exact h.trans (h.figures s c r p hr hp) (h.chosen _)
  | handOff z d e => exact h.refl s
  | judge c =>
    simp only [Machine.doTask]
    split <;> exact h.judge s c
  | raise cause c =>
    simp only [Machine.doTask]
    have ht := h.takeCause cause c s
    split
    · rename_i s' he
      rw [he] at ht
      exact h.trans ht (h.chosen _)
    · rename_i s' he
      rw [he] at ht
      exact ht
  | examine z => exact h.examine z s

theorem run (h : CascadeMoves R) (n : Nat) (ts : List Task) (s : State) : R s (Machine.run n ts s) := by
  induction n generalizing ts s with
  | zero => cases ts <;> exact h.refl s
  | succ n ih =>
    cases ts with
    | nil => exact h.refl s
    | cons t ts => exact h.trans (h.doTask t ts s) (ih _ _)

theorem settle (h : CascadeMoves R) (ts : List Task) (s : State) : R s (s.settle ts) := h.run _ _ _

theorem evaluate (h : CascadeMoves R) (z : ZoneId) (s : State) : R s (s.evaluate z) := h.settle _ _

theorem recompute (h : CascadeMoves R) (c : CraneId) (s : State) : R s (s.recompute c) := h.settle _ _

theorem raise (h : CascadeMoves R) (cause : Cause) (c : CraneId) (s : State) : R s (s.raise cause c) :=
  h.settle _ _

theorem evaluateClaims (h : CascadeMoves R) (c : CraneId) (s : State) : R s (s.evaluateClaims c) :=
  h.trans (h.chosen s) (h.settle _ _)

theorem evaluateAll (h : CascadeMoves R) (zs : List ZoneId) (s : State) : R s (s.evaluateAll zs) :=
  h.eachOpen _ _ _ (fun z _ s => h.evaluate z s) s

end CascadeMoves

/-! ## The moves of the wind: levels, suspensions, stages, governing figures -/

/-- The single moves of level recomputation and of the booking-suspension mark (R48, R132). -/
structure LevelMoves (R : State → State → Prop) : Prop extends CascadeMoves R where
  reclaim : ∀ s z c cl level, s.claimOf z c = some cl →
    R s (s.editZone z fun d =>
      { d with queue := insertClaim { cl with level := level } (dropCrane c d.queue) })
  regrant : ∀ s z h level, s.holding z = some h →
    R s (s.editZone z fun d => { d with state := .held { h with level := level } })
  suspend : ∀ s c p, s.permit c = some p →
    R s (s.editPermit c fun _ =>
      ({ p with suspended := s.suspendedBooking c } : Permit).rearmed (s.wind c).stage)

/-- The single moves of a booking between ACTIVE and SUSPENDED (R154, R155). -/
structure SwapMoves (R : State → State → Prop) : Prop extends LevelMoves R where
  bookingEvent : ∀ s, R s (s.setEvent .booking)
  swap : ∀ s id new, R s (s.editBooking id fun b => { b with state := new })

/-- The single moves of a governing evaluation with its hand-offs (R98, R111, R113, R116). A stage
change is one move as far as the permit's own answer to it. -/
structure WindMoves (R : State → State → Prop) : Prop extends SwapMoves R where
  windStop : ∀ s, R s (s.setEvent .windStop)
  hold : ∀ s c t, R s (s.setHold c t)
  govern : ∀ s c p, s.permit c = some p → R s (s.editWind c fun _ => s.governed c p.config)
  stage : ∀ s c p new cause, s.permit c = some p → (s.wind c).stage ≠ new →
    R s ((s.announceStage c (s.wind c).stage new cause).editPermit c
      fun _ => p.followStage (s.wind c).stage new)

theorem State.editWind_congr {s : State} {c : CraneId} {f g : Wind → Wind}
    (h : f (s.wind c) = g (s.wind c)) : s.editWind c f = s.editWind c g := by
  simp only [State.wind, Table.entry] at h
  simp only [State.editWind, Table.edit, h]

/-- The descent test sets the hold timer and nothing else (R108). -/
theorem Wind.testDescent_eq (g : CraneConfig) (w : Wind) :
    w.testDescent g = { w with holdTimer := (w.testDescent g).holdTimer } := by
  unfold Wind.testDescent
  split
  · split
    · rfl
    · rename_i h; simp
  · rfl

@[simp] theorem State.announceStage_permits (s : State) (c : CraneId) (old new : Stage)
    (cause : StageCause) : (s.announceStage c old new cause).permits = s.permits := by
  unfold State.announceStage
  simp only [State.post_permits]
  split <;> rfl

/-- Two states in which every crane has the same configuration. -/
def ConfigKept (s t : State) : Prop :=
  ∀ c, (t.permit c).map (·.config) = (s.permit c).map (·.config)

@[simp] theorem Permit.rearmed_config (p : Permit) (x : Stage) : (p.rearmed x).config = p.config := by
  unfold Permit.rearmed Permit.armAt; split <;> rfl

@[simp] theorem Permit.stow_config (p : Permit) : p.stow.config = p.config := by
  unfold Permit.stow; split <;> rfl

@[simp] theorem Permit.unstow_config (p : Permit) : p.unstow.config = p.config := by
  unfold Permit.unstow; split <;> rfl

@[simp] theorem Permit.followStage_config (p : Permit) (old new : Stage) :
    (p.followStage old new).config = p.config := by
  unfold Permit.followStage
  split
  · simp
  · split
    · simp
    · split <;> simp

theorem configKept_edit {s t : State} {c : CraneId} {p p' : Permit} (hp : s.permit c = some p)
    (ht : t.permits = s.permits) (hc : p'.config = p.config) :
    ConfigKept s (t.editPermit c fun _ => p') := by
  intro d
  have ht' : ∀ d, t.permit d = s.permit d := fun d => by simp only [State.permit, ht]
  rw [State.editPermit_permit, ht']
  split
  · rename_i hd; subst hd; simp [hp, hc]
  · rfl

theorem configKept_of_permits {s t : State} (h : t.permits = s.permits) : ConfigKept s t := by
  intro c; simp only [State.permit, h]

theorem configKept_cascade : CascadeMoves ConfigKept where
  refl _ _ := rfl
  trans h1 h2 c := (h2 c).trans (h1 c)
  chosen _ := configKept_of_permits rfl
  post _ _ _ := configKept_of_permits (by simp)
  trip _ := configKept_of_permits rfl
  silence _ := configKept_of_permits rfl
  grant _ _ _ _ _ := configKept_of_permits rfl
  demand _ _ _ _ _ := configKept_of_permits rfl
  figures _ _ _ _ _ _ := configKept_of_permits rfl
  judge s c := configKept_of_permits (by unfold State.judgeStage; simp only; split <;> rfl)
  latchKeep _ _ _ _ hp _ _ _ := configKept_edit hp rfl rfl
  latchHalt _ _ _ _ hp _ _ := configKept_edit hp rfl rfl

theorem configKept_level : LevelMoves ConfigKept where
  toCascadeMoves := configKept_cascade
  reclaim _ _ _ _ _ _ := configKept_of_permits rfl
  regrant _ _ _ _ _ := configKept_of_permits rfl
  suspend _ _ _ hp := configKept_edit hp rfl (by simp)

theorem configKept_swap : SwapMoves ConfigKept where
  toLevelMoves := configKept_level
  bookingEvent _ := configKept_of_permits rfl
  swap _ _ _ := configKept_of_permits rfl

/-- No move of the wind changes a configuration. -/
theorem configKept_wind : WindMoves ConfigKept where
  toSwapMoves := configKept_swap
  windStop _ := configKept_of_permits rfl
  hold _ _ _ := configKept_of_permits rfl
  govern _ _ _ _ := configKept_of_permits rfl
  stage _ _ _ _ _ hp _ := configKept_edit hp (by simp) (by simp)

theorem ConfigKept.some {s t : State} (h : ConfigKept s t) {c : CraneId} {p : Permit}
    (hp : s.permit c = some p) : ∃ q, t.permit c = some q ∧ q.config = p.config := by
  have := h c
  rw [hp] at this
  cases hq : t.permit c with
  | none => simp [hq] at this
  | some q => exact ⟨q, rfl, by simpa [hq] using this⟩

namespace LevelMoves

variable {R : State → State → Prop}

theorem relevelClaim (h : LevelMoves R) (c : CraneId) (z : ZoneId) (s : State) :
    R s (s.relevelClaim c z) := by
  unfold State.relevelClaim
  split
  · exact h.refl s
  · rename_i cl hcl
    exact h.reclaim s z c cl _ hcl

theorem relevelGrant (h : LevelMoves R) (c : CraneId) (z : ZoneId) (s : State) :
    R s (s.relevelGrant c z) := by
  unfold State.relevelGrant
  split
  · exact h.refl s
  · rename_i hd hh
    split
    · exact h.regrant s z hd _ hh
    · exact h.refl s

theorem relevel (h : LevelMoves R) (c : CraneId) (z : ZoneId) (s : State) : R s (s.relevel c z) := by
  have h1 := h.trans (h.relevelClaim c z s) (h.relevelGrant c z _)
  unfold State.relevel
  simp only
  split
  · exact h.trans h1 (h.toCascadeMoves.examine z _)
  · exact h1

theorem relevelAll (h : LevelMoves R) (c : CraneId) (zs : List ZoneId) (s : State) :
    R s (s.relevelAll c zs) := h.toCascadeMoves.eachOpen _ _ _ (fun z _ s => h.relevel c z s) s

/-- The end of a permit change: its grant evaluation (R55). -/
theorem replace (h : LevelMoves R) {c : CraneId} {p p' : Permit} {s : State}
    (he : R s (s.editPermit c fun _ => p')) : R s (s.replacePermit c p p') := by
  unfold State.replacePermit
  simp only
  split
  · exact he
  · exact h.trans he (h.toCascadeMoves.evaluateClaims c _)

theorem refreshSuspension (h : LevelMoves R) (c : CraneId) (s : State) : R s (s.refreshSuspension c) := by
  unfold State.refreshSuspension
  split
  · exact h.refl s
  · rename_i p hp
    split
    · exact h.refl s
    · exact h.replace (h.suspend s c p hp)

theorem postBooking (h : CascadeMoves R) (id : Nat) (old : BookingState) (cause : BookingCause)
    (s : State) : R s (s.postBooking id old cause) := by
  unfold State.postBooking
  split
  · exact h.refl s
  · exact h.post _ _ _

end LevelMoves

namespace SwapMoves

variable {R : State → State → Prop}

theorem suspensionEvent (h : SwapMoves R) (new : BookingState) (s : State) :
    R s (s.suspensionEvent new) := by
  unfold State.suspensionEvent
  split
  · exact h.bookingEvent s
  · exact h.refl s

theorem swapSuspension (h : SwapMoves R) (id : Nat) (new : BookingState) (cause : BookingCause)
    (s : State) : R s (s.swapSuspension id new cause) := by
  unfold State.swapSuspension
  split
  · exact h.refl s
  · exact h.trans (h.trans (h.trans (h.trans (h.swap s id new) (h.toLevelMoves.relevelAll _ _ _))
      (h.toLevelMoves.refreshSuspension _ _)) (h.suspensionEvent _ _)) (LevelMoves.postBooking h.toCascadeMoves _ _ _ _)

theorem checkBooking (h : SwapMoves R) (byStage : Bool) (id : Nat) (s : State) :
    R s (s.checkBooking byStage id) := by
  unfold State.checkBooking
  split
  · exact h.refl s
  · simp only
    split
    all_goals first
      | exact h.refl s
      | (split
         · exact h.swapSuspension _ _ _ _
         · exact h.refl s)

theorem checkBookings (h : SwapMoves R) (byStage : Bool) (c : CraneId) (s : State) :
    R s (s.checkBookings byStage c) :=
  h.toCascadeMoves.eachOpen _ _ _ (fun id _ s => h.checkBooking byStage id s) s

end SwapMoves

namespace WindMoves

variable {R : State → State → Prop}

theorem changeStage (h : WindMoves R) (c : CraneId) (p : Permit) (new : Stage) (cause : StageCause)
    (s : State) (hp : s.permit c = some p) (hn : (s.wind c).stage ≠ new) :
    R s (s.changeStage c (s.wind c).stage new cause) := by
  unfold State.changeStage
  refine h.trans ?_ (h.toSwapMoves.checkBookings true c _)
  unfold State.tellPermit
  have hp' : (s.announceStage c (s.wind c).stage new cause).permit c = some p := by
    simp only [State.permit, State.announceStage_permits]; exact hp
  have hs := h.stage s c p new cause hp hn
  rw [hp']
  simp only
  have hr : R s ((s.announceStage c (s.wind c).stage new cause).replacePermit c p
      (p.followStage (s.wind c).stage new)) := by
    unfold State.replacePermit
    simp only
    split
    · exact hs
    · exact h.trans hs (h.toCascadeMoves.evaluateClaims c _)
  split
  · exact h.trans hr (h.toCascadeMoves.raise _ _ _)
  · exact hr

theorem riseTo (h : WindMoves R) (c : CraneId) (p : Permit) (new : Stage) (cause : StageCause)
    (s : State) (hp : s.permit c = some p) (hn : (s.wind c).stage ≠ new) : R s (s.riseTo c new cause) := by
  have := h.changeStage c p new cause (s.setHold c none) hp (by simpa [State.setHold] using hn)
  have he : ((s.setHold c none).wind c).stage = (s.wind c).stage := by simp [State.setHold]
  rw [he] at this
  exact h.trans (h.hold s c none) this

theorem testDescent (h : WindMoves R) (c : CraneId) (g : CraneConfig) (s : State) :
    R s (s.editWind c (Wind.testDescent g)) := by
  have he : s.editWind c (Wind.testDescent g) = s.setHold c ((s.wind c).testDescent g).holdTimer :=
    State.editWind_congr (Wind.testDescent_eq g _)
  rw [he]
  exact h.hold s c _

theorem rank_ne {a b : Stage} (hl : a.rank < b.rank) : a ≠ b := fun he => by subst he; omega

theorem ascend (h : WindMoves R) (c : CraneId) (p : Permit) (s : State) (hp : s.permit c = some p) :
    R s (s.ascend c p.config) := by
  unfold State.ascend
  simp only
  split
  · rename_i hl
    exact h.riseTo c p _ _ s hp (rank_ne hl)
  · exact h.refl s

theorem blindFloor (h : WindMoves R) (c : CraneId) (p : Permit) (s : State) (hp : s.permit c = some p) :
    R s (s.blindFloor c) := by
  unfold State.blindFloor
  split
  · rename_i hb
    simp only [Bool.and_eq_true, decide_eq_true_eq] at hb
    exact h.riseTo c p _ _ s hp (rank_ne hb.2)
  · exact h.refl s

theorem takeFigure (h : WindMoves R) (c : CraneId) (p : Permit) (s : State)
    (hp : s.permit c = some p) : R s (s.takeFigure c p.config) := by
  obtain ⟨q, hq, -⟩ := (configKept_wind.ascend c p s hp).some hp
  exact h.trans (h.trans (h.ascend c p s hp) (h.blindFloor c q _ hq)) (h.testDescent c _ _)

theorem endHold (h : WindMoves R) (c : CraneId) (s : State) : R s (s.endHold c) := by
  unfold State.endHold
  split
  · rename_i p hp ht
    simp only
    split
    · exact h.hold s c _
    · rename_i hs
      have hne : (s.wind c).stage ≠ (s.wind c).stage.below := by
        cases hst : (s.wind c).stage <;> simp_all [Stage.below]
      generalize (Wind.testDescent p.config _).holdTimer = t'
      refine h.trans (h.hold s c t') ?_
      have := h.changeStage c p (s.wind c).stage.below .hold (s.setHold c t') hp
        (by simpa [State.setHold] using hne)
      have he : ((s.setHold c t').wind c).stage = (s.wind c).stage := by simp [State.setHold]
      rwa [he] at this
  · exact h.refl s

theorem setGoverning (h : WindMoves R) (c : CraneId) (p : Permit) (s : State)
    (hp : s.permit c = some p) : R s (s.setGoverning c p) := by
  unfold State.setGoverning
  simp only
  split
  · exact h.trans (h.govern s c p hp) (h.toCascadeMoves.raise _ _ _)
  · exact h.govern s c p hp

/-- A whole governing evaluation (R100). -/
theorem governAll (h : WindMoves R) (c : CraneId) (s : State) : R s (s.govern c) := by
  unfold State.govern
  split
  · exact h.refl s
  · rename_i p hp
    simp only
    obtain ⟨q, hq, hqc⟩ := (configKept_wind.setGoverning c p s hp).some hp
    have h3 := h.trans (h.setGoverning c p s hp) (hqc ▸ h.takeFigure c q _ hq)
    split
    · exact h.trans (h.trans h3 (h.toCascadeMoves.recompute c _)) (h.toSwapMoves.checkBookings _ _ _)
    · exact h3

theorem governChannel (h : WindMoves R) (k : ChannelId) (s : State) : R s (s.governChannel k) :=
  h.toCascadeMoves.eachOpen _ _ _ (fun c _ s => h.governAll c s) s

end WindMoves

end Sys2Proof.Machine
end

