-- ==== Sys2Proof/Laws/SiteMoves.lean ====
section
/-! SUPPORT. What the operations on zones, claims and bookings can do, as chains of single moves
(chapters 1, 3, 4, 8 and 9). -/

namespace Sys2Proof.Machine

/-- A change of a zone's dynamic record that leaves its queue alone and gives it no new holder. -/
def KeepsClaims (f : ZoneDyn → ZoneDyn) : Prop :=
  ∀ d, (f d).queue = d.queue ∧
    ((f d).state.holding = none ∨ (f d).state.holding.map (·.holder) = d.state.holding.map (·.holder))

/-- The single moves of the Zone Arbiter beyond those of levels: none of them touches a booking. -/
structure ZoneMoves (R : State → State → Prop) : Prop extends LevelMoves R where
  applyDone : ∀ s, R s (s.setEvent .applyDone)
  rezone : ∀ s z f, KeepsClaims f → R s (s.editZone z f)
  drop : ∀ s z keep, R s (s.editZone z fun d => { d with queue := d.queue.filter keep })
  remark : ∀ s z c, R s (s.editZone z fun d =>
    { d with queue := d.queue.map fun cl => if cl.crane == c then { cl with booked := true } else cl })
  place : ∀ s z c booked emergency, s.heldBy z c = false → s.hasClaim z c = false →
    R s (s.place z c booked emergency)
  adopt : ∀ s z, R s (s.adopt z)

/-- The single moves of the Booking Calendar beyond those of zones. -/
structure SiteMoves (R : State → State → Prop) : Prop extends ZoneMoves R, SwapMoves R where
  booking : ∀ s id f, R s (s.editBooking id f)
  terminal : ∀ s, R s s.countTerminal

namespace ZoneMoves

variable {R : State → State → Prop}

theorem cascade (h : ZoneMoves R) : CascadeMoves R := h.toLevelMoves.toCascadeMoves

theorem evaluate (h : ZoneMoves R) (z : ZoneId) (s : State) : R s (s.evaluate z) :=
  h.cascade.evaluate z s

theorem each (h : ZoneMoves R) {α : Type} (xs : List α) (f : α → State → State)
    (hf : ∀ x ∈ xs, ∀ s, R s (f x s)) (s : State) : R s (s.each xs f) := h.cascade.each xs f hf s

theorem eachOpen (h : ZoneMoves R) {α : Type} (key : α → Nat) (xs : List α)
    (f : α → State → State) (hf : ∀ x ∈ xs, ∀ s, R s (f x s)) (s : State) :
    R s (s.eachOpen key xs f) := h.cascade.eachOpen key xs f hf s

theorem postBooking (h : ZoneMoves R) (id : Nat) (old : BookingState) (cause : BookingCause)
    (s : State) : R s (s.postBooking id old cause) := LevelMoves.postBooking h.cascade id old cause s

theorem dropClaims (h : ZoneMoves R) (z : ZoneId) (d : Claim → Bool) (reason : DropReason) (s : State) :
    R s (s.dropClaims z d reason) := by
  unfold State.dropClaims
  simp only
  split
  · exact h.refl s
  · exact h.trans (h.trans (h.drop s z fun c => !d c) (h.each _ _ (fun _ _ s => h.post _ _ _) _))
      (h.cascade.examine z _)

theorem dropUnadmitted (h : ZoneMoves R) (z : ZoneId) (s : State) : R s (s.dropUnadmitted z) := by
  unfold State.dropUnadmitted
  split
  · exact h.dropClaims _ _ _ _
  · exact h.refl s

theorem openFor (h : ZoneMoves R) (id : Nat) (z : ZoneId) (s : State) : R s (s.openFor id z) := by
  unfold State.openFor
  refine h.rezone s z _ fun d => ⟨rfl, ?_⟩
  cases d.state <;> simp [ZoneState.holding]

theorem openZone (h : ZoneMoves R) (id : Nat) (z : ZoneId) (s : State) : R s (s.openZone id z) := by
  unfold State.openZone
  simp only
  split
  · exact h.trans (h.openFor id z s) (h.evaluate z _)
  · exact h.trans (h.openFor id z s) (h.evaluate z _)
  · exact h.openFor id z s
  · exact h.openFor id z s

theorem changeKind (h : ZoneMoves R) (old : ZoneKind) (z : ZoneId) (s : State) :
    R s (s.changeKind old z) := by
  have closed : KeepsClaims fun d => { d with state := .closed } := fun d => ⟨rfl, Or.inl rfl⟩
  have free : KeepsClaims fun d => { d with state := .free, openedFor := none } :=
    fun d => ⟨rfl, Or.inl rfl⟩
  unfold State.changeKind
  split
  · exact h.trans (h.trans (h.rezone s z _ closed) (h.dropUnadmitted z _))
      (h.each _ _ (fun id _ s => h.openFor id z s) _)
  · exact h.rezone s z _ free
  · exact h.refl s
  · exact h.refl s

theorem completeApply (h : ZoneMoves R) (zs : List ZoneId) (s : State) : R s (s.completeApply zs) := by
  unfold State.completeApply
  have h1 := h.each zs State.adopt (fun z _ s => h.adopt s z) s
  have h2 := h.trans h1 (h.eachOpen Fin.val zs State.dropFootless (fun z _ s => h.dropClaims z _ _ s) _)
  have h3 := h.trans h2 (h.eachOpen Fin.val zs (fun z => State.changeKind (s.record z).kind z)
    (fun z _ s => h.changeKind _ z s) _)
  exact h.trans (h.trans (h.trans h3
    (h.eachOpen Fin.val (State.cranesWithEnvelope _) State.recompute
      (fun c _ s => h.cascade.recompute c s) _)) (h.cascade.evaluateAll _ _)) (h.applyDone _)

theorem completionTest (h : ZoneMoves R) (z : ZoneId) (s : State) : R s (s.completionTest z) := by
  unfold State.completionTest
  split
  · exact h.completeApply _ _
  · exact h.refl s

theorem closeZone (h : ZoneMoves R) (id : Nat) (z : ZoneId) (s : State) : R s (s.closeZone id z) := by
  have closed : KeepsClaims fun d =>
      { d with
        openedFor := none
        state := match d.state with
          | .free => .closed
          | .handover _ => .closed
          | .held h => .held h
          | .closed => .closed } := by
    rintro ⟨st, q, o, m⟩
    refine ⟨rfl, ?_⟩
    cases st <;> simp [ZoneState.holding]
  unfold State.closeZone
  split
  · exact h.trans (h.trans (h.rezone s z _ closed) (h.dropUnadmitted z _)) (h.completionTest z _)
  · exact h.dropUnadmitted z s

theorem endHolding (h : ZoneMoves R) (z : ZoneId) (c : CraneId) (revoked : Bool) (s : State) :
    R s (s.endHolding z c revoked) := by
  have next : ∀ x : ZoneState, x.holding = none → KeepsClaims fun d => { d with state := x } :=
    fun x hx d => ⟨rfl, Or.inl hx⟩
  have hx : ∀ (a : Bool) (n : Nat),
      (if a = true then ZoneState.closed else if 0 < n then .handover (seconds n) else .free).holding = none := by
    intro a n
    cases a
    · by_cases hn : 0 < n <;> simp [hn, ZoneState.holding]
    · rfl
  have h0 := h.rezone s z _ (next _ (hx (s.closing z) (s.record z).deadTime))
  unfold State.endHolding
  simp only
  generalize s.editZone z _ = s0 at *
  have h1 : R s (if revoked = true then s0.post c (.revoked z) else s0) := by
    split
    · exact h.trans h0 (h.post _ _ _)
    · exact h0
  generalize (if revoked = true then s0.post c (.revoked z) else s0) = s1 at *
  have h2 : R s (if (!s.closing z && (s.record z).deadTime == 0) = true then s1.evaluate z else s1) := by
    split
    · exact h.trans h1 (h.evaluate z _)
    · exact h1
  exact h.trans (h.trans h2 (h.cascade.recompute c _)) (h.completionTest z _)

theorem endHandover (h : ZoneMoves R) (z : ZoneId) (s : State) : R s (s.endHandover z) := by
  have free : KeepsClaims fun d => { d with state := .free } := fun d => ⟨rfl, Or.inl rfl⟩
  unfold State.endHandover
  split
  · exact h.trans (h.trans (h.rezone s z _ free) (h.evaluate z _)) (h.completionTest z _)
  all_goals exact h.refl s

theorem placeBooked (h : ZoneMoves R) (c : CraneId) (z : ZoneId) (s : State) :
    R s (s.placeBooked c z).2 := by
  unfold State.placeBooked
  split
  · exact h.refl s
  split
  · exact h.refl s
  split
  · exact h.toLevelMoves.relevel c z s
  split
  · exact h.trans (h.remark s z c) (h.toLevelMoves.relevel c z _)
  split
  · exact h.refl s
  · rename_i hh hc _
    exact h.trans (h.trans (h.place s z c true false (by simpa using hh) (by simpa using hc))
      (h.evaluate z _)) (h.cascade.examine z _)

end ZoneMoves

namespace SiteMoves

variable {R : State → State → Prop}

theorem placeListed (h : SiteMoves R) (id : Nat) (c : CraneId) (z : ZoneId) (s : State) :
    R s (s.placeListed id c z) := by
  have hp := h.toZoneMoves.placeBooked c z s
  unfold State.placeListed
  split
  · rename_i s' he; rw [he] at hp; exact hp
  · rename_i s' he; rw [he] at hp; exact h.trans hp (h.booking _ _ _)

theorem armBooking (h : SiteMoves R) (id : Nat) (cause : BookingCause) (s : State) :
    R s (s.armBooking id cause) := by
  unfold State.armBooking
  split
  · exact h.refl s
  · exact h.trans (h.trans (h.trans (h.booking _ _ _)
      (h.toZoneMoves.each _ _ (fun z _ s => h.placeListed id _ z s) _)) (h.toLevelMoves.relevelAll _ _ _))
      (h.toZoneMoves.postBooking _ _ _ _)

theorem startBooking (h : SiteMoves R) (id : Nat) (remaining : Nat) (cause : BookingCause) (s : State) :
    R s (s.startBooking id remaining cause) := by
  unfold State.startBooking
  split
  · exact h.refl s
  · rename_i b hb
    simp only
    refine h.trans ?_ (h.toZoneMoves.postBooking _ _ _ _)
    generalize hsus : (s.wind b.crane).suspends b.windLimit = sus
    have h2 := h.trans (h.booking s id fun b =>
      { b with remaining := remaining, state := if sus then .suspended else .active })
      (h.toLevelMoves.relevelAll b.crane b.zones _)
    generalize State.relevelAll b.crane b.zones _ = s2 at *
    have h3 : R s (if b.opens = true then
        s2.eachOpen Fin.val (s2.excludedAmong b.zones) (State.openZone id) else s2) := by
      split
      · exact h.trans h2 (h.toZoneMoves.eachOpen _ _ _ (fun z _ s => h.toZoneMoves.openZone id z s) _)
      · exact h2
    split
    · exact h.trans (h.trans h3 (h.toLevelMoves.refreshSuspension _ _)) (h.bookingEvent _)
    · exact h3

theorem recordEnd (h : SiteMoves R) (id : Nat) (new : BookingState) (s : State) :
    R s (s.recordEnd id new) := by
  unfold State.recordEnd
  split
  · exact h.trans (h.terminal s) (h.booking _ _ _)
  · exact h.booking _ _ _

theorem withdrawBooked (h : SiteMoves R) (id : Nat) (c : CraneId) (z : ZoneId) (s : State) :
    R s (s.withdrawBooked id c z) := by
  unfold State.withdrawBooked
  split
  · exact h.refl s
  · exact h.toZoneMoves.dropClaims _ _ _ _

theorem endBooking (h : SiteMoves R) (id : Nat) (new : BookingState) (cause : BookingCause)
    (s : State) : R s (s.endBooking id new cause) := by
  unfold State.endBooking
  split
  · exact h.refl s
  · rename_i b hb
    simp only
    refine h.trans ?_ (h.toZoneMoves.postBooking _ _ _ _)
    have h1 := h.recordEnd id new s
    generalize s.recordEnd id new = s1 at *
    have h2 := h.trans h1 (h.toZoneMoves.eachOpen Fin.val b.zones (State.withdrawBooked id b.crane)
      (fun z _ s => h.withdrawBooked id b.crane z s) s1)
    generalize State.eachOpen Fin.val b.zones (State.withdrawBooked id b.crane) s1 = s2 at *
    have h3 := h.trans (h.trans h2 (h.toZoneMoves.eachOpen Fin.val (s2.zonesToClose b) (State.closeZone id)
      (fun z _ s => h.toZoneMoves.closeZone id z s) s2)) (h.toLevelMoves.relevelAll b.crane b.zones _)
    split
    · exact h.trans h3 (h.toLevelMoves.refreshSuspension _ _)
    · exact h3

theorem runOut (h : SiteMoves R) (id : Nat) (s : State) : R s (s.runOut id) := by
  unfold State.runOut
  split
  · exact h.refl s
  · split
    · exact h.endBooking _ _ _ _
    · exact h.trans (h.bookingEvent s) (h.endBooking _ _ _ _)
    all_goals exact h.refl s

theorem tickBooking (h : SiteMoves R) (w m id : Nat) (s : State) : R s (s.tickBooking w m id) := by
  have run : ∀ b : Booking, R s
      (let s' := s.editBooking id fun b => { b with remaining := b.remaining - 1 }
       if b.remaining ≤ 1 then s'.runOut id else s') := by
    intro b
    simp only
    split
    · exact h.trans (h.booking _ _ _) (h.runOut id _)
    · exact h.booking _ _ _
  unfold State.tickBooking
  split
  · exact h.refl s
  · split
    · split
      · exact h.trans (h.armBooking _ _ _) (h.startBooking _ _ _ _)
      · split
        · exact h.armBooking _ _ _
        · exact h.refl s
    · split
      · exact h.startBooking _ _ _ _
      · exact h.refl s
    · exact run _
    · exact run _
    all_goals exact h.refl s

theorem tickBookings (h : SiteMoves R) (w m : Nat) (s : State) : R s (s.tickBookings w m) :=
  h.toZoneMoves.eachOpen _ _ _ (fun id _ s => h.tickBooking w m id s) s

theorem jumpBooking (h : SiteMoves R) (cause : BookingCause) (w m id : Nat) (s : State) :
    R s (s.jumpBooking cause w m id) := by
  unfold State.jumpBooking
  split
  · exact h.refl s
  · simp only
    split
    · split
      · exact h.trans (h.armBooking _ _ _) (h.startBooking _ _ _ _)
      · split
        · exact h.armBooking _ _ _
        · exact h.refl s
    · split
      · exact h.startBooking _ _ _ _
      · split
        · exact h.refl s
        · split
          · exact h.trans (h.bookingEvent s) (h.endBooking _ _ _ _)
          · exact h.endBooking _ _ _ _
    all_goals exact h.refl s

theorem jumpBookings (h : SiteMoves R) (cause : BookingCause) (s : State) :
    R s (s.jumpBookings cause) := by
  unfold State.jumpBookings
  split
  · exact h.refl s
  all_goals exact h.toZoneMoves.eachOpen _ _ _ (fun id _ s => h.jumpBooking _ _ _ id s) s

end SiteMoves

end Sys2Proof.Machine
end

