-- ==== Sys2Proof/Laws/RequestMoves.lean ====
section
/-! SUPPORT. What a request or an expiry can do behind the ports: every handler is a chain of single
moves, so a relation that holds across every move holds across every handler (`RequestMoves.serve`). -/

namespace Sys2Proof.Machine

/-- STOWING, STOWED and OFFLINE: the permits that the STOP stage leaves as they are (R113). -/
def PermitState.parked (x : PermitState) : Prop := x = .stowing ∨ x = .stowed ∨ x = .offline

/-- A permit edit that keeps a good record good, and leaves no parked permit while the stage is STOP. -/
def GoodPermitEdit (s : State) (c : CraneId) (p p' : Permit) : Prop :=
  (p.ok → p'.ok) ∧ ((s.wind c).stage = .stop → p.state.parked → p'.state.parked)

/-- The single moves of the handlers beyond those of zones, claims and bookings. -/
structure RequestMoves (R : State → State → Prop) : Prop extends SiteMoves R, WindMoves R where
  event : ∀ s e, R s (s.setEvent e)
  clearEvents : ∀ s, R s s.clearEvents
  enables : ∀ s t, R s { s with enables := t }
  areas : ∀ s areas, areasBad areas = false → R s (s.storeAreas areas)
  config : ∀ s c g, s.permitState c = .offline ∨ s.permitState c = .disarmed →
    10 ≤ g.restrictFactor ∧ g.restrictFactor ≤ 90 → R s (s.storeConfig c g)
  permit : ∀ s c p p', s.permit c = some p → GoodPermitEdit s c p p' →
    R s (s.editPermit c fun _ => p')
  position : ∀ s c f, R s (s.editPosition c f)
  channel : ∀ s k f, ((s.channel k).ok → (f (s.channel k)).ok) → R s (s.editChannel k f)
  shadow : ∀ s t, R s { s with shadow := t }
  upgrade : ∀ s z c cl level, s.claimOf z c = some cl →
    R s (s.editZone z fun d =>
      { d with queue := insertClaim { cl with emergency := true, level := level } (dropCrane c d.queue) })
  mark : ∀ s z h level, s.holding z = some h →
    R s (s.editZone z fun d => { d with state := .held { h with emergency := true, level := level } })
  clock : ∀ s k lead, (s.clockOk → ({ s with clock := k, leadTime := lead } : State).clockOk) →
    R s { s with clock := k, leadTime := lead }
  entry : ∀ s b, R s (s.addBooking b)
  restartBoxes : ∀ s, R s s.restartBoxes
  restartZones : ∀ s, R s s.restartZones
  restartPositions : ∀ s, R s s.restartPositions
  restartPermits : ∀ s, R s s.restartPermits
  restartWind : ∀ s, R s s.restartWind
  restartBookings : ∀ s, R s s.restartBookings
  restartKind : ∀ s x, R s { s with restart := x }

/-! ## Records that the commands write -/

theorem Permit.clear_iff {p : Permit} : p.clear = true ↔ ∀ i, Table.entry p.latched i = false := by
  simp [Permit.clear]

theorem Permit.ok_armed {p : Permit} (h : p.ok) (stage : Stage) (hc : p.clear = true) :
    (p.armAt (p.armedFactor stage)).ok := by
  obtain ⟨h1, h2, -⟩ := h
  have hc' : (p.armAt (p.armedFactor stage)).clear = true := hc
  have hf : p.armedFactor stage = 100 ∨ (10 ≤ p.armedFactor stage ∧ p.armedFactor stage ≤ 90) := by
    unfold Permit.armedFactor
    simp only
    split <;> split <;> omega
  refine ⟨h1, h2, ?_⟩
  simp only [Permit.armAt] at hc' ⊢
  rcases hf with hf | hf
  · simp only [hf, if_true]; exact ⟨trivial, hc'⟩
  · have : p.armedFactor stage ≠ 100 := by omega
    simp only [this, if_false]; exact ⟨hf.1, hf.2, hc'⟩

theorem goodPermitEdit_refl (s : State) (c : CraneId) (p : Permit) : GoodPermitEdit s c p p :=
  ⟨id, fun _ h => h⟩

theorem goodPermitEdit_register (s : State) (c : CraneId) (p : Permit) (ho : p.state = .offline) :
    GoodPermitEdit s c p (p.registered (s.wind c).stage) := by
  constructor
  · rintro ⟨h1, h2, h3⟩
    rw [ho] at h3
    unfold Permit.registered
    split
    · exact ⟨h1, h2, h3.1⟩
    · exact ⟨h1, h2, h3⟩
  · intro hs _
    simp [Permit.registered, hs, PermitState.parked]

theorem goodPermitEdit_disarm (s : State) (c : CraneId) (p : Permit) :
    GoodPermitEdit s c p p.disarm := by
  unfold Permit.disarm
  split
  · rename_i ha
    constructor
    · rintro ⟨h1, h2, h3⟩
      refine ⟨h1, h2, rfl, ?_⟩
      show p.clear = true
      cases hst : p.state <;> simp_all [PermitState.armed]
    · intro _ hp
      rcases hp with hp | hp | hp <;> simp [hp, PermitState.armed] at ha
  · exact goodPermitEdit_refl s c p

theorem goodPermitEdit_noteMode (s : State) (c : CraneId) (p : Permit) (m : Mode) :
    GoodPermitEdit s c p (p.noteMode m) := by
  unfold Permit.noteMode
  split
  · rename_i hst
    split
    · constructor
      · rintro ⟨h1, h2, h3⟩
        rw [hst] at h3
        exact ⟨h1, h2, h3⟩
      · intro _ _; exact Or.inr (Or.inl rfl)
    · exact goodPermitEdit_refl s c p
  · rename_i hst
    split
    · exact goodPermitEdit_refl s c p
    · exact ⟨fun h => h, fun _ h => h⟩
  all_goals exact goodPermitEdit_refl s c p

theorem State.armRefusal_none {s : State} {c : CraneId} {p : Permit} (h : s.armRefusal c p = none) :
    (p.state = .disarmed ∨ p.state = .stowed) ∧ p.clear = true ∧ (s.wind c).stage ≠ .stop := by
  unfold State.armRefusal at h
  repeat' split at h
  all_goals simp_all
  cases hst : p.state <;> simp_all

theorem goodPermitEdit_arm (s : State) (c : CraneId) (p : Permit) (h : s.armRefusal c p = none) :
    GoodPermitEdit s c p (p.arm (s.wind c).stage) := by
  obtain ⟨-, hc, hs⟩ := State.armRefusal_none h
  exact ⟨fun hp => Permit.ok_armed hp _ hc, fun h' => absurd h' hs⟩

theorem goodPermitEdit_mask (s : State) (c : CraneId) (p : Permit) (i l : Bool) :
    GoodPermitEdit s c p { p with maskIntrusion := i, maskSensorLoss := l } :=
  ⟨fun h => h, fun _ h => h⟩

theorem goodPermitEdit_stow (s : State) (c : CraneId) (p : Permit) :
    GoodPermitEdit s c p { p with stowTimer := none, stowOverdue := true } :=
  ⟨fun h => h, fun _ h => h⟩

theorem Cause.idx_cases (i : Fin 6) : ∃ cause : Cause, cause.idx = i := by
  fin_cases i
  exacts [⟨.encroach, rfl⟩, ⟨.intrusion, rfl⟩, ⟨.silence, rfl⟩, ⟨.yieldTimeout, rfl⟩,
    ⟨.plannerHalt, rfl⟩, ⟨.sensorLoss, rfl⟩]

/-- A RESUME keeps exactly the latched causes whose clearing condition fails (R128). -/
theorem State.remainingCauses_entry (s : State) (c : CraneId) (p : Permit) (cause : Cause) :
    Table.entry (s.remainingCauses c p) cause.idx = (p.hasLatched cause && !s.clears cause c) := by
  cases cause <;> rfl

theorem State.remainingCauses_clear {s : State} {c : CraneId} {p : Permit} (h : p.clear = true) :
    ({ p with latched := s.remainingCauses c p } : Permit).clear = true := by
  rw [Permit.clear_iff] at h ⊢
  intro i
  obtain ⟨cause, rfl⟩ := Cause.idx_cases i
  show Table.entry (s.remainingCauses c p) cause.idx = false
  rw [State.remainingCauses_entry]
  simp [Permit.hasLatched, h]

theorem goodPermitEdit_resume (s t : State) (c : CraneId) (p : Permit) :
    GoodPermitEdit s c p (p.resumed (t.remainingCauses c p)) := by
  unfold Permit.resumed
  simp only
  split
  · rename_i hh
    simp only [Bool.and_eq_true, beq_iff_eq] at hh
    constructor
    · rintro ⟨h1, h2, h3⟩
      exact ⟨h1, h2, rfl, hh.1⟩
    · intro _ hp
      rcases hp with hp | hp | hp <;> simp [hp] at hh
  · rename_i hh
    refine ⟨?_, fun _ h => h⟩
    rintro ⟨h1, h2, h3⟩
    refine ⟨h1, h2, ?_⟩
    cases hst : p.state <;> simp only [hst] at h3 hh ⊢
    · exact ⟨h3.1, State.remainingCauses_clear h3.2⟩
    · exact ⟨h3.1, State.remainingCauses_clear h3.2⟩
    · exact ⟨h3.1, State.remainingCauses_clear h3.2⟩
    · exact ⟨h3.1, h3.2.1, State.remainingCauses_clear h3.2.2⟩
    · exact ⟨h3.1, by simpa using hh⟩
    · exact h3
    · exact h3

/-! ## Channel records -/

theorem ringAppend_length (ring : List Nat) (x : Nat) (h : ring.length ≤ 12) :
    (ringAppend ring x).length ≤ 12 := by
  unfold ringAppend
  simp only
  split
  · simp; omega
  · rename_i hh; simp at hh ⊢; omega

theorem ringAppend_mem {ring : List Nat} {x y : Nat} (h : y ∈ ringAppend ring x) : y ∈ ring ∨ y = x := by
  unfold ringAppend at h
  simp only at h
  split at h
  · have := List.mem_of_mem_drop h; simpa using this
  · simpa using h

theorem ringAppend_ne_nil (ring : List Nat) (x : Nat) : ringAppend ring x ≠ [] := by
  unfold ringAppend
  simp only
  split
  · rename_i hh
    intro he
    have := congrArg List.length he
    simp only [List.length_drop, List.length_append, List.length_cons, List.length_nil] at this hh
    omega
  · simp

/-- A sample that makes or keeps a channel LIVE leaves a good record. -/
theorem Channel.ok_feed {k : Channel} {x : Nat} (hx : x ≤ 700) (hr : k.ring.length ≤ 12)
    (hm : ∀ y ∈ k.ring, y ≤ 700) (hb : k.bins.length ≤ 10) (ho : k.openCount ≤ 240)
    (hj : k.rejectedRun ≤ 7) (hv : k.recoveryRun ≤ 11) (hc : k.checkFailures ≤ 65535)
    (hd : k.rejected ≤ 65535) (he : k.enable = true) : (k.feed x).ok := by
  have h1 := ringAppend_length k.ring x hr
  have h2 := ringAppend_ne_nil k.ring x
  have h3 : ∀ y ∈ ringAppend k.ring x, y ≤ 700 := by
    intro y hy
    rcases ringAppend_mem hy with h | h
    · exact hm y h
    · omega
  unfold Channel.feed Channel.bin
  simp only
  split
  · refine ⟨h1, h3, hb, ?_, hj, hv, hc, hd, by simp [he], h2, rfl, rfl⟩
    simp only; omega
  · exact ⟨h1, h3, hb, ho, hj, hv, hc, hd, by simp [he], h2, rfl, rfl⟩

/-- An accepted sample on an enabled channel leaves a good record (R91, R92). -/
theorem Channel.ok_accept {k : Channel} {x : Nat} (h : k.ok) (hx : x ≤ 700) (he : k.enable = true) :
    (k.accept x).ok := by
  obtain ⟨h1, h2, h3, h4, h5, h6, h7, h8, h9, h10⟩ := h
  unfold Channel.accept
  simp only
  split
  · exact Channel.ok_feed hx h1 h2 h3 h4 (Nat.zero_le _) h6 h7 h8 he
  · exact Channel.ok_feed hx h1 h2 h3 h4 (Nat.zero_le _) h6 h7 h8 he
  · exact Channel.ok_feed hx h1 h2 h3 h4 (Nat.zero_le _) h6 h7 h8 he
  · rename_i hst
    split
    · refine ⟨ringAppend_length k.ring x h1, ?_, h3, h4, Nat.zero_le _, by simp only; omega, h7, h8,
        by simp [he], ?_⟩
      · intro y hy
        rcases ringAppend_mem hy with h | h
        · exact h2 y h
        · omega
      · simp only [hst] at h10 ⊢; exact h10
    · exact Channel.ok_feed hx h1 h2 h3 h4 (Nat.zero_le _) (Nat.zero_le _) h7 h8 he

theorem saturate_le (n : Nat) : saturate n ≤ 65535 := by unfold saturate; omega

/-- A rejected sample on an enabled channel leaves a good record (R89, R92). -/
theorem Channel.ok_reject {k : Channel} (h : k.ok) (he : k.enable = true) : k.reject.ok := by
  obtain ⟨h1, h2, h3, h4, h5, h6, h7, h8, h9, h10⟩ := h
  have hsat := saturate_le k.rejected
  have rest : (if k.rejectedRun + 1 < 8 then
        { k with rejected := saturate k.rejected, rejectedRun := k.rejectedRun + 1 }
      else
        { ({ k with rejected := saturate k.rejected } : Channel).cleared with
          state := .faulted, rejectedRun := 0, recoveryRun := 0 }).ok := by
    split
    · exact ⟨h1, h2, h3, h4, by simp only; omega, h6, h7, hsat, by simp [he], h10⟩
    · exact ⟨by simp [Channel.cleared], by simp [Channel.cleared], by simp [Channel.cleared],
        by simp [Channel.cleared], by simp, by simp, h7, hsat, by simp [Channel.cleared, he],
        by simp [Channel.cleared]⟩
  unfold Channel.reject
  simp only
  split
  · rename_i hst
    refine ⟨h1, h2, h3, h4, h5, Nat.zero_le _, h7, hsat, by simp [he], ?_⟩
    simp only [hst] at h10 ⊢; exact h10
  all_goals exact rest

/-- A good record that leaves LIVE for STALE or NO_SIGNAL is good (R90). -/
theorem Channel.ok_cleared {k : Channel} (h : k.ok) (x : ChannelState)
    (hx : x = .noSignal ∨ (x = .stale ∧ k.enable = true)) : ({ k.cleared with state := x } : Channel).ok := by
  obtain ⟨h1, h2, h3, h4, h5, h6, h7, h8, h9, h10⟩ := h
  refine ⟨by simp [Channel.cleared], by simp [Channel.cleared], by simp [Channel.cleared],
    by simp [Channel.cleared], h5, h6, h7, h8, ?_, ?_⟩
  · intro he
    rcases hx with hx | hx
    · exact hx
    · simp [Channel.cleared, hx.2] at he
  · rcases hx with hx | hx
    · subst hx; simp [Channel.cleared]
    · obtain ⟨hx, -⟩ := hx; subst hx; simp [Channel.cleared]

/-! ## The requests -/

namespace RequestMoves

variable {R : State → State → Prop}

theorem cascade (h : RequestMoves R) : CascadeMoves R := h.toCascadeMoves

theorem replace (h : RequestMoves R) {s : State} {c : CraneId} {p p' : Permit} (hp : s.permit c = some p)
    (hg : GoodPermitEdit s c p p') : R s (s.replacePermit c p p') :=
  h.toLevelMoves.replace (h.permit s c p p' hp hg)

theorem removeClaim (h : RequestMoves R) (z : ZoneId) (c : CraneId) (s : State) :
    R s (s.removeClaim z c) :=
  h.trans (h.drop s z _) (h.cascade.examine z _)

theorem register (h : RequestMoves R) (c : CraneId) (p : Permit) (s : State) (hp : s.permit c = some p)
    (ho : p.state = .offline) : R s (s.register c p) :=
  h.trans (h.trans (h.permit s c p _ hp (goodPermitEdit_register s c p ho)) (h.position _ _ _))
    (h.cascade.evaluateClaims c _)

theorem rehello (h : RequestMoves R) (c : CraneId) (s : State) : R s (s.rehello c) := by
  have h1 := h.cascade.eachOpen Fin.val (s.ownClaimZones c) (fun z s => s.removeClaim z c)
    (fun z _ s => h.removeClaim z c s) s
  unfold State.rehello
  simp only
  generalize s.eachOpen Fin.val (s.ownClaimZones c) (fun z s => s.removeClaim z c) = s1 at *
  split
  · exact h1
  · rename_i p hp
    exact h.trans h1 (h.replace hp (goodPermitEdit_disarm _ c p))

theorem serveHello (h : RequestMoves R) (c : CraneId) (body : List Byte) (s : State) :
    R s (Machine.serveHello c body s).2 := by
  unfold Machine.serveHello
  split
  · exact h.refl s
  · split
    · exact h.refl s
    · rename_i p hp
      split
      · exact h.refl s
      · simp only
        split
        · rename_i ho
          exact h.register c p s hp ho
        · exact h.rehello c s

theorem noteMode (h : RequestMoves R) (c : CraneId) (m : Mode) (s : State) : R s (s.noteMode c m) := by
  unfold State.noteMode
  split
  · exact h.refl s
  · rename_i p hp
    exact h.replace hp (goodPermitEdit_noteMode s c p m)

theorem takeReport (h : RequestMoves R) (c : CraneId) (p : Permit) (r : Report) (s : State) :
    R s (s.takeReport c p r) := by
  unfold State.takeReport
  simp only
  have h1 := h.position s c fun q => { q with report := some r, timer := some (tenths p.config.reportTime) }
  generalize s.editPosition c _ = s1 at *
  refine h.trans ?_ (h.cascade.recompute c _)
  refine h.trans ?_ (h.noteMode c _ _)
  split
  · exact h.trans h1 (h.trans (h.position s1 c fun q => { q with silent := false })
      (h.cascade.evaluateClaims c _))
  · exact h1

theorem serveReport (h : RequestMoves R) (c : CraneId) (body : List Byte) (s : State) :
    R s (Machine.serveReport c body s).2 := by
  unfold Machine.serveReport
  split
  · exact h.refl s
  · split
    · exact h.refl s
    · split
      · exact h.refl s
      · exact h.takeReport c _ _ s

theorem place_claimOf {s : State} {z : ZoneId} {c : CraneId} {b e : Bool} {cl : Claim}
    (h : (s.place z c b e).claimOf z c = some cl) : cl ∈ ((s.place z c b e).zone z).queue ∧ cl.crane = c :=
  ⟨List.mem_of_find?_eq_some h, by simpa using List.find?_some h⟩

/-- A renumbering changes arrival sequences only (R45). -/
theorem renumbered_zone (s : State) (y : ZoneId) :
    ∃ q, s.renumbered.zone y = { s.zone y with queue := q } :=
  ⟨(s.renumbered.zone y).queue, by simp only [State.renumbered, State.zone, Table.entry_mapAll]⟩

/-- A placement changes queues and arrival sequences only (R45, R51). -/
theorem place_zone (s : State) (z : ZoneId) (c : CraneId) (b e : Bool) (y : ZoneId) :
    ∃ q, (s.place z c b e).zone y = { s.zone y with queue := q } := by
  unfold State.place
  have base : ∀ u : State, ∃ q, (if 65535 ≤ s.arrivals then s.renumbered else s).zone y =
      { s.zone y with queue := q } := by
    intro _
    split
    · exact renumbered_zone s y
    · exact ⟨(s.zone y).queue, rfl⟩
  obtain ⟨q, hq⟩ := base s
  simp only
  generalize (if 65535 ≤ s.arrivals then s.renumbered else s) = u at *
  have hu : ({ u with arrivals := u.arrivals + 1 } : State).zone y = u.zone y := rfl
  rw [State.editZone_zone, hu, hq]
  split
  · exact ⟨_, rfl⟩
  · exact ⟨q, rfl⟩

theorem place_rest (s : State) (z : ZoneId) (c : CraneId) (b e : Bool) :
    ∃ zs n, s.place z c b e = { s with zones := zs, arrivals := n } := by
  refine ⟨(s.place z c b e).zones, (s.place z c b e).arrivals, ?_⟩
  have key : ∀ u : State, (∃ zs n, u = { s with zones := zs, arrivals := n }) →
      ∀ f, (({ u with arrivals := u.arrivals + 1 } : State).editZone z f) =
        { s with
          zones := ({ u with arrivals := u.arrivals + 1 } : State).editZone z f |>.zones
          arrivals := u.arrivals + 1 } := by
    rintro u ⟨zs, n, rfl⟩ f; rfl
  have hu : ∃ zs n, (if 65535 ≤ s.arrivals then s.renumbered else s) =
      { s with zones := zs, arrivals := n } := by
    split
    · exact ⟨s.renumbered.zones, s.renumbered.arrivals, rfl⟩
    · exact ⟨s.zones, s.arrivals, rfl⟩
  exact key _ hu _

/-- A placement leaves the grant conditions as they are. -/
theorem place_grantable (s : State) (z : ZoneId) (c : CraneId) (b e : Bool) :
    (s.place z c b e).grantable c z = s.grantable c z := by
  obtain ⟨q, hq⟩ := place_zone s z c b e z
  obtain ⟨zs, n, hr⟩ := place_rest s z c b e
  rw [hr] at hq ⊢
  unfold State.grantable State.grantableButMark State.openedForCrane
  rw [hq]
  rfl

theorem takeClaim (h : RequestMoves R) (c : CraneId) (z : ZoneId) (s : State)
    (hh : s.heldBy z c = false) (hc : s.hasClaim z c = false) : R s (s.takeClaim c z).2 := by
  have hp := h.place s z c false false hh hc
  unfold State.takeClaim
  split
  · rename_i hg
    simp only
    refine h.trans ?_ (h.cascade.settle _ _)
    split
    · exact hp
    · rename_i cl hcl
      obtain ⟨hm, hcr⟩ := place_claimOf hcl
      refine h.trans hp (h.cascade.grantTo z cl false _ hm ?_)
      rw [hcr, place_grantable]; exact hg
  · split
    · exact h.trans (h.trans hp (h.toZoneMoves.evaluate z _)) (h.cascade.examine z _)
    · exact h.refl s

theorem serveClaim (h : RequestMoves R) (c : CraneId) (body : List Byte) (s : State) :
    R s (Machine.serveClaim c body s).2 := by
  unfold Machine.serveClaim
  split
  · exact h.refl s
  · split
    · exact h.refl s
    · rename_i z _
      split
      · exact h.refl s
      split
      · exact h.refl s
      split
      · exact h.refl s
      rename_i hd
      simp only [Bool.or_eq_true, not_or, Bool.not_eq_true] at hd
      split
      · exact h.refl s
      split
      · exact h.refl s
      split
      · exact h.refl s
      exact h.takeClaim c z s hd.1 hd.2

theorem serveWithdraw (h : RequestMoves R) (c : CraneId) (body : List Byte) (s : State) :
    R s (Machine.serveWithdraw c body s).2 := by
  unfold Machine.serveWithdraw
  split
  · exact h.refl s
  · split
    · exact h.refl s
    · split
      · exact h.refl s
      · split
        · exact h.refl s
        · exact h.removeClaim _ _ _

theorem serveRelease (h : RequestMoves R) (c : CraneId) (body : List Byte) (s : State) :
    R s (Machine.serveRelease c body s).2 := by
  unfold Machine.serveRelease
  split
  · exact h.refl s
  · split
    · exact h.refl s
    · split
      · exact h.refl s
      · split
        · exact h.refl s
        · exact h.toZoneMoves.endHolding _ _ _ _

theorem serveArm (h : RequestMoves R) (c : CraneId) (s : State) : R s (Machine.serveArm c s).2 := by
  unfold Machine.serveArm
  split
  · exact h.refl s
  · rename_i p hp
    split
    · exact h.refl s
    · rename_i ha
      exact h.replace hp (goodPermitEdit_arm s c p ha)

theorem serveLiftDone (h : RequestMoves R) (c : CraneId) (body : List Byte) (s : State) :
    R s (Machine.serveLiftDone c body s).2 := by
  unfold Machine.serveLiftDone
  split
  · exact h.refl s
  · split
    · exact h.refl s
    · split
      · exact h.refl s
      · split
        · exact h.refl s
        · exact h.endBooking _ _ _ _

theorem paged_state (content : List Byte) (page : Nat) (b : Bool) (s : State) :
    (paged content page b s).2 = s := by
  unfold paged
  split <;> rfl

theorem serveStatus (h : RequestMoves R) (c : CraneId) (body : List Byte) (s : State) :
    R s (Machine.serveStatus c body s).2 := by
  unfold Machine.serveStatus
  split
  · exact h.refl s
  · rw [paged_state]; exact h.refl s

theorem serveConfigAreas (h : RequestMoves R) (body : List Byte) (s : State) :
    R s (Machine.serveConfigAreas body s).2 := by
  unfold Machine.serveConfigAreas
  split
  · exact h.refl s
  · rename_i hb
    exact h.areas s _ (by simpa using hb)

theorem configOf_factor {body : List Byte} {g : CraneConfig} (hg : configOf body = some g) :
    10 ≤ g.restrictFactor ∧ g.restrictFactor ≤ 90 := by
  unfold configOf at hg
  split at hg
  · simp only at hg
    split at hg
    · simp only [Option.some.injEq] at hg
      subst hg
      simp only [restrictFactorOf, clamp]
      split <;> omega
    · simp at hg
  · simp at hg

theorem takeConfig (h : RequestMoves R) (c : CraneId) (g : CraneConfig) (s : State)
    (hs : s.permitState c = .offline ∨ s.permitState c = .disarmed)
    (hg : 10 ≤ g.restrictFactor ∧ g.restrictFactor ≤ 90) : R s (s.takeConfig c g) := by
  unfold State.takeConfig
  simp only
  have h1 := h.config s c g hs hg
  generalize s.storeConfig c g = s2 at *
  refine h.trans (h.trans ?_ (h.cascade.recompute c _)) (h.toWindMoves.governAll c _)
  split
  · exact h.trans h1 (h.toLevelMoves.relevelAll _ _ _)
  · exact h1

theorem serveConfigCrane (h : RequestMoves R) (body : List Byte) (s : State) :
    R s (Machine.serveConfigCrane body s).2 := by
  unfold Machine.serveConfigCrane
  split
  · exact h.refl s
  · rename_i c _
    split
    · exact h.refl s
    · rename_i hs
      split
      · exact h.refl s
      · rename_i g hg
        refine h.takeConfig c g s ?_ (configOf_factor hg)
        by_cases ho : s.permitState c = .offline
        · exact Or.inl ho
        · exact Or.inr (by simpa [ho] using hs)

theorem configureChannel (h : RequestMoves R) (k : ChannelId) (enable : Bool) (stale : Nat) (s : State) :
    R s (s.configureChannel k enable stale) := by
  unfold State.configureChannel
  simp only
  have base : ∀ ch : Channel, ch.ok → (ch.enable = true → enable = true) →
      ({ ch with enable := enable, staleTime := stale, checkFailures := 0, rejected := 0 } : Channel).ok := by
    rintro ch ⟨h1, h2, h3, h4, h5, h6, h7, h8, h9, h10⟩ he
    refine ⟨h1, h2, h3, h4, h5, h6, Nat.zero_le _, Nat.zero_le _, ?_, h10⟩
    intro h'
    apply h9
    cases hce : ch.enable
    · rfl
    · have := he hce
      simp only at h'
      rw [h'] at this
      exact absurd this (by simp)
  have edit2 : ∀ f g : Channel → Channel, (s.editChannel k f).editChannel k g = s.editChannel k (g ∘ f) := by
    intro f g
    simp [State.editChannel, Table.edit, Function.comp]
  split
  · rename_i hoff
    simp only [Bool.and_eq_true, Bool.not_eq_true'] at hoff
    rw [edit2]
    have h2 := h.channel s k ((fun ch =>
        { ch.cleared with state := .noSignal, rejectedRun := 0, recoveryRun := 0 }) ∘ fun ch =>
        { ch with enable := enable, staleTime := stale, checkFailures := 0, rejected := 0 })
      (fun _ => ⟨by simp [Channel.cleared], by simp [Channel.cleared], by simp [Channel.cleared],
        by simp [Channel.cleared], by simp, by simp, by simp [Channel.cleared], by simp [Channel.cleared],
        by simp, by simp [Channel.cleared]⟩)
    split
    · exact h.trans h2 (h.toWindMoves.governChannel k _)
    · exact h2
  · rename_i hoff
    refine h.channel s k _ fun hok => base _ hok ?_
    intro he
    simpa [he] using hoff

theorem serveConfigChannel (h : RequestMoves R) (body : List Byte) (s : State) :
    R s (Machine.serveConfigChannel body s).2 := by
  unfold Machine.serveConfigChannel
  split
  · exact h.configureChannel _ _ _ _
  · exact h.refl s

theorem takeMask (h : RequestMoves R) (c : CraneId) (p : Permit) (i l : Bool) (s : State)
    (hp : s.permit c = some p) : R s (s.takeMask c p i l) := by
  unfold State.takeMask
  simp only
  have h0 := h.permit s c p _ hp (goodPermitEdit_mask s c p i l)
  have he : (s.editPermit c fun p => { p with maskIntrusion := i, maskSensorLoss := l }) =
      s.editPermit c fun _ => { p with maskIntrusion := i, maskSensorLoss := l } := by
    have hp' : Table.entry s.permits c = some p := hp
    simp only [Table.entry] at hp'
    simp [State.editPermit, Table.edit, hp']
  rw [he]
  generalize (s.editPermit c fun _ => { p with maskIntrusion := i, maskSensorLoss := l }) = s1 at *
  have h1 : R s (if (p.maskIntrusion && !i && s1.intruded c) = true then s1.raise .intrusion c else s1) := by
    split
    · exact h.trans h0 (h.cascade.raise _ _ _)
    · exact h0
  generalize (if (p.maskIntrusion && !i && s1.intruded c) = true then s1.raise .intrusion c else s1) = s2 at *
  split
  · exact h.trans h1 (h.cascade.raise _ _ _)
  · exact h1

theorem serveSetTripMask (h : RequestMoves R) (body : List Byte) (s : State) :
    R s (Machine.serveSetTripMask body s).2 := by
  unfold Machine.serveSetTripMask
  split
  · split
    · exact h.refl s
    · rename_i p hp
      exact h.takeMask _ p _ _ s hp
  · exact h.refl s

theorem serveStageZone (h : RequestMoves R) (body : List Byte) (s : State) :
    R s (Machine.serveStageZone body s).2 := by
  unfold Machine.serveStageZone
  split
  · split
    · exact h.refl s
    · exact h.shadow s _
  · exact h.refl s

theorem remarkZones (h : RequestMoves R) (zs : List ZoneId) (m : Bool) (s : State) :
    R s (s.each zs fun z s => s.editZone z fun d => { d with mark := m }) :=
  h.cascade.each zs (fun z s => s.editZone z fun d => { d with mark := m })
    (fun z _ s => h.rezone s z (fun d => { d with mark := m }) fun _ => ⟨rfl, Or.inr rfl⟩) s

theorem serveApplyGeometry (h : RequestMoves R) (s : State) : R s (Machine.serveApplyGeometry s).2 := by
  unfold Machine.serveApplyGeometry
  split
  · exact h.refl s
  split
  · exact h.refl s
  split
  · exact h.toZoneMoves.completeApply _ _
  · exact h.remarkZones _ true s

theorem serveAbandonApply (h : RequestMoves R) (s : State) : R s (Machine.serveAbandonApply s).2 := by
  unfold Machine.serveAbandonApply
  split
  · exact h.trans (h.remarkZones s.markedZones false s) (h.cascade.evaluateAll _ _)
  · exact h.refl s

theorem enterBooking (h : RequestMoves R) (b : Booking) (s : State) : R s (s.enterBooking b).2 := by
  unfold State.enterBooking
  simp only
  have h1 := h.entry s
    { b with id := s.freeId, state := .booked, remaining := 0, short := false, notPlaced := 0, terminalOrder := 0 }
  generalize s.addBooking _ = s2 at *
  split
  · exact h1
  all_goals exact h.trans h1 (h.jumpBooking _ _ _ _ _)

theorem serveBook (h : RequestMoves R) (body : List Byte) (s : State) :
    R s (Machine.serveBook body s).2 := by
  unfold Machine.serveBook
  split
  · exact h.refl s
  · rename_i f _
    simp only
    have := h.enterBooking (f.booking (s.stopThreshold f.crane)) s
    generalize s.enterBooking (f.booking (s.stopThreshold f.crane)) = r at *
    repeat' split
    all_goals first
      | exact h.refl s
      | exact this

theorem serveCancel (h : RequestMoves R) (body : List Byte) (s : State) :
    R s (Machine.serveCancel body s).2 := by
  unfold Machine.serveCancel
  split
  · exact h.refl s
  · split
    · exact h.refl s
    · simp only [State.cancelBooking]
      split
      · exact h.trans (h.recordEnd _ _ _) (h.toZoneMoves.postBooking _ _ _ _)
      · exact h.endBooking _ _ _ _

theorem takeSetClock (h : RequestMoves R) (w m lead : Nat) (hw : w ≤ 6) (hm : m ≤ 1439) (s : State) :
    R s (s.takeSetClock w m lead) := by
  unfold State.takeSetClock
  simp only
  refine h.trans (h.clock s _ _ ?_) (h.jumpBookings _ _)
  rintro -
  cases hk : s.clock.mode <;> refine ⟨?_, ?_, ?_, ?_, ?_, ?_⟩ <;> simp <;> omega

theorem serveSetClock (h : RequestMoves R) (body : List Byte) (s : State) :
    R s (Machine.serveSetClock body s).2 := by
  unfold Machine.serveSetClock
  split
  · exact h.refl s
  split
  · exact h.refl s
  · exact h.takeSetClock _ _ _ (by omega) (by omega) s

theorem clockEdit (h : RequestMoves R) (s : State) (k : Clock)
    (hk : s.clockOk → ({ s with clock := k } : State).clockOk) : R s { s with clock := k } :=
  h.clock s k s.leadTime hk

theorem serveHoldClock (h : RequestMoves R) (s : State) : R s (Machine.serveHoldClock s).2 := by
  unfold Machine.serveHoldClock
  split
  · exact h.refl s
  · refine h.clockEdit s _ ?_
    rintro ⟨h1, h2, h3, h4, h5, h6⟩
    exact ⟨h1, h2, h3, h4, by simp, by simp⟩
  · exact h.refl s

theorem serveRunClock (h : RequestMoves R) (s : State) : R s (Machine.serveRunClock s).2 := by
  unfold Machine.serveRunClock
  split
  · exact h.refl s
  · refine h.clockEdit s _ ?_
    rintro ⟨h1, h2, h3, h4, h5, h6⟩
    exact ⟨h1, h2, h3, h4, by simp, by simp⟩
  · exact h.refl s

theorem serveHalt (h : RequestMoves R) (body : List Byte) (s : State) :
    R s (Machine.serveHalt body s).2 := by
  unfold Machine.serveHalt
  split
  · exact h.refl s
  · split
    · exact h.refl s
    · exact h.cascade.raise _ _ _

theorem restartYield_keeps (n : Nat) : KeepsClaims (ZoneDyn.restartYield n) := by
  rintro ⟨st, q, o, m⟩
  unfold ZoneDyn.restartYield
  cases st with
  | held hd =>
    obtain ⟨a, b, c, d⟩ := hd
    rcases d with _ | ⟨t, _ | x⟩ <;> simp [ZoneState.holding]
  | _ => simp [ZoneState.holding]

theorem takeResume (h : RequestMoves R) (c : CraneId) (p : Permit) (s : State)
    (hp : s.permit c = some p) : R s (s.takeResume c p) := by
  unfold State.takeResume
  simp only
  have all : ∀ {R : State → State → Prop}, SiteMoves R → R s (s.restartYields c) := by
    intro R' h'
    exact h'.toZoneMoves.each _ _ (fun z _ s => h'.rezone s z _ (restartYield_keeps _)) s
  have hperm : (s.restartYields c).permits = s.permits := by
    unfold State.restartYields
    generalize s.heldZones c = zs
    induction zs generalizing s with
    | nil => rfl
    | cons z zs ih =>
      simp only [State.each, List.foldl_cons] at ih ⊢
      have hz := fun x => ih x
      have gen : ∀ (zs : List ZoneId) (u : State),
          (zs.foldl (fun s z => s.editZone z (ZoneDyn.restartYield (s.record z).yieldTime)) u).permits =
            u.permits := by
        intro zs
        induction zs with
        | nil => intro u; rfl
        | cons y ys ih2 => intro u; simp only [List.foldl_cons]; rw [ih2]; rfl
      rw [gen]; rfl
  split
  · have hp1 : (s.restartYields c).permit c = some p := by simp only [State.permit, hperm]; exact hp
    exact h.trans (all h.toSiteMoves) (h.replace hp1 (goodPermitEdit_resume _ s c p))
  · exact h.replace hp (goodPermitEdit_resume _ s c p)

theorem serveResume (h : RequestMoves R) (body : List Byte) (s : State) :
    R s (Machine.serveResume body s).2 := by
  unfold Machine.serveResume
  split
  · exact h.refl s
  · split
    · exact h.refl s
    · rename_i p hp
      split
      · exact h.refl s
      · exact h.takeResume _ p s hp

theorem takeEmergency (h : RequestMoves R) (c : CraneId) (z : ZoneId) (s : State) :
    R s (s.takeEmergency c z).2 := by
  unfold State.takeEmergency
  split
  · simp only [State.upgradeClaim]
    split
    · exact h.refl s
    · rename_i cl hcl
      exact h.trans (h.upgrade s z c cl _ hcl) (h.cascade.examine z _)
  · rename_i hc
    split
    · simp only [State.upgradeGrant]
      split
      · exact h.refl s
      · rename_i hd hh
        exact h.trans (h.mark s z hd _ hh) (h.cascade.examine z _)
    · rename_i hh
      exact h.trans (h.trans (h.place s z c false true (by simpa using hh) (by simpa using hc))
        (h.toZoneMoves.evaluate z _)) (h.cascade.examine z _)

theorem serveEmergencyClaim (h : RequestMoves R) (body : List Byte) (s : State) :
    R s (Machine.serveEmergencyClaim body s).2 := by
  unfold Machine.serveEmergencyClaim
  repeat' split
  all_goals first
    | exact h.refl s
    | exact h.takeEmergency _ _ s

theorem servePlannerWithdraw (h : RequestMoves R) (body : List Byte) (s : State) :
    R s (Machine.servePlannerWithdraw body s).2 := by
  unfold Machine.servePlannerWithdraw
  repeat' split
  all_goals first
    | exact h.refl s
    | exact h.toZoneMoves.dropClaims _ _ _ s

theorem serveForceRelease (h : RequestMoves R) (body : List Byte) (s : State) :
    R s (Machine.serveForceRelease body s).2 := by
  unfold Machine.serveForceRelease
  repeat' split
  all_goals first
    | exact h.refl s
    | exact h.toZoneMoves.endHolding _ _ _ s

theorem serveSetEventEnables (h : RequestMoves R) (body : List Byte) (s : State) :
    R s (Machine.serveSetEventEnables body s).2 := by
  unfold Machine.serveSetEventEnables
  split
  · exact h.refl s
  · exact h.enables s _

theorem serveSiteStatus (h : RequestMoves R) (body : List Byte) (s : State) :
    R s (Machine.serveSiteStatus body s).2 := by
  unfold Machine.serveSiteStatus
  rw [paged_state]; exact h.refl s

theorem serveCraneStatus (h : RequestMoves R) (body : List Byte) (s : State) :
    R s (Machine.serveCraneStatus body s).2 := by
  unfold Machine.serveCraneStatus
  repeat' split
  all_goals first
    | exact h.refl s
    | (rw [paged_state]; exact h.refl s)

theorem serveZoneStatus (h : RequestMoves R) (body : List Byte) (s : State) :
    R s (Machine.serveZoneStatus body s).2 := by
  unfold Machine.serveZoneStatus
  repeat' split
  all_goals first
    | exact h.refl s
    | (rw [paged_state]; exact h.refl s)

theorem serveBookingStatus (h : RequestMoves R) (body : List Byte) (s : State) :
    R s (Machine.serveBookingStatus body s).2 := by
  unfold Machine.serveBookingStatus
  repeat' split
  all_goals first
    | exact h.refl s
    | (rw [paged_state]; exact h.refl s)

/-- The stages of R180. -/
theorem takeColdRestart (h : RequestMoves R) (s : State) : R s s.takeColdRestart := by
  have h5 := h.trans (h.trans (h.trans (h.trans (h.trans (h.restartBoxes s) (h.restartZones _))
    (h.restartPositions _)) (h.restartPermits _)) (h.restartWind _))
    (h.cascade.eachOpen Fin.val
      s.restartBoxes.restartZones.restartPositions.restartPermits.restartWind.configuredCranes State.govern
      (fun c _ s => h.toWindMoves.governAll c s) _)
  have h6 := h.trans (h.trans (h.trans h5 (h.restartBookings _)) (h.jumpBookings .restart _))
    (h.event _ .restarted)
  exact h.trans h6 (h.restartKind _ .cold)

/-- What a crane request can do. -/
theorem serveCrane (h : RequestMoves R) (c : CraneId) (k : CraneKind) (body : List Byte) (s : State) :
    R s (Machine.serveCrane c k body s).2 := by
  cases k with
  | hello => exact h.serveHello c body s
  | report => exact h.serveReport c body s
  | claim => exact h.serveClaim c body s
  | withdraw => exact h.serveWithdraw c body s
  | release => exact h.serveRelease c body s
  | arm => exact h.serveArm c s
  | liftDone => exact h.serveLiftDone c body s
  | status => exact h.serveStatus c body s

/-- What a planner request can do. -/
theorem servePlanner (h : RequestMoves R) (k : PlannerKind) (body : List Byte) (s : State) :
    R s (Machine.servePlanner k body s).2 := by
  cases k with
  | configAreas => exact h.serveConfigAreas body s
  | configCrane => exact h.serveConfigCrane body s
  | configChannel => exact h.serveConfigChannel body s
  | setTripMask => exact h.serveSetTripMask body s
  | stageZone => exact h.serveStageZone body s
  | applyGeometry => exact h.serveApplyGeometry s
  | abandonApply => exact h.serveAbandonApply s
  | book => exact h.serveBook body s
  | cancel => exact h.serveCancel body s
  | setClock => exact h.serveSetClock body s
  | holdClock => exact h.serveHoldClock s
  | runClock => exact h.serveRunClock s
  | halt => exact h.serveHalt body s
  | resume => exact h.serveResume body s
  | emergencyClaim => exact h.serveEmergencyClaim body s
  | withdraw => exact h.servePlannerWithdraw body s
  | forceRelease => exact h.serveForceRelease body s
  | readEvents => exact h.clearEvents s
  | setEventEnables => exact h.serveSetEventEnables body s
  | siteStatus => exact h.serveSiteStatus body s
  | craneStatus => exact h.serveCraneStatus body s
  | zoneStatus => exact h.serveZoneStatus body s
  | bookingStatus => exact h.serveBookingStatus body s
  | coldRestart => exact h.takeColdRestart s

/-- What a completed request can do behind its port (R165). -/
theorem serve (h : RequestMoves R) (p : Port) (f : Frame) (s : State) : R s (Machine.serve p f s).2 := by
  unfold Machine.serve
  repeat' split
  all_goals first
    | exact h.refl s
    | exact h.serveCrane _ _ _ s
    | exact h.servePlanner _ _ s

/-! ## The expiries -/

theorem endYield (h : RequestMoves R) (z : ZoneId) (s : State) : R s (s.endYield z) := by
  unfold State.endYield
  split
  · exact h.refl s
  · rename_i hd hh
    split
    · exact h.trans (h.cascade.demand s z hd _ hh) (h.cascade.raise _ _ _)
    · exact h.refl s

theorem endReport (h : RequestMoves R) (c : CraneId) (s : State) : R s (s.endReport c) := by
  unfold State.endReport
  split
  · exact h.trans (h.position s c _) (h.cascade.raise _ _ _)
  · exact h.refl s

theorem editPermit_const {s : State} {c : CraneId} {p : Permit} (hp : s.permit c = some p)
    (f : Permit → Permit) : s.editPermit c f = s.editPermit c fun _ => f p := by
  have hp' : Table.entry s.permits c = some p := hp
  simp only [Table.entry] at hp'
  simp [State.editPermit, Table.edit, hp']

theorem endStow (h : RequestMoves R) (c : CraneId) (s : State) : R s (s.endStow c) := by
  unfold State.endStow
  split
  · exact h.refl s
  · rename_i p hp
    split
    · rw [editPermit_const hp]
      exact h.trans (h.permit s c p _ hp (goodPermitEdit_stow s c p)) (h.event _ _)
    · exact h.refl s

theorem nextMinute (h : RequestMoves R) (s : State) (hr : s.clock.mode = .running) : R s s.nextMinute := by
  unfold State.nextMinute
  simp only
  refine h.trans (h.clockEdit s _ ?_) (h.tickBookings _ _ _)
  rintro ⟨h1, h2, h3, h4, h5, h6⟩
  refine ⟨?_, ?_, Nat.zero_le _, h4, ?_, ?_⟩
  · simp only; split <;> omega
  · simp only; split <;> omega
  · simp [hr]
  · simp [hr]

/-- A clock whose second timer has run out is RUNNING. -/
theorem running_of_due {k : Clock} (h : k.due = true) : k.mode = .running := by
  simp only [Clock.due, Bool.and_eq_true, beq_iff_eq] at h; exact h.1

theorem endSecond (h : RequestMoves R) (s : State) : R s s.endSecond := by
  unfold State.endSecond
  split
  · rename_i hd
    have hr := running_of_due hd
    split
    · refine h.clockEdit s _ ?_
      rintro ⟨h1, h2, h3, h4, h5, h6⟩
      exact ⟨h1, h2, by simp only; omega, h4, by simp [hr], by simp [hr]⟩
    · exact h.nextMinute s hr
  · exact h.refl s

theorem tickMinute (h : RequestMoves R) (s : State) : R s s.tickMinute := by
  unfold State.tickMinute
  split
  · rename_i hd
    rw [Bool.and_eq_true] at hd
    exact h.nextMinute s (running_of_due hd.1)
  · exact h.refl s

theorem exhaust (h : RequestMoves R) (id : Nat) (s : State) : R s (s.exhaust id) := by
  unfold State.exhaust
  split
  · exact h.refl s
  · split
    · exact h.tickMinute s
    · exact h.refl s

theorem endStale (h : RequestMoves R) (k : ChannelId) (s : State) : R s (s.endStale k) := by
  unfold State.endStale
  simp only
  split
  · split
    · rename_i hl
      refine h.trans (h.trans (h.channel s k _ fun hok => ?_) (h.event _ _))
        (h.toWindMoves.governChannel k _)
      refine Channel.ok_cleared hok .stale (Or.inr ⟨rfl, ?_⟩)
      obtain ⟨-, -, -, -, -, -, -, -, h9, -⟩ := hok
      cases he : (s.channel k).enable
      · have := h9 he; rw [hl] at this; cases this
      · rfl
    · rename_i t hl
      refine h.channel s k _ fun hok => ?_
      obtain ⟨h1, h2, h3, h4, h5, h6, h7, h8, h9, h10⟩ := hok
      refine ⟨h1, h2, h3, h4, h5, h6, h7, h8, h9, ?_⟩
      cases hst : (s.channel k).state <;> simp_all
  · exact h.refl s

theorem endBin (h : RequestMoves R) (k : ChannelId) (s : State) : R s (s.endBin k) := by
  unfold State.endBin
  simp only
  split
  case isFalse => exact h.refl s
  have h0 := h.channel s k (fun ch => { ch with binTimer := seconds 60 }) (fun hok => hok)
  split
  · rename_i hl
    refine h.trans (h.trans h0 (h.channel _ k Channel.closeBin fun hok => ?_))
      (h.toWindMoves.governChannel k _)
    have hst : ((s.editChannel k fun ch => { ch with binTimer := seconds 60 }).channel k).state = .live := by
      simpa using hl
    generalize (s.editChannel k fun ch => { ch with binTimer := seconds 60 }).channel k = ch at *
    obtain ⟨h1, h2, h3, h4, h5, h6, h7, h8, h9, h10⟩ := hok
    rw [hst] at h10
    refine ⟨h1, h2, ?_, Nat.zero_le _, h5, h6, h7, h8, h9, ?_⟩
    · simp only [Channel.closeBin]
      split
      · simp; omega
      · rename_i hh; simp at hh ⊢; omega
    · simp only [Channel.closeBin, hst]
      exact h10
  · exact h0

theorem takeSample (h : RequestMoves R) (k : ChannelId) (speed : Nat) (ok : Bool) (s : State)
    (he : (s.channel k).enable = true) : R s (s.takeSample k speed ok) := by
  unfold State.takeSample
  simp only
  split
  · rename_i hx
    simp only [Bool.and_eq_true, decide_eq_true_eq] at hx
    have h0 := h.channel s k (fun ch => ch.accept speed) fun hok => Channel.ok_accept hok hx.2 he
    split
    · exact h.trans h0 (h.toWindMoves.governChannel k _)
    · exact h0
  · have h0 := h.channel s k Channel.reject fun hok => Channel.ok_reject hok he
    generalize s.editChannel k Channel.reject = s1 at *
    have h1 : R s (if (s.channel k).state ≠ .faulted ∧ (s1.channel k).state = .faulted then
        s1.setEvent .sensor else s1) := by
      split
      · exact h.trans h0 (h.event _ _)
      · exact h0
    generalize (if (s.channel k).state ≠ .faulted ∧ (s1.channel k).state = .faulted then
        s1.setEvent .sensor else s1) = s2 at *
    split
    · exact h.trans h1 (h.toWindMoves.governChannel k _)
    · exact h1

end RequestMoves

end Sys2Proof.Machine
end

