-- ==== Sys2Proof/Laws/CommandMoves.lean ====
section
/-! SUPPORT. What a whole command can do: a chain of the moves of the handlers and of the ports, so a
relation that holds across every move holds across every command (`CommandMoves.exec`). -/

namespace Sys2Proof.Machine

/-- The single moves of the commands beyond those of the handlers. -/
structure CommandMoves (R : State → State → Prop) : Prop extends RequestMoves R where
  link : ∀ s p f, R s (s.editLink p f)
  startTx : ∀ s p, R s (s.startTx p)
  line : ∀ s l r, R s (s.setLine l r)
  clearLoss : ∀ s p, R s (s.clearLoss p)
  restarted : ∀ s, R s s.restarted

namespace CommandMoves

variable {R : State → State → Prop}

theorem takeRequest (h : CommandMoves R) (p : Port) (f : Frame) (s : State) : R s (s.takeRequest p f) := by
  unfold State.takeRequest
  simp only
  have h1 := h.trans (h.link s p fun l => { l with serving := true }) (h.toRequestMoves.serve p f _)
  generalize serve p f (s.editLink p fun l => { l with serving := true }) = x at *
  refine h.trans (h.trans ?_ (h.link _ p _)) (h.startTx _ p)
  split
  · exact h.trans h1 (h.clearLoss _ p)
  · exact h1

theorem dropOversize (h : CommandMoves R) (p : Port) (s : State) : R s (s.dropOversize p) :=
  h.trans (h.link s p _) (h.event _ _)

theorem dropDamaged (h : CommandMoves R) (p : Port) (s : State) : R s (s.dropDamaged p) :=
  h.trans (h.link s p _) (h.event _ _)

theorem dropLate (h : CommandMoves R) (p : Port) (s : State) : R s (s.dropLate p) := by
  unfold State.dropLate
  split
  · exact h.trans (h.link s p _) (h.event _ _)
  all_goals exact h.refl s

theorem completed (h : CommandMoves R) (p : Port) (f : Frame) (s : State) : R s (s.completed p f) := by
  unfold State.completed
  simp only
  have h1 := h.link s p fun l => { l with rx := .hunt }
  split
  · exact h.trans (h.trans h1 (h.link _ p _)) (h.event _ _)
  · split
    · exact h.trans h1 (h.link _ p _)
    · exact h.trans h1 (h.takeRequest p f _)

theorem portByte (h : CommandMoves R) (p : Port) (b : Byte) (s : State) : R s (s.portByte p b) := by
  unfold State.portByte
  split
  · split
    · exact h.link s p _
    · exact h.refl s
  · split
    · exact h.link s p _
    · exact h.dropOversize p s
    · exact h.dropDamaged p s
    · exact h.completed p _ s

theorem portBytes (h : CommandMoves R) (p : Port) (bs : List Byte) (s : State) : R s (s.portBytes p bs) :=
  State.each_rel h.refl (fun h1 h2 => h.trans h1 h2) bs _ (fun b _ s => h.portByte p b s) s

theorem arrive (h : CommandMoves R) (p : Port) (f : Frame) (s : State) : R s (s.arrive p f) :=
  h.portBytes p _ s

theorem endTx (h : CommandMoves R) (p : Port) (s : State) : R s (s.endTx p) := by
  unfold State.endTx
  split
  · exact h.refl s
  · exact h.trans (h.link s p _) (h.startTx _ p)
  · simp only
    split
    · exact h.trans (h.link s p _) (h.startTx _ p)
    · exact h.trans (h.link s p _) (h.takeRequest p _ _)

theorem dropSample (h : CommandMoves R) (l : ChannelId) (s : State) : R s (s.dropSample l) := by
  refine h.trans (h.line s l .hunt) (h.channel _ l _ fun hok => ?_)
  obtain ⟨h1, h2, h3, h4, h5, h6, h7, h8, h9, h10⟩ := hok
  exact ⟨h1, h2, h3, h4, h5, h6, saturate_le _, h8, h9, h10⟩

theorem lateSample (h : CommandMoves R) (l : ChannelId) (s : State) : R s (s.lateSample l) := by
  unfold State.lateSample
  split
  · exact h.dropSample l s
  all_goals exact h.refl s

theorem passSample (h : CommandMoves R) (l : ChannelId) (speed : BitVec 16) (status : Byte) (s : State) :
    R s (s.passSample l speed status) := by
  unfold State.passSample
  simp only
  have h1 := h.line s l .hunt
  split
  · rename_i he
    exact h.trans h1 (h.toRequestMoves.takeSample l _ _ _ he)
  · exact h1

theorem lineByte (h : CommandMoves R) (l : ChannelId) (b : Byte) (s : State) : R s (s.lineByte l b) := by
  unfold State.lineByte
  split
  · split
    · exact h.line s l _
    · exact h.refl s
  · split
    · split
      · exact h.passSample l _ _ s
      · exact h.dropSample l s
    · exact h.line s l _

theorem lineBytes (h : CommandMoves R) (l : ChannelId) (bs : List Byte) (s : State) : R s (s.lineBytes l bs) :=
  State.each_rel h.refl (fun h1 h2 => h.trans h1 h2) bs _ (fun b _ s => h.lineByte l b s) s

/-- A relation that holds across every single move holds across every command. -/
theorem exec (h : CommandMoves R) {i : Instr} {s t : State} (he : Machine.exec i s = .next t) : R s t := by
  cases i <;> cases he
  case powerOn => exact h.restarted s
  case reset => exact h.restarted s
  case frameOversize a => exact h.portBytes a.port a.bytes s
  case frameCrcError a => exact h.portBytes a.port a.bytes s
  case frameCompletionTimeout p => exact h.dropLate p s
  case transmissionEnd p => exact h.endTx p s
  case sample l v x => exact h.lineBytes l _ s
  case sampleCheckFailure a => exact h.lineBytes a.line a.bytes s
  case sampleFrameTimeout l => exact h.lateSample l s
  case handoverTimerExpiry z => exact h.toZoneMoves.endHandover z s
  case yieldTimerExpiry z => exact h.toRequestMoves.endYield z s
  case reportTimerExpiry c => exact h.toRequestMoves.endReport c s
  case staleTimerExpiry k => exact h.toRequestMoves.endStale k s
  case binTimerExpiry k => exact h.toRequestMoves.endBin k s
  case holdTimerExpiry c => exact h.toWindMoves.endHold c s
  case stowTimerExpiry c => exact h.toRequestMoves.endStow c s
  case secondTimerExpiry => exact h.toRequestMoves.endSecond s
  case minuteTick => exact h.toRequestMoves.tickMinute s
  case remainingMinutesZero id => exact h.toRequestMoves.exhaust id s
  case syncByteInHunt p => exact h.portByte p _ s
  case startCharacterInHunt l => exact h.lineByte l _ s
  all_goals exact h.arrive _ _ s

end CommandMoves

end Sys2Proof.Machine
end

