-- ==== Sys2Proof/Laws/HandOffs.lean ====
section
/-! SUPPORT. What grant evaluation, recomputation and the raising of causes may do, said once
(`HandOffs` of Safety.lean): `handOffs_settle` and its instances for the named operations. -/

namespace Sys2Proof.Machine

/-! ## The relations of Safety.lean, one record at a time -/

theorem Link.mayStart_refl (a : Link) : a.mayStart a := ⟨rfl, fun _ => rfl⟩

theorem Link.mayStart_trans {a b c : Link} (h1 : a.mayStart b) (h2 : b.mayStart c) : a.mayStart c := by
  obtain ⟨e1, k1⟩ := h1
  obtain ⟨e2, k2⟩ := h2
  refine ⟨by rw [e2, e1], fun h => ?_⟩
  have hb := k1 h
  subst hb
  exact k2 h

theorem NoticeBox.mayPost_refl (a : NoticeBox) : a.mayPost a := ⟨rfl, rfl, id, id⟩

theorem NoticeBox.mayPost_trans {a b c : NoticeBox} (h1 : a.mayPost b) (h2 : b.mayPost c) :
    a.mayPost c :=
  ⟨h2.1.trans h1.1, h2.2.1.trans h1.2.1, h2.2.2.1 ∘ h1.2.2.1, h2.2.2.2 ∘ h1.2.2.2⟩

theorem ZoneDyn.mayPass_refl (a : ZoneDyn) : a.mayPass a := by
  refine ⟨rfl, rfl, ?_⟩
  cases hs : a.state with
  | held h => exact ⟨rfl, h.demand, rfl⟩
  | free => exact Or.inl rfl
  | closed => rfl
  | handover n => rfl

theorem ZoneDyn.mayPass_trans {a b c : ZoneDyn} (h1 : a.mayPass b) (h2 : b.mayPass c) : a.mayPass c := by
  obtain ⟨o1, m1, k1⟩ := h1
  obtain ⟨o2, m2, k2⟩ := h2
  refine ⟨o2.trans o1, m2.trans m1, ?_⟩
  cases hs : a.state with
  | closed =>
    rw [hs] at k1
    simp only at k1
    subst k1
    rw [hs] at k2
    exact k2
  | handover n =>
    rw [hs] at k1
    simp only at k1
    subst k1
    rw [hs] at k2
    exact k2
  | held h =>
    rw [hs] at k1
    obtain ⟨q1, d, hb⟩ := k1
    rw [hb] at k2
    obtain ⟨q2, d', hc⟩ := k2
    exact ⟨q2.trans q1, d', hc⟩
  | free =>
    rw [hs] at k1
    simp only at k1 ⊢
    rcases k1 with k1 | ⟨hm, cl, hcl, d, hq, hb⟩
    · subst k1
      rw [hs] at k2
      exact k2
    · rw [hb] at k2
      obtain ⟨q2, d', hc⟩ := k2
      exact Or.inr ⟨hm, cl, hcl, d', q2.trans hq, hc⟩

theorem Permit.mayLatch_refl (p : Permit) : p.mayLatch p := by
  refine ⟨rfl, fun _ h => h, ?_⟩
  cases hs : p.state <;> simp

theorem Permit.mayLatch_trans {p q r : Permit} (h1 : p.mayLatch q) (h2 : q.mayLatch r) :
    p.mayLatch r := by
  obtain ⟨e1, l1, k1⟩ := h1
  obtain ⟨e2, l2, k2⟩ := h2
  refine ⟨by rw [e2, e1], fun c h => l2 c (l1 c h), ?_⟩
  have hclear : ∀ c, q.hasLatched c = true → r.clear = false := by
    intro c hc
    have := l2 c hc
    cases hr : r.clear
    · rfl
    · rw [Permit.clear_iff] at hr
      simp [Permit.hasLatched, hr] at this
  have live : q = p ∨ (q.state = .halted ∧ q.factor = 0 ∧ q.clear = false) →
      (p.state = .disarmed ∨ p.state = .running ∨ p.state = .derated) →
      r = p ∨ (r.state = .halted ∧ r.factor = 0 ∧ r.clear = false) := by
    intro h hp
    rcases h with h | ⟨ha, hf, hc⟩
    · subst h
      rcases hp with hp | hp | hp <;> rw [hp] at k2 <;> exact k2
    · rw [ha] at k2
      refine Or.inr ⟨k2.1, k2.2.trans hf, ?_⟩
      have : ∃ c, q.hasLatched c = true := by
        apply Classical.byContradiction
        intro hn
        have : q.clear = true := by
          rw [Permit.clear_iff]
          intro i
          obtain ⟨c, rfl⟩ := Cause.idx_cases i
          cases hx : Table.entry q.latched c.idx
          · rfl
          · exact absurd ⟨c, hx⟩ hn
        rw [this] at hc
        cases hc
      obtain ⟨c, hc⟩ := this
      exact hclear c hc
  cases hs : p.state with
  | offline =>
    rw [hs] at k1
    simp only at k1
    subst k1
    rw [hs] at k2
    exact k2
  | disarmed => rw [hs] at k1; exact live k1 (Or.inl hs)
  | running => rw [hs] at k1; exact live k1 (Or.inr (Or.inl hs))
  | derated => rw [hs] at k1; exact live k1 (Or.inr (Or.inr hs))
  | halted =>
    rw [hs] at k1
    rw [k1.1] at k2
    exact ⟨k2.1, k2.2.trans k1.2⟩
  | stowing =>
    rw [hs] at k1
    rw [k1.1] at k2
    exact ⟨k2.1, k2.2.trans k1.2⟩
  | stowed =>
    rw [hs] at k1
    rw [k1.1] at k2
    exact ⟨k2.1, k2.2.trans k1.2⟩

theorem permitMayLatch_refl (p : Option Permit) : permitMayLatch p p := by
  cases p with
  | none => trivial
  | some p => exact p.mayLatch_refl

theorem permitMayLatch_trans {p q r : Option Permit} (h1 : permitMayLatch p q)
    (h2 : permitMayLatch q r) : permitMayLatch p r := by
  cases p <;> cases q <;> cases r <;> simp only [permitMayLatch] at h1 h2 ⊢
  exact Permit.mayLatch_trans h1 h2

/-! ## The moves -/

/-- A move that touches none of what a crane, a zone or a port shows is a hand-off. -/
theorem HandOffs.refl (s : State) : HandOffs s s := by
  constructor
  case links => exact fun p => Link.mayStart_refl _
  case boxes => exact fun c => NoticeBox.mayPost_refl _
  case zones => exact fun z => ZoneDyn.mayPass_refl _
  case permits => exact fun c => permitMayLatch_refl _
  all_goals simp

theorem HandOffs.trans {s t u : State} (h : HandOffs s t) (k : HandOffs t u) : HandOffs s u where
  lines := k.lines.trans h.lines
  enables := k.enables.trans h.enables
  restart := k.restart.trans h.restart
  channels := k.channels.trans h.channels
  winds := k.winds.trans h.winds
  active := k.active.trans h.active
  shadow := k.shadow.trans h.shadow
  arrivals := k.arrivals.trans h.arrivals
  clock := k.clock.trans h.clock
  leadTime := k.leadTime.trans h.leadTime
  bookings := k.bookings.trans h.bookings
  nextId := k.nextId.trans h.nextId
  terminals := k.terminals.trans h.terminals
  pending := k.pending.trans h.pending
  links p := Link.mayStart_trans (h.links p) (k.links p)
  planner := k.planner.trans h.planner
  boxes c := NoticeBox.mayPost_trans (h.boxes c) (k.boxes c)
  flags e he := k.flags e (h.flags e he)
  otherFlags e h1 h2 h3 := (k.otherFlags e h1 h2 h3).trans (h.otherFlags e h1 h2 h3)
  zones z := ZoneDyn.mayPass_trans (h.zones z) (k.zones z)
  reports c := ⟨(k.reports c).1.trans (h.reports c).1, (k.reports c).2.1.trans (h.reports c).2.1,
    (k.reports c).2.2.trans (h.reports c).2.2⟩
  permits c := permitMayLatch_trans (h.permits c) (k.permits c)

/-- What the start of a frame does to the links (R167). -/
theorem State.startTx_link (s : State) (p q : Port) :
    (s.link q).mayStart ((s.startTx p).link q) := by
  unfold State.startTx
  simp only
  split
  · exact Link.mayStart_refl _
  · rename_i hg
    simp only [Bool.or_eq_true, not_or, Bool.not_eq_true, bne_eq_false_iff_eq] at hg
    have edit : ∀ x, (s.link q).mayStart ((s.editLink p fun l => { l with tx := x }).link q) := by
      intro x
      rw [State.editLink_link]
      split
      · rename_i hq
        subst hq
        refine ⟨rfl, fun h => ?_⟩
        rcases h with h | h
        · rw [hg.1] at h; cases h
        · exact absurd hg.2 h
      · exact Link.mayStart_refl _
    split
    · exact edit _
    · split
      · exact Link.mayStart_refl _
      · split
        · exact Link.mayStart_refl _
        · exact edit _

theorem State.startTx_planner (s : State) (c : CraneId) :
    (s.startTx (.crane c)).link .planner = s.link .planner := by
  have e : ∀ (u : State) f, (u.editLink (.crane c) f).link .planner = u.link .planner := by
    intro u f; rw [State.editLink_link]; simp
  unfold State.startTx
  simp only
  split
  · rfl
  · split
    · exact e _ _
    · split
      · rfl
      · exact e _ _

theorem State.startTx_box (s : State) (p : Port) (c : CraneId) :
    (s.box c).mayPost ((s.startTx p).box c) := by
  unfold State.startTx
  simp only
  split
  · exact NoticeBox.mayPost_refl _
  · split
    · exact NoticeBox.mayPost_refl _
    · split
      · exact NoticeBox.mayPost_refl _
      · split
        · exact NoticeBox.mayPost_refl _
        · rename_i n rest hq
          have : ∀ (u : State) q f, (u.editLink q f).box c = u.box c := fun _ _ _ => rfl
          rw [this, State.editBox_box]
          split
          · rename_i hc
            subst hc
            refine ⟨rfl, rfl, id, fun h => ?_⟩
            rw [hq] at h
            simp only [List.length_cons, NoticeBox.capacity] at h ⊢
            omega
          · exact NoticeBox.mayPost_refl _

/-- A posting is a hand-off (R170). -/
theorem HandOffs.post (s : State) (c : CraneId) (n : Notice) : HandOffs s (s.post c n) := by
  have e : ∀ (u : State) f q, (u.editBox c f).link q = u.link q := fun _ _ _ => rfl
  constructor
  case links =>
    intro p
    unfold State.post
    simp only
    split
    · exact State.startTx_link _ (.crane c) p
    · exact Link.mayStart_refl _
  case planner =>
    unfold State.post
    simp only
    split
    · exact State.startTx_planner _ c
    · rfl
  case boxes =>
    intro d
    unfold State.post
    simp only
    split
    · rename_i hl
      refine NoticeBox.mayPost_trans ?_ (State.startTx_box _ (.crane c) d)
      rw [State.editBox_box]
      split
      · rename_i hd
        subst hd
        refine ⟨rfl, rfl, id, fun _ => ?_⟩
        simp only [List.length_append, List.length_cons, List.length_nil, NoticeBox.capacity] at hl ⊢
        omega
      · exact NoticeBox.mayPost_refl _
    · rw [State.setEvent_box, State.editBox_box]
      split
      · exact ⟨rfl, rfl, fun _ => rfl, id⟩
      · exact NoticeBox.mayPost_refl _
  case flags =>
    intro x hx
    unfold State.post
    simp only
    split
    · simpa [State.event] using hx
    · rw [State.setEvent_event]
      have : (s.editBox c fun b => { b with loss := true }).event x = s.event x := rfl
      simp [this, hx]
  case otherFlags =>
    intro x h1 h2 h3
    unfold State.post
    simp only
    split
    · simp [State.event]
    · rw [State.setEvent_event]
      simp [h3]
  case zones => intro z; simp only [State.post_zone]; exact ZoneDyn.mayPass_refl _
  case permits => intro d; simp only [State.post_permit]; exact permitMayLatch_refl _
  all_goals simp

/-- A site event that the hand-offs may set. -/
theorem HandOffs.setEvent (s : State) (e : SiteEvent) (he : e = .trip ∨ e = .silence) :
    HandOffs s (s.setEvent e) := by
  constructor
  case links => exact fun p => Link.mayStart_refl _
  case boxes => exact fun c => NoticeBox.mayPost_refl _
  case zones => exact fun z => ZoneDyn.mayPass_refl _
  case permits => exact fun c => permitMayLatch_refl _
  case flags => intro x hx; simp [State.setEvent_event, hx]
  case otherFlags =>
    intro x h1 h2 h3
    rw [State.setEvent_event]
    rcases he with he | he <;> subst he <;> simp [h1, h2]
  all_goals simp

/-- A move of one zone. -/
theorem HandOffs.editZone (s : State) (z : ZoneId) (f : ZoneDyn → ZoneDyn)
    (hf : (s.zone z).mayPass (f (s.zone z))) : HandOffs s (s.editZone z f) := by
  constructor
  case links => exact fun p => Link.mayStart_refl _
  case boxes => exact fun c => NoticeBox.mayPost_refl _
  case permits => exact fun c => permitMayLatch_refl _
  case zones =>
    intro y
    rw [State.editZone_zone]
    split
    · rename_i hy; subst hy; exact hf
    · exact ZoneDyn.mayPass_refl _
  case flags => exact fun _ h => h
  case otherFlags => exact fun _ _ _ _ => rfl
  case reports => exact fun _ => ⟨rfl, rfl, rfl⟩
  all_goals rfl

/-- A move of one position record that keeps report, timer and silence. -/
theorem HandOffs.editPosition (s : State) (c : CraneId) (f : Position → Position)
    (hf : (f (s.position c)).report = (s.position c).report ∧
      (f (s.position c)).timer = (s.position c).timer ∧ (f (s.position c)).silent = (s.position c).silent) :
    HandOffs s (s.editPosition c f) := by
  constructor
  case links => exact fun p => Link.mayStart_refl _
  case boxes => exact fun c => NoticeBox.mayPost_refl _
  case permits => exact fun c => permitMayLatch_refl _
  case zones => exact fun z => ZoneDyn.mayPass_refl _
  case flags => exact fun _ h => h
  case otherFlags => exact fun _ _ _ _ => rfl
  case reports =>
    intro d
    rw [State.editPosition_position]
    split
    · rename_i hd; subst hd; exact hf
    · exact ⟨rfl, rfl, rfl⟩
  all_goals rfl

/-- A move of one permit record. -/
theorem HandOffs.editPermit (s : State) (c : CraneId) (p q : Permit) (hp : s.permit c = some p)
    (hf : p.mayLatch q) : HandOffs s (s.editPermit c fun _ => q) := by
  constructor
  case links => exact fun p => Link.mayStart_refl _
  case boxes => exact fun c => NoticeBox.mayPost_refl _
  case zones => exact fun z => ZoneDyn.mayPass_refl _
  case permits =>
    intro d
    rw [State.editPermit_permit]
    split
    · rename_i hd; subst hd; rw [hp]; exact hf
    · exact permitMayLatch_refl _
  case flags => exact fun _ h => h
  case otherFlags => exact fun _ _ _ _ => rfl
  case reports => exact fun _ => ⟨rfl, rfl, rfl⟩
  all_goals rfl

theorem Permit.hasLatched_latch {p : Permit} {a b : Cause} (h : p.hasLatched b = true) :
    (p.latch a).hasLatched b = true := by
  simp only [Permit.hasLatched, Permit.latch, Table.entry_edit] at h ⊢
  split
  · rfl
  · exact h

theorem Permit.latch_clear (p : Permit) (a : Cause) : (p.latch a).clear = false := by
  cases hc : (p.latch a).clear
  · rfl
  · rw [Permit.clear_iff] at hc
    have := hc a.idx
    simp [Permit.latch] at this

/-- The moves of the agenda are hand-offs. -/
theorem handOffs_cascade : CascadeMoves HandOffs where
  refl := HandOffs.refl
  trans := HandOffs.trans
  chosen s := by
    constructor
    case links => exact fun p => Link.mayStart_refl _
    case boxes => exact fun c => NoticeBox.mayPost_refl _
    case permits => exact fun c => permitMayLatch_refl _
    case zones => exact fun z => ZoneDyn.mayPass_refl _
    case flags => exact fun _ h => h
    case otherFlags => exact fun _ _ _ _ => rfl
    case reports => exact fun _ => ⟨rfl, rfl, rfl⟩
    all_goals rfl
  post := HandOffs.post
  trip s := HandOffs.setEvent s _ (Or.inl rfl)
  silence s := HandOffs.setEvent s _ (Or.inr rfl)
  grant s z cl hq hg := by
    apply HandOffs.editZone
    simp only [State.grantable, State.grantableButMark, Bool.and_eq_true, beq_iff_eq,
      Bool.not_eq_true'] at hg
    refine ⟨rfl, rfl, ?_⟩
    rw [hg.1.1.1.1.1]
    exact Or.inr ⟨hg.2, cl, hq, none, rfl, rfl⟩
  demand s z h d hh := by
    have hs : (s.zone z).state = .held h := by
      simp only [State.holding, ZoneState.holding] at hh
      split at hh
      · rename_i hd he; rw [he]; simpa using hh
      · cases hh
    apply HandOffs.editZone
    refine ⟨rfl, rfl, ?_⟩
    rw [hs]
    exact ⟨rfl, d, rfl⟩
  figures s c r p _ _ := HandOffs.editPosition s c _ ⟨rfl, rfl, rfl⟩
  judge s c := by
    unfold State.judgeStage
    simp only
    split
    · exact HandOffs.editPosition s c _ ⟨rfl, rfl, rfl⟩
    · exact HandOffs.refl s
  latchKeep s c p cause hp hs _ _ := by
    refine HandOffs.editPermit s c p _ hp ⟨rfl, fun b hb => Permit.hasLatched_latch hb, ?_⟩
    rcases hs with hs | hs | hs <;> rw [hs] <;> exact ⟨hs, rfl⟩
  latchHalt s c p cause hp hs _ := by
    refine HandOffs.editPermit s c p _ hp ⟨rfl, fun b hb => Permit.hasLatched_latch hb, ?_⟩
    have hc := p.latch_clear cause
    rcases hs with hs | hs | hs <;> rw [hs] <;> exact Or.inr ⟨rfl, rfl, hc⟩

/-- All that an agenda may do. -/
theorem handOffs_settle (ts : List Task) (s : State) : HandOffs s (s.settle ts) :=
  handOffs_cascade.settle ts s

theorem handOffs_evaluate (z : ZoneId) (s : State) : HandOffs s (s.evaluate z) :=
  handOffs_cascade.evaluate z s

theorem handOffs_recompute (c : CraneId) (s : State) : HandOffs s (s.recompute c) :=
  handOffs_cascade.recompute c s

theorem handOffs_raise (cause : Cause) (c : CraneId) (s : State) : HandOffs s (s.raise cause c) :=
  handOffs_cascade.raise cause c s

theorem handOffs_evaluateClaims (c : CraneId) (s : State) : HandOffs s (s.evaluateClaims c) :=
  handOffs_cascade.evaluateClaims c s

theorem handOffs_evaluateAll (zs : List ZoneId) (s : State) : HandOffs s (s.evaluateAll zs) :=
  handOffs_cascade.evaluateAll zs s

end Sys2Proof.Machine
end

