-- ==== Sys2Proof/Laws/Cascade.lean ====
section
/-! SUPPORT. The agenda ends: each task lowers what the agenda can lead to, so the bound that it is run
on is never used up (`run_finishes`; log entry 17). -/

namespace Sys2Proof.Machine

theorem sum_map_set {α : Type} (l : List α) (i : Nat) (h : i < l.length) (x : α) (f : α → Nat) :
    ((l.set i x).map f).sum + f l[i] = (l.map f).sum + f x := by
  induction l generalizing i with
  | nil => simp at h
  | cons a l ih =>
    cases i with
    | zero => simp; omega
    | succ i =>
      have := ih i (by simpa using h)
      simp only [List.set_cons_succ, List.map_cons, List.sum_cons, List.getElem_cons_succ]
      omega

/-- The number of queued claims, zone by zone. -/
theorem State.length_allClaims (s : State) :
    s.allClaims.length = (s.zones.toList.map fun d => d.queue.length).sum := by
  simp [State.allClaims, List.length_flatMap]

theorem State.length_allClaims_editZone (s : State) (z : ZoneId) (f : ZoneDyn → ZoneDyn) :
    (s.editZone z f).allClaims.length + (s.zone z).queue.length =
      s.allClaims.length + (f (s.zone z)).queue.length := by
  rw [State.length_allClaims, State.length_allClaims]
  have h := sum_map_set s.zones.toList z.val (by simp) (f (s.zone z)) fun d => d.queue.length
  have h2 : s.zones.toList[z.val]'(by simp) = s.zone z := by
    simp [State.zone, Table.entry]
  rw [h2] at h
  rw [← h]
  simp [State.editZone, Table.edit, Vector.toList_set, State.zone, Table.entry]

theorem length_allClaims_of_zones {s t : State} (h : t.zones = s.zones) :
    t.allClaims.length = s.allClaims.length := by
  simp only [State.allClaims, h]

theorem length_dropCrane_lt {q : List Claim} {cl : Claim} (h : cl ∈ q) :
    (dropCrane cl.crane q).length < q.length := by
  unfold dropCrane
  refine lt_of_le_of_ne (List.length_filter_le _ _) fun he => ?_
  have := List.length_filter_eq_length_iff.1 he cl h
  simp at this

/-- What the tasks and the queued claims can still lead to. -/
theorem agendaBound_eq (ts : List Task) (s : State) :
    agendaBound ts s = (ts.map Task.weight).sum + 2500 * s.allClaims.length := rfl

theorem sum_evaluates (zs : List ZoneId) :
    ((zs.map Task.evaluate).map Task.weight).sum = zs.length := by
  induction zs with
  | nil => rfl
  | cons z zs ih => simp only [List.map_cons, List.sum_cons, ih, Task.weight, List.length_cons]; omega

theorem sum_handOffs (xs : List (ZoneId × Bool)) (c : CraneId) :
    ((xs.map fun x => Task.handOff x.1 c x.2).map Task.weight).sum = 51 * xs.length := by
  induction xs with
  | nil => rfl
  | cons x xs ih => simp only [List.map_cons, List.sum_cons, ih, Task.weight, List.length_cons]; omega

theorem sum_defer (c : CraneId) (ts : List Task) :
    ((deferRecompute c ts).map Task.weight).sum ≤ (ts.map Task.weight).sum + 2499 := by
  induction ts with
  | nil => simp [deferRecompute]
  | cons t ts ih =>
    unfold deferRecompute
    split <;> simp only [List.map_cons, List.sum_cons, Task.weight] at ih ⊢ <;> omega

theorem length_claimTasks (c : CraneId) (s : State) :
    ((s.claimTasks c).map Task.weight).sum ≤ 48 := by
  unfold State.claimTasks
  rw [sum_evaluates, State.length_arranged]
  exact le_trans (List.length_filter_le _ _) (by simp [allZones])

theorem takeCause_zones (cause : Cause) (c : CraneId) (s : State) :
    (s.takeCause cause c).2.zones = s.zones := by
  have e : (s.silenceEvent cause).zones = s.zones := by unfold State.silenceEvent; split <;> rfl
  unfold State.takeCause
  split
  · rfl
  · split
    · rfl
    all_goals split
    all_goals
      simp only [State.latchKeep, State.latchHalt, State.setEvent_zones, State.post_zones,
        State.editPermit_zones, e]

theorem handOffTasks_weight (z : ZoneId) (d : CraneId) (e : Bool) (s : State) :
    ((s.handOffTasks z d e).map Task.weight).sum ≤ 50 := by
  unfold State.handOffTasks
  rw [List.map_append, List.sum_append]
  refine Nat.add_le_add (b := 49) (d := 1) ?_ ?_
  · split
    · split <;> simp [Task.weight]
    · simp
  · split <;> simp [Task.weight]

theorem examine_claims (z : ZoneId) (s : State) : (s.examine z).allClaims.length = s.allClaims.length := by
  have d : ∀ h x, (s.setDemand z h x).allClaims.length = s.allClaims.length := by
    intro h x
    have := State.length_allClaims_editZone s z fun dyn => { dyn with state := .held { h with demand := x } }
    simp only at this
    unfold State.setDemand
    omega
  unfold State.examine
  split
  · rfl
  · split <;> simp only [State.post_allClaims, d]

/-- Every task lowers the bound: grants use up a claim, and nothing else leads to as much as it is. -/
theorem doTask_lowers (t : Task) (rest : List Task) (s : State) :
    agendaBound (doTask t rest s).1 (doTask t rest s).2 < agendaBound (t :: rest) s := by
  simp only [agendaBound_eq, List.map_cons, List.sum_cons]
  cases t with
  | evaluate z =>
    simp only [doTask]
    split
    · simp only [Task.weight]; omega
    · rename_i cl hcl
      have hq := (State.firstEligible_some hcl).1
      have hz := State.length_allClaims_editZone s z (ZoneDyn.grant cl)
      have hl : (s.grantTo z cl true).allClaims.length + 1 ≤ s.allClaims.length := by
        have : (s.grantTo z cl true).allClaims = (s.editZone z (ZoneDyn.grant cl)).allClaims := by
          simp [State.grantTo]
        rw [this]
        have := length_dropCrane_lt hq
        simp only [ZoneDyn.grant] at hz this
        omega
      have ha : ((afterGrant z cl.crane rest).map Task.weight).sum ≤ (rest.map Task.weight).sum + 2500 := by
        unfold afterGrant
        split
        · have := sum_defer cl.crane rest
          simp only [List.map_cons, List.sum_cons, Task.weight]
          omega
        · simp only [List.map_cons, List.sum_cons, Task.weight]
          omega
      simp only [Task.weight]
      omega
  | recompute c =>
    simp only [doTask]
    split
    · simp only [Task.weight]; omega
    · rename_i changes s' hr
      have hz : s'.allClaims.length = s.allClaims.length ∧ changes.length ≤ 48 := by
        unfold State.recomputeStage at hr
        split at hr
        · simp only [Option.some.injEq, Prod.mk.injEq] at hr
          obtain ⟨h1, h2⟩ := hr
          subst h1 h2
          refine ⟨length_allClaims_of_zones rfl, ?_⟩
          rw [State.length_arranged, occupancyChanges, List.length_map]
          exact le_trans (List.length_filter_le _ _) (by simp [allZones])
        · cases hr
      rw [List.map_append, List.sum_append, sum_handOffs]
      simp only [List.map_cons, List.sum_cons, Task.weight]
      omega
  | handOff z d e =>
    have := handOffTasks_weight z d e s
    simp only [doTask, List.map_append, List.sum_append, Task.weight]
    omega
  | judge c =>
    simp only [doTask]
    have hz : (s.judgeStage c).allClaims.length = s.allClaims.length := by
      apply length_allClaims_of_zones
      unfold State.judgeStage
      simp only
      split <;> rfl
    split <;> simp only [List.map_cons, List.sum_cons, Task.weight] <;> omega
  | raise cause c =>
    have hz := takeCause_zones cause c s
    simp only [doTask]
    split
    · rename_i s' he
      rw [he] at hz
      have := length_claimTasks c s'
      have hc : s'.chosen.allClaims.length = s.allClaims.length := length_allClaims_of_zones hz
      rw [List.map_append, List.sum_append]
      simp only [Task.weight]
      omega
    · rename_i s' he
      rw [he] at hz
      have hc : s'.allClaims.length = s.allClaims.length := length_allClaims_of_zones hz
      simp only [Task.weight]
      omega
  | examine z =>
    have := examine_claims z s
    simp only [doTask, Task.weight]
    omega

theorem weight_pos (t : Task) : 0 < t.weight := by cases t <;> simp [Task.weight]

/-- Any two bounds that are large enough run the agenda to the same state. -/
theorem run_stable (n m : Nat) (ts : List Task) (s : State) (hn : agendaBound ts s ≤ n)
    (hm : agendaBound ts s ≤ m) : run n ts s = run m ts s := by
  induction n generalizing m ts s with
  | zero =>
    cases ts with
    | nil => cases m <;> rfl
    | cons t ts =>
      have := weight_pos t
      simp only [agendaBound_eq, List.map_cons, List.sum_cons] at hn
      omega
  | succ n ih =>
    cases ts with
    | nil => cases m <;> rfl
    | cons t ts =>
      have hl := doTask_lowers t ts s
      cases m with
      | zero => omega
      | succ m =>
        simp only [run]
        exact ih m _ _ (by omega) (by omega)

/-- The agenda ends within its bound: a run on any larger bound reaches the same state. -/
theorem run_finishes (ts : List Task) (s : State) (n : Nat) (hn : agendaBound ts s ≤ n) :
    run n ts s = s.settle ts := run_stable n _ ts s hn le_rfl

/-- The agenda taken task by task. -/
theorem settle_cons (t : Task) (ts : List Task) (s : State) :
    s.settle (t :: ts) = (doTask t ts s).2.settle (doTask t ts s).1 := by
  have hl := doTask_lowers t ts s
  rw [← run_finishes (doTask t ts s).1 (doTask t ts s).2 (agendaBound (t :: ts) s - 1) (by omega)]
  have hb : agendaBound (t :: ts) s = agendaBound (t :: ts) s - 1 + 1 := by omega
  unfold State.settle
  rw [hb]
  rfl

@[simp] theorem settle_nil (s : State) : s.settle [] = s := by
  unfold State.settle
  cases agendaBound [] s <;> rfl

end Sys2Proof.Machine
end

