-- ==== Sys2Proof/Laws/Ports.lean ====
section
/-! SUPPORT. Ports and requests: a request leaves every link but its own as hand-offs may, and its own
alone until its response is placed (R166, R167); a request at a ready port in one equation. -/

namespace Sys2Proof.Machine

/-- Every link as hand-offs may leave it. -/
def LinksThrough (s t : State) : Prop := ∀ p, (s.link p).mayStart (t.link p)

theorem linksThrough_of_links {s t : State} (h : t.links = s.links) : LinksThrough s t := by
  intro p
  have : t.link p = s.link p := by simp only [State.link, h]
  rw [this]
  exact Link.mayStart_refl _

theorem linksThrough_trans {s t u : State} (h1 : LinksThrough s t) (h2 : LinksThrough t u) :
    LinksThrough s u := fun p => Link.mayStart_trans (h1 p) (h2 p)

theorem linksThrough_announce (s : State) (c : CraneId) (new : Stage) (cause : StageCause)
    (f : Permit → Permit) :
    LinksThrough s ((s.announceStage c (s.wind c).stage new cause).editPermit c f) := by
  refine linksThrough_trans ?_ (linksThrough_of_links (State.editPermit_links _ _ _))
  unfold State.announceStage
  simp only
  refine linksThrough_trans ?_ (HandOffs.post _ _ _).links
  apply linksThrough_of_links
  split
  · rw [State.setEvent_links, State.editWind_links]
  · rw [State.editWind_links]

theorem restartZones_links (s : State) : s.restartZones.links = s.links := by
  unfold State.restartZones
  dsimp only

/-- No handler touches a link but by the start of a notice. -/
theorem linksThrough_request : RequestMoves LinksThrough where
  refl s := linksThrough_of_links rfl
  trans h1 h2 p := Link.mayStart_trans (h1 p) (h2 p)
  chosen s := linksThrough_of_links rfl
  post s c n := (HandOffs.post s c n).links
  trip s := linksThrough_of_links rfl
  silence s := linksThrough_of_links rfl
  grant s z cl _ _ := linksThrough_of_links rfl
  demand s z h d _ := linksThrough_of_links rfl
  figures s c r p _ _ := linksThrough_of_links rfl
  judge s c := (handOffs_cascade.judge s c).links
  latchKeep s c p cause _ _ _ _ := linksThrough_of_links rfl
  latchHalt s c p cause _ _ _ := linksThrough_of_links rfl
  windStop s := linksThrough_of_links rfl
  bookingEvent s := linksThrough_of_links rfl
  reclaim s z c cl level _ := linksThrough_of_links rfl
  regrant s z h level _ := linksThrough_of_links rfl
  suspend s c p _ := linksThrough_of_links rfl
  swap s id new := linksThrough_of_links rfl
  hold s c t := linksThrough_of_links rfl
  govern s c p _ := linksThrough_of_links rfl
  stage s c p new cause _ _ := linksThrough_announce s c new cause _
  applyDone s := linksThrough_of_links rfl
  rezone s z f _ := linksThrough_of_links rfl
  drop s z keep := linksThrough_of_links rfl
  remark s z c := linksThrough_of_links rfl
  place s z c b e _ _ := by
    obtain ⟨zs, n, h⟩ := RequestMoves.place_rest s z c b e
    rw [h]
    exact linksThrough_of_links rfl
  adopt s z := linksThrough_of_links rfl
  booking s id f := linksThrough_of_links rfl
  terminal s := by
    apply linksThrough_of_links
    show (if 65535 ≤ s.terminals then s.renumberTerminals else s).links = s.links
    split <;> rfl
  event s e := linksThrough_of_links rfl
  clearEvents s := linksThrough_of_links rfl
  enables s t := linksThrough_of_links rfl
  areas s a _ := linksThrough_of_links rfl
  config s c g _ _ := linksThrough_of_links rfl
  permit s c p p' _ _ := linksThrough_of_links rfl
  position s c f := linksThrough_of_links rfl
  channel s k f _ := linksThrough_of_links rfl
  shadow s t := linksThrough_of_links rfl
  upgrade s z c cl level _ := linksThrough_of_links rfl
  mark s z h level _ := linksThrough_of_links rfl
  clock s k lead _ := linksThrough_of_links rfl
  entry s b := by
    apply linksThrough_of_links
    unfold State.addBooking State.makeSlot
    simp only
    split
    · rfl
    · split <;> rfl
  restartBoxes s := linksThrough_of_links rfl
  restartZones s := linksThrough_of_links (restartZones_links s)
  restartPositions s := linksThrough_of_links rfl
  restartPermits s := linksThrough_of_links rfl
  restartWind s := linksThrough_of_links rfl
  restartBookings s := linksThrough_of_links rfl
  restartKind s x := linksThrough_of_links rfl

/-- While a port's request is under way, nothing else touches its link. -/
theorem serve_link (p : Port) (f : Frame) (s : State) (h : (s.link p).serving = true) :
    (serve p f s).2.link p = s.link p := (linksThrough_request.serve p f s p).2 (Or.inl h)

theorem State.editLink_editLink (s : State) (p : Port) (f g : Link → Link) :
    (s.editLink p f).editLink p g = s.editLink p (g ∘ f) := by
  simp [State.editLink, Table.edit, Function.comp]

theorem State.clearLoss_link (s : State) (p q : Port) : (s.clearLoss p).link q = s.link q := by
  cases p <;> rfl

/-- The state behind the ports that a request on the port leads to, with the flag it clears. -/
def State.afterServe (p : Port) (f : Frame) (s : State) : State :=
  let served := serve p f (s.underway p)
  if served.1.clearLoss then served.2.clearLoss p else served.2

/-- The response to a request on the port (R165, R171). -/
def State.responseTo (p : Port) (f : Frame) (s : State) : Response :=
  let served := serve p f (s.underway p)
  respond f served.1 (served.2.lossOn p)

/-! ### The bytes of a frame (R88, R164) -/

/-- A frame in bytes is the length byte and L + 4 further bytes (R162). -/
theorem requestBytes_eq (f : Frame) (hf : f.body.length ≤ 60) :
    requestBytes f = BitVec.ofNat 8 f.body.length :: f.kind :: f.tag :: (f.body ++
      twoBytes (crc16 (BitVec.ofNat 8 f.body.length :: f.kind :: f.tag :: f.body)).toNat) := by
  unfold requestBytes
  rw [if_neg (by omega)]
  simp [afterSync, byte]

/-- A part of a frame's bytes leaves more to come (R164). -/
theorem receptionOf_prefix (f : Frame) (hf : f.body.length ≤ 60) (got rest : List Byte)
    (h : got ++ rest = requestBytes f) (hr : rest ≠ []) : receptionOf got = .more := by
  rw [requestBytes_eq f hf] at h
  cases got with
  | nil => rfl
  | cons len more =>
    simp only [List.cons_append, List.cons.injEq] at h
    obtain ⟨rfl, h⟩ := h
    have hl := congrArg List.length h
    have hp : 0 < rest.length := List.length_pos_of_ne_nil hr
    simp only [List.length_append, List.length_cons, twoBytes, List.length_nil] at hl
    have ht : (BitVec.ofNat 8 f.body.length).toNat = f.body.length := by
      simp; omega
    simp only [receptionOf, ht]
    rw [if_neg (by omega), if_pos (by omega)]

/-- The bytes of a whole frame are its request (R164). -/
theorem receptionOf_requestBytes (f : Frame) (hf : f.body.length ≤ 60) :
    receptionOf (requestBytes f) = .request f := by
  rw [requestBytes_eq f hf]
  unfold receptionOf
  have ht : (BitVec.ofNat 8 f.body.length).toNat = f.body.length := by
    simp; omega
  simp only [ht]
  rw [if_neg (by omega), if_neg (by simp [twoBytes])]
  have hd : (f.kind :: f.tag :: (f.body ++
      twoBytes (crc16 (BitVec.ofNat 8 f.body.length :: f.kind :: f.tag :: f.body)).toNat)).drop
      (f.body.length + 2) =
      twoBytes (crc16 (BitVec.ofNat 8 f.body.length :: f.kind :: f.tag :: f.body)).toNat := by
    simp
  have hk : (f.kind :: f.tag :: (f.body ++
      twoBytes (crc16 (BitVec.ofNat 8 f.body.length :: f.kind :: f.tag :: f.body)).toNat)).take
      (f.body.length + 2) = f.kind :: f.tag :: f.body := by
    simp
  rw [hd, hk, if_pos rfl]
  simp

/-- What a frame does when it completes does not depend on what its receiver held (R164). -/
theorem State.completed_rx (s : State) (p : Port) (f : Frame) (r : Receiver) :
    (s.editLink p fun l => { l with rx := r }).completed p f = s.completed p f := by
  unfold State.completed
  simp only [State.editLink_link_same, State.editLink_editLink]
  rfl

/-- The bytes that are left of a frame complete it (R164). -/
theorem State.portBytes_rest (p : Port) (f : Frame) (hf : f.body.length ≤ 60) (left : Nat)
    (rest : List Byte) : ∀ (got : List Byte) (s : State), got ++ rest = requestBytes f → rest ≠ [] →
      (s.link p).rx = .inFrame left got → s.portBytes p rest = s.completed p f := by
  induction rest with
  | nil => intro _ _ _ h; exact absurd rfl h
  | cons b rest ih =>
    intro got s h _ hrx
    have h' : (got ++ [b]) ++ rest = requestBytes f := by rw [← h]; simp
    show (s.portByte p b).portBytes p rest = _
    by_cases hr : rest = []
    · subst hr
      rw [List.append_nil] at h'
      unfold State.portByte
      rw [hrx]
      simp only [h', receptionOf_requestBytes f hf]
      rfl
    · have : s.portByte p b = s.editLink p fun l => { l with rx := .inFrame left (got ++ [b]) } := by
        unfold State.portByte
        rw [hrx]
        simp only [receptionOf_prefix f hf _ _ h' hr]
      rw [this, ih (got ++ [b]) _ h' hr (by simp), State.completed_rx]

/-- A frame that its receiver awaits completes as a request (R164). -/
theorem State.arrive_completed (s : State) (p : Port) (f : Frame) (hf : f.body.length ≤ 60)
    (hr : (s.link p).rx.awaits (requestBytes f) = true) : s.arrive p f = s.completed p f := by
  have hne : requestBytes f ≠ [] := by rw [requestBytes_eq f hf]; simp
  unfold State.arrive
  cases hrx : (s.link p).rx with
  | hunt =>
    show (s.portByte p 0xC3#8).portBytes p (requestBytes f) = _
    have : s.portByte p 0xC3#8 = s.editLink p fun l => { l with rx := .inFrame 5 [] } := by
      unfold State.portByte
      rw [hrx]
      rfl
    rw [this]
    exact (State.portBytes_rest p f hf 5 (requestBytes f) [] _ rfl hne (by simp)).trans
      (State.completed_rx s p f _)
  | inFrame left got =>
    simp only [hrx, Receiver.awaits, Bool.and_eq_true, decide_eq_true_eq] at hr
    have happ : got ++ (requestBytes f).drop got.length = requestBytes f := by
      obtain ⟨t, ht⟩ := List.isPrefixOf_iff_prefix.mp hr.1
      rw [← ht]; simp
    have hne' : (requestBytes f).drop got.length ≠ [] := by
      intro h0
      rw [List.drop_eq_nil_iff] at h0
      omega
    simp only [Receiver.awaited, hr.1, if_true]
    exact State.portBytes_rest p f hf left _ got s happ hne' hrx

/-- A receiver that stands before the length byte awaits every frame (R164). -/
theorem Receiver.awaits_of_fresh {r : Receiver} (h : r.fresh = true) (f : Frame) (hf : f.body.length ≤ 60) :
    r.awaits (requestBytes f) = true := by
  cases r with
  | hunt => rfl
  | inFrame left got =>
    simp only [Receiver.fresh, List.isEmpty_iff] at h
    subst h
    simp [Receiver.awaits, requestBytes_eq f hf]

/-- A speed is its high byte and its low byte (R162). -/
theorem speed_bytes (v : BitVec 16) : BitVec.ofNat 8 (v.toNat / 256) ++ BitVec.ofNat 8 v.toNat = v := by
  apply BitVec.eq_of_toNat_eq
  have hlt := v.isLt
  rw [BitVec.toNat_append, ← Nat.shiftLeft_add_eq_or_of_lt (BitVec.isLt _), Nat.shiftLeft_eq]
  simp only [BitVec.toNat_ofNat]
  omega

/-- What a sample does does not depend on what its receiver held (R88). -/
theorem State.passSample_setLine (s : State) (l : ChannelId) (v : BitVec 16) (x : Byte) (r : Receiver) :
    (s.setLine l r).passSample l v x = s.passSample l v x := by
  have h : (s.setLine l r).setLine l .hunt = s.setLine l .hunt := by
    simp [State.setLine, Table.edit]
  unfold State.passSample
  simp only [h, State.setLine_channel]

/-- A sample frame that its receiver awaits passes its check (R88). -/
theorem State.sampleArrives_passes (s : State) (l : ChannelId) (v : BitVec 16) (x : Byte)
    (h : (s.line l).awaits (sampleBytes v x) = true) : s.sampleArrives l v x = s.passSample l v x := by
  unfold State.sampleArrives
  cases hl : s.line l with
  | hunt =>
    simp only [Receiver.awaited, sampleBytes, State.lineBytes, State.each, State.lineByte, hl,
      List.foldl_cons, List.foldl_nil, State.setLine_line_same, List.nil_append, List.cons_append,
      if_true, State.passSample_setLine, speed_bytes]
  | inFrame left got =>
    simp only [hl, Receiver.awaits, Bool.and_eq_true, decide_eq_true_eq, List.isPrefixOf_iff_prefix] at h
    obtain ⟨⟨t, ht⟩, hlen⟩ := h
    have hp : got.isPrefixOf (sampleBytes v x) = true := List.isPrefixOf_iff_prefix.mpr ⟨t, ht⟩
    simp only [Receiver.awaited, hp, if_true]
    rw [← ht, List.drop_left]
    simp only [sampleBytes, List.length_cons, List.length_nil] at hlen
    have short : got = [] ∨ (∃ a, got = [a]) ∨ (∃ a b, got = [a, b]) ∨ ∃ a b c, got = [a, b, c] := by
      match got, hlen with
      | [], _ => exact .inl rfl
      | [a], _ => exact .inr (.inl ⟨a, rfl⟩)
      | [a, b], _ => exact .inr (.inr (.inl ⟨a, b, rfl⟩))
      | [a, b, c], _ => exact .inr (.inr (.inr ⟨a, b, c, rfl⟩))
    obtain rfl | ⟨a, rfl⟩ | ⟨a, b, rfl⟩ | ⟨a, b, c, rfl⟩ := short <;>
      simp only [sampleBytes, List.nil_append, List.cons_append, List.cons.injEq] at ht <;>
      simp_all only [State.lineBytes, State.each, State.lineByte, List.foldl_cons, List.foldl_nil,
        State.setLine_line_same, List.nil_append, List.cons_append, if_true, State.passSample_setLine,
        speed_bytes]

/-- A whole frame at a ready port: its request is carried out at once, and its response stands in the
buffer, and is sent unless a notice is on its way (R165 to R167). -/
theorem State.arrive_ready (s : State) (p : Port) (f : Frame) (hr : s.ready p) (hf : f.body.length ≤ 60) :
    s.arrive p f = ((s.afterServe p f).editLink p fun l =>
      { l with
        buffer := some (s.responseTo p f), serving := false
        tx := if l.tx = .idle then .response (s.responseTo p f) else l.tx }) := by
  obtain ⟨hb, hw, hs, hx⟩ := hr
  rw [State.arrive_completed s p f hf (Receiver.awaits_of_fresh hx f hf)]
  unfold State.completed
  simp only [hw, hb, Option.isSome_none, Bool.false_eq_true, if_false]
  unfold State.takeRequest
  rw [State.editLink_editLink]
  have hu : (s.editLink p ((fun l => { l with serving := true }) ∘ fun l => { l with rx := .hunt })) =
      s.underway p := rfl
  simp only [hu]
  have hl : (s.afterServe p f).link p = (s.underway p).link p := by
    have := serve_link p f (s.underway p) (by simp [State.underway])
    unfold State.afterServe
    simp only
    split
    · rw [State.clearLoss_link]; exact this
    · exact this
  show ((s.afterServe p f).editLink p fun l =>
    { l with buffer := some (s.responseTo p f), serving := false }).startTx p = _
  generalize s.afterServe p f = u at *
  generalize s.responseTo p f = r at *
  unfold State.startTx
  simp only [State.editLink_link_same, Bool.false_or, bne_iff_ne, ne_eq]
  split
  · rename_i hn
    have : ∀ l : Link, l = u.link p → ({ l with buffer := some r, serving := false } : Link) =
        { l with buffer := some r, serving := false, tx := if l.tx = .idle then .response r else l.tx } := by
      rintro l rfl
      simp [hn]
    simp only [State.editLink, Table.edit]
    rw [show u.links[linkIdx p] = u.link p from rfl, this _ rfl]
  · rename_i hn
    simp only [Decidable.not_not] at hn
    rw [State.editLink_editLink]
    simp only [State.editLink, Table.edit, Function.comp]
    rw [show u.links[linkIdx p] = u.link p from rfl]
    simp [hn]

/-- The link of a ready port after a request: answered (R165 to R167). -/
theorem State.arrive_link (s : State) (p : Port) (f : Frame) (hr : s.ready p) (hf : f.body.length ≤ 60) :
    (s.arrive p f).link p = (s.link p).answered (s.responseTo p f) := by
  rw [State.arrive_ready s p f hr hf, State.editLink_link_same]
  have hl : (s.afterServe p f).link p = (s.underway p).link p := by
    have := serve_link p f (s.underway p) (by simp [State.underway])
    unfold State.afterServe
    simp only
    split
    · rw [State.clearLoss_link]; exact this
    · exact this
  rw [hl]
  simp only [State.underway, State.editLink_link_same, Link.answered]
  have := hr.2.2.1
  generalize s.link p = l at *
  cases l
  simp_all

theorem State.editLink_lossOn (s : State) (p q : Port) (g : Link → Link) :
    (s.editLink p g).lossOn q = s.lossOn q := by
  cases q <;> rfl

/-- A link with no request under way, through `underway` and the answer: answered. -/
theorem Link.answered_of_underway (l : Link) (r : Response) (h : l.serving = false) :
    (let m : Link := { l with rx := .hunt, serving := true }
     ({ m with
        buffer := some r, serving := false
        tx := if m.tx = .idle then .response r else m.tx } : Link)) = l.answered r := by
  cases l
  simp_all [Link.answered]

/-- A request whose whole effect is `eff`, which commutes with writes of the port's link, at a ready
port: that effect and the answer (R165 to R167). -/
theorem State.arrive_effect (s : State) (p : Port) (f : Frame) (hr : s.ready p)
    (hf : f.body.length ≤ 60) (reply : Reply) (eff : State → State)
    (hs : serve p f (s.underway p) = (reply, eff (s.underway p))) (hc : reply.clearLoss = false)
    (he : ∀ (g : Link → Link) (u : State), eff (u.editLink p g) = (eff u).editLink p g)
    (hl : (eff s).link p = s.link p) :
    s.arrive p f = (eff s).editLink p (Link.answered (respond f reply ((eff s).lossOn p))) := by
  rw [State.arrive_ready s p f hr hf]
  have ha : s.afterServe p f = (eff s).editLink p fun l => { l with rx := .hunt, serving := true } := by
    unfold State.afterServe
    simp only [hs, hc, Bool.false_eq_true, if_false]
    exact he _ s
  have hresp : s.responseTo p f = respond f reply ((eff s).lossOn p) := by
    unfold State.responseTo
    simp only [hs]
    rw [show eff (s.underway p) = (eff s).editLink p fun l => { l with rx := .hunt, serving := true }
      from he _ s, State.editLink_lossOn]
  rw [ha, hresp, State.editLink_editLink]
  have hd := hr.2.2.1
  rw [← hl] at hd
  have := Link.answered_of_underway ((eff s).link p) (respond f reply ((eff s).lossOn p)) hd
  simp only [State.editLink, Table.edit, Function.comp]
  rw [show (eff s).links[linkIdx p] = (eff s).link p from rfl]
  exact congrArg (fun l => { eff s with links := (eff s).links.set (linkIdx p) l }) this

/-- A refused request at a ready port: the answer without a body, and nothing else (R165). -/
theorem State.arrive_refused (s : State) (p : Port) (f : Frame) (hr : s.ready p)
    (hf : f.body.length ≤ 60) (x : Result)
    (hs : serve p f (s.underway p) = refuse x (s.underway p)) :
    s.arrive p f = s.editLink p (Link.answered
      { kind := f.kind, tag := f.tag, result := x, loss := s.lossOn p, body := [] }) :=
  State.arrive_effect s p f hr hf { result := x } (fun u => u) hs rfl (fun _ _ => rfl) rfl

end Sys2Proof.Machine
end

