-- ==== Sys2Proof/Laws/Frames.lean ====
section
/-! SUPPORT. The frames of Safety.lean hold across whole operations: `calendarFrame_site` for those on
zones, claims and bookings, `windFrame_wind` for governing evaluations, and hand-offs within both. -/

namespace Sys2Proof.Machine

theorem permitMayShift_refl (p : Option Permit) : permitMayShift p p := by
  cases p
  · trivial
  · rfl

theorem permitMayShift_trans {p q r : Option Permit} (h : permitMayShift p q) (k : permitMayShift q r) :
    permitMayShift p r := by
  cases p <;> cases q <;> cases r <;> simp only [permitMayShift] at h k ⊢
  rw [k, h]

theorem permitMayFollow_refl (p : Option Permit) : permitMayFollow p p := by
  cases p
  · trivial
  · rfl

theorem permitMayFollow_trans {p q r : Option Permit} (h : permitMayFollow p q)
    (k : permitMayFollow q r) : permitMayFollow p r := by
  cases p <;> cases q <;> cases r <;> simp only [permitMayFollow] at h k ⊢
  rw [k, h]

theorem permitMayShift_of_latch {p q : Option Permit} (h : permitMayLatch p q) : permitMayShift p q := by
  cases p <;> cases q <;> simp only [permitMayLatch, permitMayShift] at h ⊢
  have h1 := h.1
  rw [h1]

theorem permitMayFollow_of_shift {p q : Option Permit} (h : permitMayShift p q) : permitMayFollow p q := by
  cases p <;> cases q <;> simp only [permitMayShift, permitMayFollow] at h ⊢
  rw [h]

/-! ## The calendar frame -/

namespace CalendarFrame

theorem refl (s : State) : CalendarFrame s s := by
  constructor
  case links => exact fun p => Link.mayStart_refl _
  case boxes => exact fun c => NoticeBox.mayPost_refl _
  case permits => exact fun c => permitMayShift_refl _
  case records => exact fun z => Or.inl rfl
  all_goals simp

theorem trans {s t u : State} (h : CalendarFrame s t) (k : CalendarFrame t u) : CalendarFrame s u where
  lines := k.lines.trans h.lines
  enables := k.enables.trans h.enables
  restart := k.restart.trans h.restart
  channels := k.channels.trans h.channels
  winds := k.winds.trans h.winds
  shadow := k.shadow.trans h.shadow
  clock := k.clock.trans h.clock
  leadTime := k.leadTime.trans h.leadTime
  pending := k.pending.trans h.pending
  links p := Link.mayStart_trans (h.links p) (k.links p)
  planner := k.planner.trans h.planner
  boxes c := NoticeBox.mayPost_trans (h.boxes c) (k.boxes c)
  flags e he := k.flags e (h.flags e he)
  otherFlags e h1 h2 h3 h4 h5 := (k.otherFlags e h1 h2 h3 h4 h5).trans (h.otherFlags e h1 h2 h3 h4 h5)
  reports c := ⟨(k.reports c).1.trans (h.reports c).1, (k.reports c).2.1.trans (h.reports c).2.1,
    (k.reports c).2.2.trans (h.reports c).2.2⟩
  records z := by
    have hs : t.shadowRecord z = s.shadowRecord z := by simp only [State.shadowRecord, h.shadow]
    rcases k.records z with hk | hk
    · rw [hk]; exact h.records z
    · rw [hk, hs]; exact Or.inr rfl
  permits c := permitMayShift_trans (h.permits c) (k.permits c)

theorem of_handOffs {s t : State} (h : HandOffs s t) : CalendarFrame s t where
  lines := h.lines
  enables := h.enables
  restart := h.restart
  channels := h.channels
  winds := h.winds
  shadow := h.shadow
  clock := h.clock
  leadTime := h.leadTime
  pending := h.pending
  links := h.links
  planner := h.planner
  boxes := h.boxes
  flags := h.flags
  otherFlags e h1 h2 h3 _ _ := h.otherFlags e h1 h2 h3
  reports := h.reports
  records z := Or.inl (by simp only [State.record, h.active])
  permits c := permitMayShift_of_latch (h.permits c)

/-- A move of the zones, the arrival counter and the booking table alone. -/
theorem of_tables {s : State} (zs : Table ZoneDyn 48) (n : Nat) (bs : List Booking) (k m : Nat) :
    CalendarFrame s
      { s with zones := zs, arrivals := n, bookings := bs, nextId := k, terminals := m } := by
  constructor
  case links => exact fun p => Link.mayStart_refl _
  case boxes => exact fun c => NoticeBox.mayPost_refl _
  case permits => exact fun c => permitMayShift_refl _
  case records => exact fun z => Or.inl rfl
  case flags => exact fun _ h => h
  case otherFlags => exact fun _ _ _ _ _ _ => rfl
  case reports => exact fun _ => ⟨rfl, rfl, rfl⟩
  all_goals rfl

theorem editZone (s : State) (z : ZoneId) (f : ZoneDyn → ZoneDyn) : CalendarFrame s (s.editZone z f) :=
  of_tables (s.editZone z f).zones s.arrivals s.bookings s.nextId s.terminals

theorem setEvent (s : State) (e : SiteEvent) (he : e = .booking ∨ e = .applyDone) :
    CalendarFrame s (s.setEvent e) := by
  constructor
  case links => exact fun p => Link.mayStart_refl _
  case boxes => exact fun c => NoticeBox.mayPost_refl _
  case permits => exact fun c => permitMayShift_refl _
  case records => exact fun z => Or.inl rfl
  case flags => intro x hx; simp [State.setEvent_event, hx]
  case otherFlags =>
    intro x h1 h2 h3 h4 h5
    rw [State.setEvent_event]
    rcases he with he | he <;> subst he <;> simp [h4, h5]
  case reports => exact fun _ => ⟨rfl, rfl, rfl⟩
  all_goals rfl

theorem editPermit (s : State) (c : CraneId) (p q : Permit) (hp : s.permit c = some p)
    (hf : q = { p with state := q.state, latched := q.latched, factor := q.factor, suspended := q.suspended }) :
    CalendarFrame s (s.editPermit c fun _ => q) := by
  constructor
  case links => exact fun p => Link.mayStart_refl _
  case boxes => exact fun c => NoticeBox.mayPost_refl _
  case permits =>
    intro d
    rw [State.editPermit_permit]
    split
    · rename_i hd; subst hd; rw [hp]; exact hf
    · exact permitMayShift_refl _
  case records => exact fun z => Or.inl rfl
  case flags => exact fun _ h => h
  case otherFlags => exact fun _ _ _ _ _ _ => rfl
  case reports => exact fun _ => ⟨rfl, rfl, rfl⟩
  all_goals rfl

theorem adopt (s : State) (z : ZoneId) : CalendarFrame s (s.adopt z) := by
  constructor
  case links => exact fun p => Link.mayStart_refl _
  case boxes => exact fun c => NoticeBox.mayPost_refl _
  case permits => exact fun c => permitMayShift_refl _
  case records =>
    intro y
    have : (s.adopt z).record y = if y = z then s.shadowRecord z else s.record y := by
      show Table.entry (Table.edit s.active z fun _ => s.shadowRecord z) y = _
      rw [Table.entry_edit]
      rfl
    rw [this]
    split
    · rename_i hy; subst hy; exact Or.inr rfl
    · exact Or.inl rfl
  case flags => exact fun _ h => h
  case otherFlags => exact fun _ _ _ _ _ _ => rfl
  case reports => exact fun _ => ⟨rfl, rfl, rfl⟩
  all_goals rfl

end CalendarFrame

theorem Permit.rearmed_shift (p : Permit) (x : Stage) :
    p.rearmed x = { p with state := (p.rearmed x).state, factor := (p.rearmed x).factor } := by
  unfold Permit.rearmed Permit.armAt
  split <;> rfl

theorem calendarFrame_level : LevelMoves CalendarFrame where
  refl := CalendarFrame.refl
  trans := CalendarFrame.trans
  chosen s := .of_handOffs (handOffs_cascade.chosen s)
  post s c n := .of_handOffs (handOffs_cascade.post s c n)
  trip s := .of_handOffs (handOffs_cascade.trip s)
  silence s := .of_handOffs (handOffs_cascade.silence s)
  grant s z cl _ _ := .editZone s z _
  demand s z h d _ := .editZone s z _
  figures s c r p hr hp := .of_handOffs (handOffs_cascade.figures s c r p hr hp)
  judge s c := .of_handOffs (handOffs_cascade.judge s c)
  latchKeep s c p cause hp h1 h2 h3 := .of_handOffs (handOffs_cascade.latchKeep s c p cause hp h1 h2 h3)
  latchHalt s c p cause hp h1 h2 := .of_handOffs (handOffs_cascade.latchHalt s c p cause hp h1 h2)
  reclaim s z c cl level _ := .editZone s z _
  regrant s z h level _ := .editZone s z _
  suspend s c p hp := .editPermit s c p _ hp (by rw [Permit.rearmed_shift])

/-- What an operation on zones, claims and bookings can do outside them. -/
theorem calendarFrame_site : SiteMoves CalendarFrame where
  toLevelMoves := calendarFrame_level
  applyDone s := .setEvent s _ (Or.inr rfl)
  rezone s z f _ := .editZone s z f
  drop s z keep := .editZone s z _
  remark s z c := .editZone s z _
  place s z c b e _ _ := by
    obtain ⟨zs, n, h⟩ := RequestMoves.place_rest s z c b e
    rw [h]
    exact .of_tables zs n s.bookings s.nextId s.terminals
  adopt := CalendarFrame.adopt
  bookingEvent s := .setEvent s _ (Or.inl rfl)
  swap s id new := .of_tables s.zones s.arrivals _ s.nextId s.terminals
  booking s id f := .of_tables s.zones s.arrivals _ s.nextId s.terminals
  terminal s := by
    have hu : ∃ bs n, (if 65535 ≤ s.terminals then s.renumberTerminals else s) =
        { s with bookings := bs, terminals := n } := by
      split
      · exact ⟨s.renumberTerminals.bookings, s.renumberTerminals.terminals, rfl⟩
      · exact ⟨s.bookings, s.terminals, rfl⟩
    unfold State.countTerminal
    simp only
    generalize (if 65535 ≤ s.terminals then s.renumberTerminals else s) = u at *
    obtain ⟨bs, n, rfl⟩ := hu
    exact .of_tables s.zones s.arrivals bs s.nextId (n + 1)

/-! ## The wind frame -/

namespace WindFrame

theorem refl (s : State) : WindFrame s s := by
  constructor
  case links => exact fun p => Link.mayStart_refl _
  case boxes => exact fun c => NoticeBox.mayPost_refl _
  case permits => exact fun c => permitMayFollow_refl _
  all_goals simp

theorem trans {s t u : State} (h : WindFrame s t) (k : WindFrame t u) : WindFrame s u where
  lines := k.lines.trans h.lines
  enables := k.enables.trans h.enables
  restart := k.restart.trans h.restart
  channels := k.channels.trans h.channels
  active := k.active.trans h.active
  shadow := k.shadow.trans h.shadow
  arrivals := k.arrivals.trans h.arrivals
  clock := k.clock.trans h.clock
  leadTime := k.leadTime.trans h.leadTime
  nextId := k.nextId.trans h.nextId
  terminals := k.terminals.trans h.terminals
  pending := k.pending.trans h.pending
  links p := Link.mayStart_trans (h.links p) (k.links p)
  planner := k.planner.trans h.planner
  boxes c := NoticeBox.mayPost_trans (h.boxes c) (k.boxes c)
  flags e he := k.flags e (h.flags e he)
  otherFlags e h1 h2 h3 h4 h5 := (k.otherFlags e h1 h2 h3 h4 h5).trans (h.otherFlags e h1 h2 h3 h4 h5)
  reports c := ⟨(k.reports c).1.trans (h.reports c).1, (k.reports c).2.1.trans (h.reports c).2.1,
    (k.reports c).2.2.trans (h.reports c).2.2⟩
  openings z := ⟨(k.openings z).1.trans (h.openings z).1, (k.openings z).2.trans (h.openings z).2⟩
  bookings := k.bookings.trans h.bookings
  permits c := permitMayFollow_trans (h.permits c) (k.permits c)

theorem of_handOffs {s t : State} (h : HandOffs s t) : WindFrame s t where
  lines := h.lines
  enables := h.enables
  restart := h.restart
  channels := h.channels
  active := h.active
  shadow := h.shadow
  arrivals := h.arrivals
  clock := h.clock
  leadTime := h.leadTime
  nextId := h.nextId
  terminals := h.terminals
  pending := h.pending
  links := h.links
  planner := h.planner
  boxes := h.boxes
  flags := h.flags
  otherFlags e h1 h2 h3 _ _ := h.otherFlags e h1 h2 h3
  reports := h.reports
  openings z := ⟨(h.zones z).1, (h.zones z).2.1⟩
  bookings := by rw [h.bookings]
  permits c := permitMayFollow_of_shift (permitMayShift_of_latch (h.permits c))

/-- A move of the wind records, the flags or the permit records alone. -/
theorem of_records {s : State} (ws : Table Wind 6) (ps : Table (Option Permit) 6) (bs : List Booking)
    (hp : ∀ c, permitMayFollow (s.permit c) (Table.entry ps c))
    (hb : (bs.map fun b => { b with state := .booked }) = s.bookings.map fun b => { b with state := .booked }) :
    WindFrame s { s with winds := ws, permits := ps, bookings := bs } := by
  constructor
  case links => exact fun p => Link.mayStart_refl _
  case boxes => exact fun c => NoticeBox.mayPost_refl _
  case permits => exact hp
  case bookings => exact hb
  case flags => exact fun _ h => h
  case otherFlags => exact fun _ _ _ _ _ _ => rfl
  case reports => exact fun _ => ⟨rfl, rfl, rfl⟩
  case openings => exact fun _ => ⟨rfl, rfl⟩
  all_goals rfl

theorem editWind (s : State) (c : CraneId) (f : Wind → Wind) : WindFrame s (s.editWind c f) :=
  of_records (s.editWind c f).winds s.permits s.bookings (fun _ => permitMayFollow_refl _) rfl

theorem editPermit (s : State) (c : CraneId) (p q : Permit) (hp : s.permit c = some p)
    (hf : permitMayFollow (some p) (some q)) : WindFrame s (s.editPermit c fun _ => q) := by
  refine of_records s.winds (s.editPermit c fun _ => q).permits s.bookings (fun d => ?_) rfl
  show permitMayFollow (s.permit d) ((s.editPermit c fun _ => q).permit d)
  rw [State.editPermit_permit]
  split
  · rename_i hd; subst hd; rw [hp]; exact hf
  · exact permitMayFollow_refl _

theorem setEvent (s : State) (e : SiteEvent) (he : e = .booking ∨ e = .windStop) :
    WindFrame s (s.setEvent e) := by
  constructor
  case links => exact fun p => Link.mayStart_refl _
  case boxes => exact fun c => NoticeBox.mayPost_refl _
  case permits => exact fun c => permitMayFollow_refl _
  case flags => intro x hx; simp [State.setEvent_event, hx]
  case otherFlags =>
    intro x h1 h2 h3 h4 h5
    rw [State.setEvent_event]
    rcases he with he | he <;> subst he <;> simp [h4, h5]
  case reports => exact fun _ => ⟨rfl, rfl, rfl⟩
  case openings => exact fun _ => ⟨rfl, rfl⟩
  all_goals rfl

/-- A move of one zone that leaves opened-for and mark. -/
theorem editZone (s : State) (z : ZoneId) (f : ZoneDyn → ZoneDyn)
    (hf : ∀ d, (f d).openedFor = d.openedFor ∧ (f d).mark = d.mark) : WindFrame s (s.editZone z f) := by
  constructor
  case links => exact fun p => Link.mayStart_refl _
  case boxes => exact fun c => NoticeBox.mayPost_refl _
  case permits => exact fun c => permitMayFollow_refl _
  case flags => exact fun _ h => h
  case otherFlags => exact fun _ _ _ _ _ _ => rfl
  case reports => exact fun _ => ⟨rfl, rfl, rfl⟩
  case openings =>
    intro y
    rw [State.editZone_zone]
    split
    · exact hf _
    · exact ⟨rfl, rfl⟩
  all_goals rfl

end WindFrame

theorem Permit.followStage_follow (p : Permit) (old new : Stage) :
    permitMayFollow (some p) (some (p.followStage old new)) := by
  have hr : ∀ p x, permitMayFollow (some p) (some (Permit.rearmed p x)) := by
    intro p x
    show p.rearmed x = _
    unfold Permit.rearmed Permit.armAt
    split <;> rfl
  have hs : permitMayFollow (some p) (some p.stow) := by
    show p.stow = _
    unfold Permit.stow
    split <;> rfl
  have hu : permitMayFollow (some p) (some p.unstow) := by
    show p.unstow = _
    unfold Permit.unstow
    split <;> rfl
  unfold Permit.followStage
  split
  · exact hs
  · split
    · exact permitMayFollow_trans hu (hr _ _)
    · split
      · exact hr _ _
      · exact permitMayFollow_refl _

/-- What a governing evaluation with its hand-offs can do outside the wind records. -/
theorem windFrame_wind : WindMoves WindFrame where
  refl := WindFrame.refl
  trans := WindFrame.trans
  chosen s := .of_handOffs (handOffs_cascade.chosen s)
  post s c n := .of_handOffs (handOffs_cascade.post s c n)
  trip s := .of_handOffs (handOffs_cascade.trip s)
  silence s := .of_handOffs (handOffs_cascade.silence s)
  grant s z cl h1 h2 := .of_handOffs (handOffs_cascade.grant s z cl h1 h2)
  demand s z h d hh := .of_handOffs (handOffs_cascade.demand s z h d hh)
  figures s c r p hr hp := .of_handOffs (handOffs_cascade.figures s c r p hr hp)
  judge s c := .of_handOffs (handOffs_cascade.judge s c)
  latchKeep s c p cause hp h1 h2 h3 := .of_handOffs (handOffs_cascade.latchKeep s c p cause hp h1 h2 h3)
  latchHalt s c p cause hp h1 h2 := .of_handOffs (handOffs_cascade.latchHalt s c p cause hp h1 h2)
  bookingEvent s := .setEvent s _ (Or.inl rfl)
  reclaim s z c cl level _ := .editZone s z _ fun _ => ⟨rfl, rfl⟩
  regrant s z h level _ := .editZone s z _ fun _ => ⟨rfl, rfl⟩
  suspend s c p hp := .editPermit s c p _ hp
    (permitMayFollow_of_shift (by show Permit.rearmed _ _ = _; rw [Permit.rearmed_shift]))
  swap s id new := by
    refine .of_records s.winds s.permits _ (fun _ => permitMayFollow_refl _) ?_
    rw [List.map_map]
    apply List.map_congr_left
    intro b _
    simp only [Function.comp]
    split <;> rfl
  windStop s := .setEvent s _ (Or.inr rfl)
  hold s c t := .editWind s c _
  govern s c p _ := .editWind s c _
  stage s c p new cause hp _ := by
    have h1 : WindFrame s (s.announceStage c (s.wind c).stage new cause) := by
      unfold State.announceStage
      simp only
      refine WindFrame.trans ?_ (.of_handOffs (HandOffs.post _ _ _))
      split
      · exact .trans (.editWind s c _) (.setEvent _ _ (Or.inr rfl))
      · exact .editWind s c _
    exact h1.trans (.editPermit _ c p _
      (by simp only [State.permit, State.announceStage_permits]; exact hp) (p.followStage_follow _ _))

end Sys2Proof.Machine
end

