-- ==== Sys2Proof/WellFormed.lean ====
section
/-! DEFINITION. Which commands can arrive at the part. Every operand that names a port, crane, zone,
line or channel is in range by its type; what is left to check is the length of a request's body
(R164: a length above 60 never completes a frame) and the range of a booking id (R143). -/

namespace Sys2Proof

/-- A body that a completed request can have: 0 to 60 bytes (R162, R164). -/
def bodyFits (body : List Byte) : Bool := body.length ≤ 60

/-- The port and the body of a request command; `none` for the other commands. -/
def Instr.request? : Instr → Option (Port × List Byte)
  | .powerOn => none
  | .reset => none
  | .hello p _ b => some (p, b)
  | .report p _ b => some (p, b)
  | .claim p _ b => some (p, b)
  | .withdraw p _ b => some (p, b)
  | .release p _ b => some (p, b)
  | .arm p _ b => some (p, b)
  | .liftDone p _ b => some (p, b)
  | .status p _ b => some (p, b)
  | .configAreas p _ b => some (p, b)
  | .configCrane p _ b => some (p, b)
  | .configChannel p _ b => some (p, b)
  | .setTripMask p _ b => some (p, b)
  | .stageZone p _ b => some (p, b)
  | .applyGeometry p _ b => some (p, b)
  | .abandonApply p _ b => some (p, b)
  | .book p _ b => some (p, b)
  | .cancel p _ b => some (p, b)
  | .setClock p _ b => some (p, b)
  | .holdClock p _ b => some (p, b)
  | .runClock p _ b => some (p, b)
  | .halt p _ b => some (p, b)
  | .resume p _ b => some (p, b)
  | .emergencyClaim p _ b => some (p, b)
  | .plannerWithdraw p _ b => some (p, b)
  | .forceRelease p _ b => some (p, b)
  | .readEvents p _ b => some (p, b)
  | .setEventEnables p _ b => some (p, b)
  | .siteStatus p _ b => some (p, b)
  | .craneStatus p _ b => some (p, b)
  | .zoneStatus p _ b => some (p, b)
  | .bookingStatus p _ b => some (p, b)
  | .coldRestart p _ b => some (p, b)
  | .unknownKind p f => some (p, f.body)
  | .pendingRequest p f => some (p, f.body)
  | .requestOverrun p f => some (p, f.body)
  | .frameOversize _ => none
  | .frameCrcError _ => none
  | .frameCompletionTimeout _ => none
  | .transmissionEnd _ => none
  | .sample _ _ _ => none
  | .sampleCheckFailure _ => none
  | .sampleFrameTimeout _ => none
  | .handoverTimerExpiry _ => none
  | .yieldTimerExpiry _ => none
  | .reportTimerExpiry _ => none
  | .staleTimerExpiry _ => none
  | .binTimerExpiry _ => none
  | .holdTimerExpiry _ => none
  | .stowTimerExpiry _ => none
  | .secondTimerExpiry => none
  | .minuteTick => none
  | .remainingMinutesZero _ => none
  | .syncByteInHunt _ => none
  | .startCharacterInHunt _ => none

/-- The booking id that a command names by itself is one a booking can have, 1 to 255 (R143). -/
def Instr.bookingIdFits : Instr → Bool
  | .remainingMinutesZero id => 1 ≤ id && id ≤ 255
  | _ => true

/-- The check: a request's body fits a frame, and a named booking id is one a booking can have. -/
def Instr.wellFormed (i : Instr) : Bool :=
  (match i.request? with
   | some (_, body) => bodyFits body
   | none => true) && i.bookingIdFits

end Sys2Proof
end

