-- ==== Sys2Proof/Laws/PerInstr.lean ====
section
/-! SUPPORT. The family FrameFits: a well-formed request command carries a body that a frame of R162 can
carry, and every other command carries none. One lemma per command. -/

namespace Sys2Proof.Laws.FrameFits

/-- A well-formed command that is a request has at most 60 body bytes (R162, R164). -/
def Statement (i : Instr) : Prop :=
  i.wellFormed = true → ∀ p body, i.request? = some (p, body) → body.length ≤ 60

/-- A command that is no request carries no body. -/
theorem of_none {i : Instr} (h : i.request? = none) : Statement i := by
  intro _ p body hb
  rw [h] at hb
  cases hb

/-- A request's check is the length of its body. -/
theorem of_some {i : Instr} {q : Port} {b : List Byte} (h : i.request? = some (q, b)) : Statement i := by
  intro hw p body hb
  rw [h] at hb
  cases hb
  unfold Instr.wellFormed at hw
  rw [h] at hw
  simp only [bodyFits, Bool.and_eq_true, decide_eq_true_eq] at hw
  exact hw.1

theorem powerOn : Statement Instr.powerOn := of_none rfl

theorem reset : Statement Instr.reset := of_none rfl

theorem hello (port : Port) (tag : Byte) (body : List Byte) : Statement (Instr.hello port tag body) := of_some rfl

theorem report (port : Port) (tag : Byte) (body : List Byte) : Statement (Instr.report port tag body) := of_some rfl

theorem claim (port : Port) (tag : Byte) (body : List Byte) : Statement (Instr.claim port tag body) := of_some rfl

theorem withdraw (port : Port) (tag : Byte) (body : List Byte) : Statement (Instr.withdraw port tag body) := of_some rfl

theorem release (port : Port) (tag : Byte) (body : List Byte) : Statement (Instr.release port tag body) := of_some rfl

theorem arm (port : Port) (tag : Byte) (body : List Byte) : Statement (Instr.arm port tag body) := of_some rfl

theorem liftDone (port : Port) (tag : Byte) (body : List Byte) : Statement (Instr.liftDone port tag body) := of_some rfl

theorem status (port : Port) (tag : Byte) (body : List Byte) : Statement (Instr.status port tag body) := of_some rfl

theorem configAreas (port : Port) (tag : Byte) (body : List Byte) : Statement (Instr.configAreas port tag body) := of_some rfl

theorem configCrane (port : Port) (tag : Byte) (body : List Byte) : Statement (Instr.configCrane port tag body) := of_some rfl

theorem configChannel (port : Port) (tag : Byte) (body : List Byte) : Statement (Instr.configChannel port tag body) := of_some rfl

theorem setTripMask (port : Port) (tag : Byte) (body : List Byte) : Statement (Instr.setTripMask port tag body) := of_some rfl

theorem stageZone (port : Port) (tag : Byte) (body : List Byte) : Statement (Instr.stageZone port tag body) := of_some rfl

theorem applyGeometry (port : Port) (tag : Byte) (body : List Byte) : Statement (Instr.applyGeometry port tag body) := of_some rfl

theorem abandonApply (port : Port) (tag : Byte) (body : List Byte) : Statement (Instr.abandonApply port tag body) := of_some rfl

theorem book (port : Port) (tag : Byte) (body : List Byte) : Statement (Instr.book port tag body) := of_some rfl

theorem cancel (port : Port) (tag : Byte) (body : List Byte) : Statement (Instr.cancel port tag body) := of_some rfl

theorem setClock (port : Port) (tag : Byte) (body : List Byte) : Statement (Instr.setClock port tag body) := of_some rfl

theorem holdClock (port : Port) (tag : Byte) (body : List Byte) : Statement (Instr.holdClock port tag body) := of_some rfl

theorem runClock (port : Port) (tag : Byte) (body : List Byte) : Statement (Instr.runClock port tag body) := of_some rfl

theorem halt (port : Port) (tag : Byte) (body : List Byte) : Statement (Instr.halt port tag body) := of_some rfl

theorem resume (port : Port) (tag : Byte) (body : List Byte) : Statement (Instr.resume port tag body) := of_some rfl

theorem emergencyClaim (port : Port) (tag : Byte) (body : List Byte) : Statement (Instr.emergencyClaim port tag body) := of_some rfl

theorem plannerWithdraw (port : Port) (tag : Byte) (body : List Byte) : Statement (Instr.plannerWithdraw port tag body) := of_some rfl

theorem forceRelease (port : Port) (tag : Byte) (body : List Byte) : Statement (Instr.forceRelease port tag body) := of_some rfl

theorem readEvents (port : Port) (tag : Byte) (body : List Byte) : Statement (Instr.readEvents port tag body) := of_some rfl

theorem setEventEnables (port : Port) (tag : Byte) (body : List Byte) : Statement (Instr.setEventEnables port tag body) := of_some rfl

theorem siteStatus (port : Port) (tag : Byte) (body : List Byte) : Statement (Instr.siteStatus port tag body) := of_some rfl

theorem craneStatus (port : Port) (tag : Byte) (body : List Byte) : Statement (Instr.craneStatus port tag body) := of_some rfl

theorem zoneStatus (port : Port) (tag : Byte) (body : List Byte) : Statement (Instr.zoneStatus port tag body) := of_some rfl

theorem bookingStatus (port : Port) (tag : Byte) (body : List Byte) : Statement (Instr.bookingStatus port tag body) := of_some rfl

theorem coldRestart (port : Port) (tag : Byte) (body : List Byte) : Statement (Instr.coldRestart port tag body) := of_some rfl

theorem unknownKind (port : Port) (frame : Frame) : Statement (Instr.unknownKind port frame) := of_some rfl

theorem pendingRequest (port : Port) (frame : Frame) : Statement (Instr.pendingRequest port frame) := of_some rfl

theorem requestOverrun (port : Port) (frame : Frame) : Statement (Instr.requestOverrun port frame) := of_some rfl

theorem frameOversize (arrival : PortBytes) : Statement (Instr.frameOversize arrival) := of_none rfl

theorem frameCrcError (arrival : PortBytes) : Statement (Instr.frameCrcError arrival) := of_none rfl

theorem frameCompletionTimeout (port : Port) : Statement (Instr.frameCompletionTimeout port) := of_none rfl

theorem transmissionEnd (port : Port) : Statement (Instr.transmissionEnd port) := of_none rfl

theorem sample (line : ChannelId) (speed : BitVec 16) (status : Byte) : Statement (Instr.sample line speed status) := of_none rfl

theorem sampleCheckFailure (arrival : LineBytes) : Statement (Instr.sampleCheckFailure arrival) := of_none rfl

theorem sampleFrameTimeout (line : ChannelId) : Statement (Instr.sampleFrameTimeout line) := of_none rfl

theorem handoverTimerExpiry (zone : ZoneId) : Statement (Instr.handoverTimerExpiry zone) := of_none rfl

theorem yieldTimerExpiry (zone : ZoneId) : Statement (Instr.yieldTimerExpiry zone) := of_none rfl

theorem reportTimerExpiry (crane : CraneId) : Statement (Instr.reportTimerExpiry crane) := of_none rfl

theorem staleTimerExpiry (channel : ChannelId) : Statement (Instr.staleTimerExpiry channel) := of_none rfl

theorem binTimerExpiry (channel : ChannelId) : Statement (Instr.binTimerExpiry channel) := of_none rfl

theorem holdTimerExpiry (crane : CraneId) : Statement (Instr.holdTimerExpiry crane) := of_none rfl

theorem stowTimerExpiry (crane : CraneId) : Statement (Instr.stowTimerExpiry crane) := of_none rfl

theorem secondTimerExpiry : Statement Instr.secondTimerExpiry := of_none rfl

theorem minuteTick : Statement Instr.minuteTick := of_none rfl

theorem remainingMinutesZero (id : Nat) : Statement (Instr.remainingMinutesZero id) := of_none rfl

theorem syncByteInHunt (port : Port) : Statement (Instr.syncByteInHunt port) := of_none rfl

theorem startCharacterInHunt (line : ChannelId) : Statement (Instr.startCharacterInHunt line) := of_none rfl

end Sys2Proof.Laws.FrameFits
end

