-- ==== Sys2Proof/Laws/Zones.lean ====
section
/-! SUPPORT. The examination of a zone for its yield demand said once (R68 to R71), and when the second
timer's expiry takes place (R141). -/

namespace Sys2Proof.Machine

/-- A zone replaced by itself leaves the state as it is. -/
theorem State.editZone_self (z : ZoneId) (f : ZoneDyn → ZoneDyn) (s : State) (h : f (s.zone z) = s.zone z) :
    s.editZone z f = s := by
  have : Table.edit s.zones z f = s.zones := Table.ext_entry fun i => by
    rw [Table.entry_edit]
    split
    · next e => subst e; exact h
    · rfl
  simp only [State.editZone, this]

/-- A HELD zone's examination is `State.examined` with the queue as it stands (R68 to R71). -/
theorem State.examine_of_held (z : ZoneId) (h : Holding) (s : State) (held : s.holding z = some h) :
    s.examine z = s.examined z h (s.zone z).queue := by
  have state : (s.zone z).state = .held h := by
    unfold State.holding ZoneState.holding at held
    split at held <;> simp_all
  have same (d : Option Demand) :
      s.setDemand z h d = s.editZone z fun y =>
        { y with queue := (s.zone z).queue, state := .held { h with demand := d } } := rfl
  have first : (s.zone z).queue.find? (Claim.qualifies h.level (s.record z).preemptible) =
      demanding h (s.record z) (s.zone z).queue := rfl
  unfold State.examine
  simp only [held, first, State.examined, demandAfter, demandNotice, ← same]
  split <;> rename_i hq hd <;> simp only [hq, hd, seconds]
  unfold State.setDemand
  rw [State.editZone_self]
  rw [← hd]
  show { s.zone z with state := .held h } = s.zone z
  rw [← state]

/-- The second timer's expiry takes place on a RUNNING clock whose timer has run out. -/
@[simp] theorem Clock.due_iff (k : Clock) : k.due = true ↔ k.mode = .running ∧ k.timer = some 0 := by
  simp [Clock.due]

end Sys2Proof.Machine
end

