-- ==== Sys2Proof/Tests/Slice0.lean ====
section
/-! SUPPORT. Tests of the model. The expected figures come from the worked examples and the tables of
spec/ (named at each test) or from calculation by hand; `witness_<Name>` shows, for each statement of
Certificates/Slice0/Obligations.lean that has hypotheses, states and operands that meet them. -/

namespace Sys2Proof.Tests

open Sys2Proof Sys2Proof.Machine

set_option Elab.async false

/-! ## Small states -/

/-- The state that a command leads to. -/
def after (i : Instr) (s : State) : State :=
  match exec i s with
  | .next t => t
  | .fault _ => s
  | .refused _ => s

/-- The result and the body of the response that a port holds. -/
def answer (p : Port) (s : State) : Option (Result × List Byte) :=
  (s.link p).buffer.map fun r => (r.result, r.body)

/-- A configuration with the figures of crane 1 in section 6.7 and of crane 2 in section 2.3. -/
def cfg : CraneConfig where
  base := 1
  stopTime := 30
  margin := 20
  windGain := 8
  windMax := 150
  reportTime := 10
  primary := 0
  fallback := some 1
  fbm := 20
  caution := 100
  restrict := 150
  stop := 200
  stopMean := 160
  hysteresis := 10
  holdCaution := 60
  holdRestrict := 300
  holdStop := 600
  stowTime := 120
  restrictFactor := 50

def offline : Permit := { config := cfg }
def disarmed : Permit := { config := cfg, state := .disarmed }
def running : Permit := { config := cfg, state := .running, factor := 100 }
def halted : Permit :=
  { config := cfg, state := .halted, latched := #v[false, false, false, false, true, false] }
def stowing : Permit := { config := cfg, state := .stowing, stowTimer := some 0 }
def stowed : Permit := { config := cfg, state := .stowed }

/-- Zone 1: SHARED, preemptible, dead time 5 s, a JIB footprint of crane 1. -/
def zoneOne : ZoneRecord :=
  { preemptible := true, deadTime := 5,
    footprints := #v[some (.jib 1150 1400), none, none, none, none, none] }

/-- After reset, with crane 1 configured, its area [40, 44) and zone 1 in both tables. -/
def site (p : Permit) : State :=
  { State.reset with
    permits := Table.edit State.reset.permits 0 fun _ => some p
    boxes := Table.edit State.reset.boxes 0 fun _ => { start := 40, stop := 44 }
    active := Table.edit State.reset.active 0 fun _ => zoneOne
    shadow := Table.edit State.reset.shadow 0 fun _ => zoneOne }

/-- Crane 1's wind record replaced. -/
def windy (w : Wind) (s : State) : State := s.editWind 0 fun _ => w

/-- Zone 1 in the state given. -/
def zoneIn (z : ZoneState) (s : State) : State := s.editZone 0 fun d => { d with state := z }

/-- What crane 1 carries on zone 1 when it holds it at level 1. -/
def hold : Holding := { holder := 0, level := 1, emergency := false, demand := none }

/-- A plain claim of crane 1. -/
def claimOne : Claim := { crane := 0, level := 1, booked := false, emergency := false, arrival := 1 }

/-- Crane 1's claim in zone 1's queue. -/
def queued (cl : Claim) (s : State) : State := s.editZone 0 fun d => { d with queue := [cl] }

/-- A booking of crane 1 for zone 1, any weekday, minutes 420 to 480. -/
def lift (st : BookingState) : Booking :=
  { id := 3, crane := 0, weekday := none, start := 420, duration := 60, level := 5, windLimit := none,
    zones := [0], opens := false, recurring := false, state := st, remaining := 0, short := false,
    notPlaced := 0, terminalOrder := 0 }

def booked (b : Booking) (s : State) : State := { s with bookings := [b] }

/-- Zone 1 with another record. -/
def recorded (r : ZoneRecord) (s : State) : State :=
  { s with active := Table.edit s.active 0 fun _ => r }

/-- Zone 1 with the apply-pending mark. -/
def marked (s : State) : State := s.editZone 0 fun d => { d with mark := true }

/-- Terminal bookings 5 and 6 with orders 40 and 65535, beside the booking given. -/
def twoEnded (b : Booking) (s : State) : State :=
  { s with
    terminals := 65535
    bookings := [{ lift .done with id := 5, terminalOrder := 65535 }, b, { lift .lapsed with id := 6, terminalOrder := 40 }] }

/-- The clock RUNNING at a minute of weekday 3, its second timer run out. -/
def clockAt (minute second : Nat) (s : State) : State :=
  { s with clock := { mode := .running, weekday := 3, minute := minute, second := second, timer := some 0 } }

/-- The clock HELD at minute 571 and second 10 of weekday 2 (section 8.7). -/
def heldClock (s : State) : State :=
  { s with clock := { mode := .held, weekday := 2, minute := 571, second := 10, timer := none } }

/-- The fields of `lift`, as BOOK gives them. -/
def liftFields : BookFields :=
  { crane := 0, weekday := none, start := 420, duration := 60, level := 5, windLimit := 0, zones := [0],
    opens := false, recurring := false }

def cp1 : Port := .crane 0

def okResponse : Response := { kind := 0x06#8, tag := 0x11#8, result := .ok, loss := false, body := [] }

/-- A crane that is not blind, with a governing gust. -/
def breeze (gust : Nat) (stage : Stage) : Wind :=
  { source := .primary, gust := some gust, mean := none, blind := false, stage := stage, holdTimer := none }

/-! ## Well-formedness -/

/-- A body of 61 bytes is refused: R164, "A length above 60 ends the frame at once". -/
theorem test_body_of_61_bytes_is_ill_formed :
    (Instr.claim cp1 0x01#8 (List.replicate 61 0x00#8)).wellFormed = false ∧
    (Instr.unknownKind .planner { kind := 0x50#8, tag := 0x01#8, body := List.replicate 61 0x00#8 }).wellFormed = false ∧
    (Instr.claim cp1 0x01#8 (List.replicate 60 0x00#8)).wellFormed = true := by decide

/-- Booking ids are 1 to 255 (R143). -/
theorem test_booking_id_out_of_range_is_ill_formed :
    (Instr.remainingMinutesZero 0).wellFormed = false ∧
    (Instr.remainingMinutesZero 256).wellFormed = false ∧
    (Instr.remainingMinutesZero 255).wellFormed = true := by decide

/-- No row of the table gives bits, so no word spells a command. -/
theorem test_no_word_spells_a_command : decodeTableWord 16 0xC303 = none ∧
    State.reset.withFetchWord 16 0xC303 = State.reset := ⟨rfl, rfl⟩

/-! ## Figures -/

/-- 00_scope, "Arcs": [3500, 100] contains 3550, 0 and 100, and neither 101 nor 3499. -/
theorem test_arc_contains :
    arcContains 3500 100 3550 = true ∧ arcContains 3500 100 0 = true ∧ arcContains 3500 100 100 = true ∧
    arcContains 3500 100 101 = false ∧ arcContains 3500 100 3499 = false := by decide

/-- Section 2.3: S = 60 and 100, W = 36 and 2. -/
theorem test_reach_and_margin :
    stopReachOf 40 30 = 60 ∧ stopReachOf (-50) 40 = 100 ∧
    windMarginOf false (some 145) 100 8 150 = 36 ∧ windMarginOf false (some 123) 120 5 100 = 2 := by
  decide

/-- Section 2.3: the envelopes [944, 1116], [3508, 52], [8, 52] and the full circle. -/
theorem test_envelopes :
    envelopeOf { mode := .inService, angle := 1000, rate := 40, radius := 450 } 60 56 = .arc 944 1116 ∧
    envelopeOf { mode := .inService, angle := 30, rate := -50, radius := 0 } 100 22 = .arc 3508 52 ∧
    envelopeOf { mode := .parked, angle := 30, rate := 0, radius := 0 } 0 22 = .arc 8 52 ∧
    envelopeOf { mode := .freeSlew, angle := 30, rate := 0, radius := 0 } 0 22 = .full := by decide

/-- Section 2.4: zones 7 and 12 against the envelopes [944, 1116] and [984, 1156]. -/
theorem test_occupancy :
    (Envelope.arc 944 1116).meets (.jib 1150 1400) = false ∧
    (Envelope.arc 944 1116).meets (.hook 600 900 400) = false ∧
    (Envelope.arc 984 1156).meets (.jib 1150 1400) = true ∧
    (Footprint.hook 600 900 400).appliesTo { mode := .inService, angle := 1040, rate := 40, radius := 350 } = false := by
  decide

/-- Section 2.5: rooms 94 and 44, and 148 and 208. -/
theorem test_slew_rooms :
    cwRoom 1000 56 [.jib 1150 1400, .hook 600 900 400] = 94 ∧
    ccwRoom 1000 56 [.jib 1150 1400, .hook 600 900 400] = 44 ∧
    cwRoom 30 22 [.jib 200 500, .jib 3300 3400] = 148 ∧ ccwRoom 30 22 [.jib 200 500, .jib 3300 3400] = 208 ∧
    ccwRoom 1000 56 [.jib 1150 1400] = 1800 := by decide

/-- Section 5.4: gust 136, then 140 with 171 in place of 120; 140, 146, 147, 150 and 151 on entry. -/
theorem test_gusts :
    gustOf [120, 130, 128, 140, 152, 160, 149, 138, 131, 127, 125, 133] = 136 ∧
    gustOf (ringAppend [120, 130, 128, 140, 152, 160, 149, 138, 131, 127, 125, 133] 171) = 140 ∧
    gustOf [140] = 140 ∧ gustOf [140, 151] = 146 ∧ gustOf [140, 151, 149] = 147 ∧
    gustOf [140, 151, 149, 160] = 150 ∧ gustOf [140, 151, 149, 160, 155] = 151 := by decide

/-- Section 5.5: mean 127 over three bins. -/
theorem test_mean : meanOf [(28800, 240), (30680, 236), (31440, 240)] = some 127 := by decide

/-- The CRC-16 with polynomial 0x1021 and initial value 0xFFFF gives 0x29B1 on the digits 1 to 9 (the
check value published for these parameters, not in spec/). -/
theorem test_crc :
    crc16 [0x31#8, 0x32#8, 0x33#8, 0x34#8, 0x35#8, 0x36#8, 0x37#8, 0x38#8, 0x39#8] = 0x29B1#16 := by
  decide +kernel

/-- R162: result byte QUEUED (2) with the NOTICE_LOSS bit, kind 0x03 + 0x80, length 1; a sample frame's
check is the exclusive-or of the other four bytes; a kind of 0x90 wraps to 0x10. -/
theorem test_frame_bytes :
    ({ kind := 0x03#8, tag := 0x7E#8, result := .queued, loss := true, body := [] } : Response).wire.take 5 =
      [0xC3#8, 0x01#8, 0x83#8, 0x7E#8, 0x82#8] ∧
    ({ kind := 0x90#8, tag := 0x00#8, result := .unknownKind, loss := false, body := [] } : Response).wire.take 5 =
      [0xC3#8, 0x01#8, 0x10#8, 0x00#8, 0x05#8] ∧
    (Notice.yieldCancel 8 4).wire.take 6 = [0xC3#8, 0x02#8, 0x43#8, 0x00#8, 0x09#8, 0x04#8] ∧
    sampleWire 0x0091#16 0x01#8 = [0xA5#8, 0x00#8, 0x91#8, 0x01#8, 0x35#8] := by decide +kernel

/-- R162 and R163: a REPORT of IN_SERVICE, angle 1000, rate −50, radius 450, byte by byte. -/
theorem test_report_body : reportOf [0x00#8, 0x03#8, 0xE8#8, 0xFF#8, 0xCE#8, 0x01#8, 0xC2#8] =
    some { mode := .inService, angle := 1000, rate := -50, radius := 450 } := by decide +kernel

/-! ## One step each -/

/-- R179 and R173: after POWER_ON, RESTARTED is set with kind POWER and no other flag. -/
theorem test_power_on :
    (after .powerOn (site running)).event .restarted = true ∧ (after .powerOn (site running)).restart = .power ∧
    (after .powerOn (site running)).permit 0 = none ∧ (after .reset (site running)).permit 0 = none := by
  decide +kernel

/-- R122: a HELLO from an OFFLINE crane answers DISARMED (1), factor 0, stage CALM (0), no latched cause. -/
theorem test_hello :
    answer cp1 (after (.hello cp1 0x01#8 [0x01#8]) (site offline)) = some (.ok, [0x01#8, 0x00#8, 0x00#8, 0x00#8]) ∧
    answer cp1 (after (.hello cp1 0x01#8 [0x02#8]) (site offline)) = some (.wrongPort, []) := by
  decide +kernel

/-- Sections 2.3 and 2.5, crane 2's figures: W = 36, envelope [944, 1116], occupying nothing. -/
theorem test_report :
    let t := after (.report cp1 0x01#8 [0x00#8, 0x03#8, 0xE8#8, 0x00#8, 0x28#8, 0x01#8, 0xC2#8])
      (windy (breeze 145 .caution) (site running))
    (t.position 0).envelope = some (.arc 944 1116) ∧ (t.position 0).occupied = [] ∧
    (t.position 0).cw = 94 ∧ (t.position 0).timer = some 100 := by decide +kernel

/-- R37 and R125: a RUNNING crane whose envelope [984, 1156] meets a zone it does not hold is HALTED. -/
theorem test_report_encroaches :
    let t := after (.report cp1 0x01#8 [0x00#8, 0x04#8, 0x10#8, 0x00#8, 0x28#8, 0x01#8, 0xC2#8])
      (windy (breeze 145 .caution) (site running))
    (t.position 0).occupied = [0] ∧ t.permitState 0 = .halted ∧ t.event .trip = true := by decide +kernel

/-- R51: a CLAIM on a FREE SHARED zone is granted; on a zone in HANDOVER it is queued. -/
theorem test_claim :
    answer cp1 (after (.claim cp1 0x01#8 [0x01#8]) (site running)) = some (.granted, []) ∧
    (after (.claim cp1 0x01#8 [0x01#8]) (site running)).heldBy 0 0 = true ∧
    answer cp1 (after (.claim cp1 0x01#8 [0x01#8]) (zoneIn (.handover 500) (site running))) = some (.queued, []) := by
  decide +kernel

/-- R50: NO_FOOTPRINT on a zone where the crane has none; R50: WRONG_STATE at stage STOP. -/
theorem test_claim_refused :
    answer cp1 (after (.claim cp1 0x01#8 [0x02#8]) (site running)) = some (.noFootprint, []) ∧
    answer cp1 (after (.claim cp1 0x01#8 [0x01#8]) (windy (breeze 205 .stop) (site stowed))) =
      some (.wrongState, []) := by decide +kernel

theorem test_withdraw :
    (after (.withdraw cp1 0x01#8 [0x01#8]) (queued claimOne (zoneIn (.handover 500) (site running)))).hasClaim 0 0 =
      false := by decide +kernel

/-- R6 and R60: the zone goes HANDOVER for its dead time of 5 s. -/
theorem test_release :
    ((after (.release cp1 0x01#8 [0x01#8]) (zoneIn (.held hold) (site running))).zone 0).state = .handover 500 := by
  decide +kernel

/-- R124 and R131: ARM at stage RESTRICT gives DERATED at the restrict factor 50. -/
theorem test_arm :
    answer cp1 (after (.arm cp1 0x01#8 []) (windy (breeze 90 .calm) (site disarmed))) =
      some (.ok, [0x02#8, 0x64#8]) ∧
    answer cp1 (after (.arm cp1 0x01#8 []) (windy (breeze 90 .restrict) (site disarmed))) =
      some (.ok, [0x03#8, 0x32#8]) := by decide +kernel

/-- R156 and R153: an ACTIVE booking ends DONE (4). -/
theorem test_lift_done :
    answer cp1 (after (.liftDone cp1 0x01#8 [0x03#8]) (booked (lift .active) (site running))) =
      some (.ok, [0x04#8]) := by decide +kernel

/-- R171: STATUS page 0 clears the flag that its own response still shows (section 10.5). -/
theorem test_status :
    let s := (site running).editBox 0 fun b => { b with loss := true }
    let t := after (.status cp1 0x01#8 [0x00#8]) s
    (t.box 0).loss = false ∧ (t.link cp1).buffer.map (·.loss) = some true := by decide +kernel

/-- R169: areas [0, 4) and [2, 6) share slots 2 and 3; [0, 4) and [4, 8) do not clash. -/
theorem test_config_areas :
    answer .planner (after (.configAreas .planner 0x01#8
      (areasBody [(0, 4), (2, 6), (0, 0), (0, 0), (0, 0), (0, 0)])) State.reset) = some (.areaOverlap, []) ∧
    answer .planner (after (.configAreas .planner 0x01#8
      (areasBody [(0, 4), (4, 8), (0, 0), (0, 0), (0, 0), (0, 256)])) State.reset) = some (.areaOverlap, []) ∧
    (after (.configAreas .planner 0x01#8
      (areasBody [(0, 4), (4, 8), (0, 0), (0, 0), (0, 0), (8, 256)])) State.reset).box 1 =
        { start := 4, stop := 8, queue := [], loss := true } := by decide +kernel

/-- R121: the first CONFIG_CRANE makes an OFFLINE record, and the blind crane is raised to RESTRICT (R107). -/
theorem test_config_crane :
    let t := after (.configCrane .planner 0x01#8 (configBody 1 cfg)) State.reset
    t.permit 1 = some { config := cfg } ∧ (t.wind 1).stage = .restrict := by decide +kernel

/-- R97: a stale time of 0 is clamped to 1, both counts are cleared. -/
theorem test_config_channel :
    let s := State.reset.editChannel 2 fun k => { k with checkFailures := 7, rejected := 9 }
    let t := after (.configChannel .planner 0x01#8 [0x02#8, 0x01#8, 0x00#8]) s
    (t.channel 2).staleTime = 1 ∧ (t.channel 2).checkFailures = 0 ∧ (t.channel 2).rejected = 0 := by
  decide +kernel

/-- R127: SENSOR_LOSS unmasked while the crane is blind halts it; ENCROACH cannot be masked. -/
theorem test_set_trip_mask :
    let s := site { running with maskSensorLoss := true }
    (after (.setTripMask .planner 0x01#8 [0x01#8, 0x00#8, 0x00#8, 0x00#8, 0x00#8, 0x00#8, 0x00#8]) s).permitState 0 =
      .halted ∧
    answer .planner (after (.setTripMask .planner 0x01#8
      [0x01#8, 0x01#8, 0x00#8, 0x00#8, 0x00#8, 0x00#8, 0x00#8]) s) = some (.badField, []) := by decide +kernel

/-- R11 and R12: STAGE_ZONE writes the shadow record of zone 2 and not its active record. -/
theorem test_stage_zone :
    let t := after (.stageZone .planner 0x01#8 (stageZoneBody 1 zoneOne)) State.reset
    t.shadowRecord 1 = zoneOne ∧ t.record 1 = {} := by decide +kernel

/-- R13: the apply is PENDING while the changed zone is held, and OK at once when it is FREE. -/
theorem test_apply_geometry :
    let s := { site running with shadow := Table.edit State.reset.shadow 0 fun _ => {} }
    answer .planner (after (.applyGeometry .planner 0x01#8 []) (zoneIn (.held hold) s)) = some (.pending, []) ∧
    answer .planner (after (.applyGeometry .planner 0x01#8 []) s) = some (.ok, []) ∧
    (after (.applyGeometry .planner 0x01#8 []) s).record 0 = {} := by decide +kernel

theorem test_abandon_apply :
    let s := (site running).editZone 0 fun d => { d with mark := true }
    ((after (.abandonApply .planner 0x01#8 []) s).zone 0).mark = false ∧
    (after (.abandonApply .planner 0x01#8 []) s).event .applyDone = false := by decide +kernel

/-- R144 and R145: the first booking after reset takes id 1 and stays BOOKED (0) with the clock INVALID. -/
theorem test_book :
    answer .planner (after (.book .planner 0x01#8 (bookBody liftFields)) (site offline)) =
      some (.ok, [0x01#8, 0x00#8]) ∧
    (after (.book .planner 0x01#8 (bookBody liftFields)) (site offline)).nextId = 2 := by decide +kernel

/-- Section 9.10: at (3, 995) and lead time 10, a booking of minute 1000 lies in its arm window, and its
claim is granted. -/
theorem test_set_clock_arms :
    let t := after (.setClock .planner 0x01#8 [0x03#8, 0x03#8, 0xE3#8, 0x0A#8])
      (booked { lift .booked with start := 1000, duration := 20, recurring := true } (site running))
    (t.bookings.map (·.state)) = [.armed] ∧ t.clock.minute = 995 ∧ t.heldBy 0 0 = true := by decide +kernel

theorem test_cancel :
    ((after (.cancel .planner 0x01#8 [0x03#8]) (booked (lift .booked) (site running))).bookings.map (·.state)) =
      [.cancelled] := by decide +kernel

/-- Section 8.7, at 40 s and 340 s: HOLD_CLOCK at second 10, RUN_CLOCK from second 10. -/
theorem test_hold_and_run_clock :
    answer .planner (after (.holdClock .planner 0x01#8 []) (clockAt 571 10 State.reset)) =
      some (.ok, [0x02#8, 0x03#8, 0x02#8, 0x3B#8, 0x0A#8]) ∧
    (after (.runClock .planner 0x01#8 []) (heldClock State.reset)).clock =
      { mode := .running, weekday := 2, minute := 571, second := 10, timer := some 100 } := by decide +kernel

/-- R129: HALT answers HALTED (4); R128: RESUME clears PLANNER_HALT and answers DISARMED (1). -/
theorem test_halt_and_resume :
    answer .planner (after (.halt .planner 0x01#8 [0x01#8]) (site running)) = some (.ok, [0x04#8]) ∧
    answer .planner (after (.resume .planner 0x01#8 [0x01#8]) (site halted)) =
      some (.ok, [0x00#8, 0x00#8, 0x00#8, 0x00#8, 0x00#8, 0x00#8, 0x01#8]) := by decide +kernel

/-- R82: the emergency claim of an OFFLINE crane waits at level 7; that of a RUNNING one is granted. -/
theorem test_emergency_claim :
    answer .planner (after (.emergencyClaim .planner 0x01#8 [0x01#8, 0x01#8]) (site offline)) = some (.queued, []) ∧
    ((after (.emergencyClaim .planner 0x01#8 [0x01#8, 0x01#8]) (site offline)).zone 0).queue =
      [{ crane := 0, level := 7, booked := false, emergency := true, arrival := 1 }] ∧
    answer .planner (after (.emergencyClaim .planner 0x01#8 [0x01#8, 0x01#8]) (site running)) =
      some (.granted, []) := by decide +kernel

/-- R84: the planner withdraws a claim that carries the emergency field too. -/
theorem test_planner_withdraw :
    (after (.plannerWithdraw .planner 0x01#8 [0x01#8, 0x01#8])
      (queued { claimOne with emergency := true } (site offline))).hasClaim 0 0 = false := by decide +kernel

/-- R61: RELEASE_OCCUPIED while the holder's jib is in the zone. -/
theorem test_force_release :
    let s := zoneIn (.held hold) (site running)
    answer .planner (after (.forceRelease .planner 0x01#8 [0x01#8, 0x01#8])
      (s.editPosition 0 fun o => { o with occupied := [0] })) = some (.releaseOccupied, []) ∧
    (after (.forceRelease .planner 0x01#8 [0x01#8, 0x01#8]) s).heldBy 0 0 = false := by decide +kernel

/-- R179: after a reset, READ_EVENTS reports RESTARTED with kind POWER (1), and clears both (R174). -/
theorem test_read_events :
    let t := after (.readEvents .planner 0x01#8 []) State.reset
    answer .planner t = some (.ok, [0x01#8, 0x00#8, 0x00#8, 0x00#8, 0x00#8, 0x00#8, 0x00#8, 0x00#8,
      0x00#8, 0x00#8, 0x01#8]) ∧ t.event .restarted = false ∧ t.restart = .none := by decide +kernel

/-- R175: ATTN goes high with the enable of a set flag. -/
theorem test_set_event_enables :
    (after (.setEventEnables .planner 0x01#8 (0x01#8 :: List.replicate 9 0x00#8)) State.reset).attn = true ∧
    State.reset.attn = false := by decide +kernel

/-- R180 and R118: after COLD_RESTART the crane is OFFLINE at stage RESTRICT, and the zone is FREE. -/
theorem test_cold_restart :
    let t := after (.coldRestart .planner 0x01#8 []) (zoneIn (.held hold) (site running))
    t.permit 0 = some { config := cfg } ∧ (t.wind 0).stage = .restrict ∧ (t.zone 0).state = .free ∧
    t.restart = .cold := by decide +kernel

/-- R168: a page beyond the content is refused BAD_FIELD. -/
theorem test_status_pages :
    answer .planner (after (.craneStatus .planner 0x01#8 [0x01#8, 0x63#8]) (site running)) = some (.badField, []) ∧
    answer .planner (after (.zoneStatus .planner 0x01#8 [0x31#8, 0x00#8]) (site running)) = some (.badField, []) ∧
    answer .planner (after (.bookingStatus .planner 0x01#8 [0x09#8, 0x00#8]) (site running)) = some (.badField, []) ∧
    (answer .planner (after (.siteStatus .planner 0x01#8 [0x00#8]) (site running))).map (·.1) = some .ok := by
  decide +kernel

/-- Chapter 10, R165: kind 0x09 is no crane kind; ARM with a body of 1 byte has the wrong length. -/
theorem test_unknown_kind_and_length :
    answer cp1 (after (.unknownKind cp1 { kind := 0x09#8, tag := 0x00#8, body := [] }) State.reset) =
      some (.unknownKind, []) ∧
    answer cp1 (after (.arm cp1 0x00#8 [0x00#8]) State.reset) = some (.length, []) := by decide +kernel

/-- An ARM request with tag 2. -/
def armFrame : Frame := { kind := 0x06#8, tag := 0x02#8, body := [] }

/-- R166: the second request waits, the third is counted as an overrun. -/
theorem test_pending_and_overrun :
    let full := State.reset.editLink cp1 fun l => { l with buffer := some okResponse, tx := .response okResponse }
    let f : Frame := { kind := 0x06#8, tag := 0x02#8, body := [] }
    ((after (.pendingRequest cp1 f) full).link cp1).waiting = some f ∧
    ((after (.requestOverrun cp1 f) (after (.pendingRequest cp1 f) full)).link cp1).overruns = 1 := by
  decide +kernel

/-- R164: a CRC that does not match, an oversize length byte and the completion timer drop the frame, set
FRAME and count; a count of 65535 stays. The bytes C3 00 06 02
are those of ARM with tag 2, whose CRC is not 0000. -/
theorem test_frame_drops :
    let bad := Instr.frameCrcError { port := cp1, bytes := [0xC3#8, 0x00#8, 0x06#8, 0x02#8, 0x00#8, 0x00#8] }
    ((after (.frameOversize { port := cp1, bytes := [0xC3#8, 0x3D#8] }) State.reset).link cp1).oversize = 1 ∧
    ((after (.frameOversize { port := cp1, bytes := [0xC3#8, 0x3C#8] }) State.reset).link cp1).oversize = 0 ∧
    (after bad State.reset).event .frame = true ∧
    ((after bad (State.reset.editLink cp1 fun l => { l with crcErrors := 65535 })).link cp1).crcErrors = 65535 ∧
    ((after (.frameCompletionTimeout cp1) (State.reset.editLink cp1 fun l => { l with rx := .inFrame 0 [0x00#8] })).link
      cp1).timeouts = 1 ∧
    ((after (.frameCompletionTimeout cp1) (after (.syncByteInHunt cp1) State.reset)).link cp1).timeouts = 0 := by
  decide +kernel

/-- R164: bytes before the sync byte are discarded uncounted, and a sync byte inside a frame is data: the
first five bytes of a frame with body C3, then its rest, complete it. -/
theorem test_bytes_inside_a_frame :
    let f : Frame := { kind := 0x09#8, tag := 0x02#8, body := [0xC3#8] }
    let head := 0x00#8 :: 0x3D#8 :: 0xC3#8 :: (requestBytes f).take 4
    let begun := after (.frameCrcError { port := cp1, bytes := head }) State.reset
    (begun.link cp1).rx = .inFrame 5 [0x01#8, 0x09#8, 0x02#8, 0xC3#8] ∧
    answer cp1 (after (.frameCrcError { port := cp1, bytes := (requestBytes f).drop 4 }) begun) =
      some (.unknownKind, []) ∧
    (begun.link cp1).oversize = 0 := by decide +kernel

/-- R167: after a response, the oldest notice is sent. -/
theorem test_transmission_end :
    let s := ((site running).editLink cp1 fun l => { l with buffer := some okResponse, tx := .response okResponse }).editBox 0
      fun b => { b with queue := [.revoked 4, .revoked 5] }
    let t := after (.transmissionEnd cp1) s
    (t.link cp1).tx = .notice (.revoked 4) ∧ (t.box 0).queue = [.revoked 5] ∧ (t.link cp1).buffer = none := by
  decide +kernel

/-- Section 10.5: the fifth notice of a queue of capacity 4 is lost; flag and site event are set. -/
theorem test_notice_overflow :
    let s := ((site running).editLink cp1 fun l => { l with tx := .notice (.revoked 0) }).editBox 0
      fun b => { b with queue := List.replicate 4 (.revoked 1) }
    let t := s.post 0 (.revoked 2)
    (t.box 0).queue.length = 4 ∧ (t.box 0).loss = true ∧ t.event .noticeLoss = true := by decide +kernel

/-- R91 and section 5.12: the first accepted sample, 133, makes the channel LIVE with gust 133. -/
theorem test_sample :
    let t := after (.sample 2 0x0085#16 0x00#8) State.reset
    (t.channel 2).state = .live ∧ (t.channel 2).gust = some 133 ∧ (t.channel 2).staleTimer = some 200 := by
  decide +kernel

/-- Section 5.11: speed 812 on a FAULTED channel ends the recovery run and keeps the ring. -/
theorem test_sample_rejected :
    let s := State.reset.editChannel 2 fun k => { k with state := .faulted, ring := [1, 2, 3, 4, 5], recoveryRun := 5 }
    let t := after (.sample 2 0x032C#16 0x00#8) s
    (t.channel 2).recoveryRun = 0 ∧ (t.channel 2).ring = [1, 2, 3, 4, 5] ∧ (t.channel 2).rejected = 1 := by
  decide +kernel

/-- R88: dropped sample frames count as check failures and set no event. The frame of section 5.11's speed 812
= 032C with status 0 is A5 03 2C 00 and the check character 8A = A5 xor 03 xor 2C. -/
theorem test_sample_drops :
    let frame (check : Byte) :=
      Instr.sampleCheckFailure { line := 3, bytes := [0xA5#8, 0x03#8, 0x2C#8, 0x00#8, check] }
    ((after (frame 0x8B#8) State.reset).channel 3).checkFailures = 1 ∧
    (after (frame 0x8B#8) State.reset).event .frame = false ∧
    ((after (frame 0x8A#8) State.reset).channel 3).checkFailures = 0 ∧
    ((after (frame 0x8A#8) State.reset).channel 3).rejected = 1 ∧
    ((after (.sampleFrameTimeout 3) (State.reset.setLine 3 (.inFrame 0 []))).channel 3).checkFailures = 1 := by
  decide +kernel

/-- R6: at the end of the handover a queued claim of a RUNNING crane is granted. -/
theorem test_handover_timer_expiry :
    (after (.handoverTimerExpiry 0) (queued claimOne (zoneIn (.handover 0) (site running)))).heldBy 0 0 = true := by
  decide +kernel

/-- R75: the holder is HALTED by YIELD_TIMEOUT and keeps the zone (section 8.7, at 90 s). -/
theorem test_yield_timer_expiry :
    let t := after (.yieldTimerExpiry 0)
      (zoneIn (.held { hold with demand := some { target := 4, timer := some 0 } }) (site running))
    t.permitState 0 = .halted ∧ t.heldBy 0 0 = true := by decide +kernel

/-- R39: silence halts a RUNNING crane with site event SILENCE. -/
theorem test_report_timer_expiry :
    let t := after (.reportTimerExpiry 0) ((site running).editPosition 0 fun o => { o with timer := some 0 })
    (t.position 0).silent = true ∧ t.permitState 0 = .halted ∧ t.event .silence = true := by decide +kernel

/-- R93: a LIVE channel goes STALE and its crane is blind at RESTRICT (R107); R95: the bin timer restarts. -/
theorem test_channel_timers :
    let live := (site offline).editChannel 0 fun k =>
      { k with
        state := .live, ring := [90], gust := some 90, staleTimer := some 0, openSum := 90, openCount := 1
        binTimer := 0 }
    ((after (.staleTimerExpiry 0) (windy (breeze 90 .calm) live)).channel 0).state = .stale ∧
    ((after (.staleTimerExpiry 0) (windy (breeze 90 .calm) live)).wind 0).stage = .restrict ∧
    ((after (.binTimerExpiry 0) (windy (breeze 90 .calm) live)).channel 0).mean = some 90 := by decide +kernel

/-- R96, first row: a sample taken first restarts the stale timer, and its expiry finds the channel LIVE;
taken second, it returns the STALE channel to LIVE with a one-entry ring. -/
theorem test_sample_and_stale_timer :
    let live := State.reset.editChannel 0 fun k =>
      { k with state := .live, ring := [90], gust := some 90, staleTimer := some 0 }
    let sample := Instr.sample 0 0x005A#16 0x00#8
    ((after (.staleTimerExpiry 0) (after sample live)).channel 0).ring = [90, 90] ∧
    (after (.staleTimerExpiry 0) (after sample live)).event .sensor = false ∧
    ((after sample (after (.staleTimerExpiry 0) live)).channel 0).ring = [90] := by decide +kernel

/-- Section 6.7, at 1830 s: gust 184, from STOP to RESTRICT, and no hold starts since 184 ≥ 140. -/
theorem test_hold_timer_expiry :
    let t := after (.holdTimerExpiry 0) (windy { breeze 184 .stop with holdTimer := some 0 } (site stowed))
    (t.wind 0).stage = .restrict ∧ (t.wind 0).holdTimer = none ∧ t.permitState 0 = .stowed := by decide +kernel

/-- Section 6.7, its last paragraph: the stow timer's expiry sets STOW_OVERDUE and the crane stays STOWING. -/
theorem test_stow_timer_expiry :
    (after (.stowTimerExpiry 0) (site stowing)).event .stowOverdue = true ∧
    (after (.stowTimerExpiry 0) (site stowing)).permitState 0 = .stowing := by decide +kernel

/-- R136: minute 1439 of weekday 6 is followed by minute 0 of weekday 0. -/
theorem test_second_timer_and_minute_tick :
    let s := { State.reset with
      clock := { mode := .running, weekday := 6, minute := 1439, second := 59, timer := some 0 } }
    (after .secondTimerExpiry s).clock = { mode := .running, weekday := 0, minute := 0, second := 0, timer := some 100 } ∧
    (after .minuteTick s).clock.minute = 0 := by decide +kernel

/-- R141, first two rows: after a SET_CLOCK to minute 571 neither the second expiry nor the tick happens. -/
theorem test_set_clock_and_second_timer :
    let t := after (.setClock .planner 0x01#8 [0x03#8, 0x02#8, 0x3B#8, 0x0A#8]) (clockAt 100 59 State.reset)
    (after .secondTimerExpiry t).clock =
      { mode := .running, weekday := 3, minute := 571, second := 0, timer := some 100 } ∧
    (after .minuteTick t).clock.minute = 571 := by decide +kernel

/-- R154: gust 145 above the limit 140 suspends an ACTIVE booking; 130 = 140 − H returns a SUSPENDED one. -/
theorem test_wind_check :
    let s (st : BookingState) (v : BitVec 16) :=
      (after (.sample 0 v 0x00#8) (booked { lift st with windLimit := some 140 }
        (windy (breeze 120 .caution) (site running)))).bookings.map (·.state)
    s .active 0x0091#16 = [.suspended] ∧ s .active 0x008C#16 = [.active] ∧
    s .suspended 0x0082#16 = [.active] ∧ s .suspended 0x0083#16 = [.suspended] := by decide +kernel

/-- R168: the queue of a zone is a list of entries behind the head for one zone, and a counted list for
zone 0; R98 and R162: governing source none is 2. -/
theorem test_zone_and_wind_bytes :
    let s := queued claimOne (site running)
    (s.zoneContent 0).drop ((s.zoneContent 0).length - 7) = [0x00#8, 0x01#8, 0x01#8, 0x00#8, 0x00#8, 0x00#8, 0x01#8] ∧
    (s.zoneAsEntry 0).drop ((s.zoneAsEntry 0).length - 8) =
      [0x01#8, 0x01#8, 0x01#8, 0x00#8, 0x00#8, 0x00#8, 0x01#8, 0x00#8] ∧
    (windBytes cfg {})[3]? = some 0x02#8 ∧ (stageZoneBody 0 zoneOne)[3]? = some 0x00#8 := by decide +kernel

/-- R58, R48, R144: CANCEL withdraws the booked claim and lets the grant's level 5 fall to the base level 1; at
the counter's end the terminal orders 40 and 65535 become 1 and 2, and the cancelled booking takes 3. -/
theorem test_booking_end_stages :
    let cancel := Instr.cancel .planner 0x01#8 [0x03#8]
    ((after cancel (booked (lift .active) (queued { claimOne with level := 5, booked := true } (site halted)))).zone
      0).queue = [] ∧
    ((after cancel (booked (lift .active) (zoneIn (.held { hold with level := 5 }) (site running)))).holding 0).map
      (·.level) = some 1 ∧
    (after cancel (twoEnded (lift .active) (site running))).bookings.map (fun b : Booking => (b.id, b.terminalOrder)) =
      [(5, 2), (3, 3), (6, 1)] ∧
    (after cancel (twoEnded (lift .active) (site running))).terminals = 3 := by decide +kernel

/-- R14, R17: the release of a marked zone with a dead time goes to HANDOVER; without one it completes the
apply. -/
theorem test_release_of_marked_zone :
    let release := Instr.release cp1 0x01#8 [0x01#8]
    let h := marked (zoneIn (.held hold) (site running))
    ((after release h).zone 0).state = .handover 500 ∧ ((after release h).zone 0).mark = true ∧
    ((after release (recorded { zoneOne with deadTime := 0 } h)).zone 0).mark = false ∧
    (after release (recorded { zoneOne with deadTime := 0 } h)).event .applyDone = true := by decide +kernel

/-- Section 9.10: tick 410 arms a booking of minute 420 with lead time 10; at tick 420 it is ACTIVE with 60
minutes remaining. -/
theorem test_minute_tick_moves_bookings :
    (after .minuteTick (booked (lift .booked) (clockAt 409 59 (site running)))).bookings.map (·.state) = [.armed] ∧
    (after .minuteTick (booked (lift .armed) (clockAt 419 59 (windy (breeze 120 .caution) (site running))))).bookings.map
      (fun b => (b.state, b.remaining)) = [(.active, 60)] := by decide +kernel

/-- R149, R152: a booking at its last minute is DONE at the tick, and not before. -/
theorem test_remaining_minutes_zero :
    let s (left second : Nat) := booked { lift .active with remaining := left } (clockAt 479 second (site running))
    (after (.remainingMinutesZero 3) (s 1 59)).bookings.map (fun b => (b.state, b.remaining)) = [(.done, 0)] ∧
    (after (.remainingMinutesZero 3) (s 1 59)).clock.minute = 480 ∧
    after (.remainingMinutesZero 3) (s 2 59) = s 2 59 ∧ after (.remainingMinutesZero 3) (s 1 58) = s 1 58 := by
  decide +kernel

/-! ## Witnesses: states and operands that meet the hypotheses of the statements, clause by clause -/

theorem witness_StepRunsFrontCommand :
    ({ State.reset with pending := [.minuteTick, .reset] } : State).pending = .minuteTick :: [.reset] := rfl

theorem witness_IdleStepPassesTime : State.reset.pending = [] := rfl

theorem witness_UnknownKindRefused :
    State.reset.ready cp1 ∧ State.reset.ready .planner ∧
    (0x00#8 : Byte).toNat < 0x01 ∧ 0x08 < (0x09#8 : Byte).toNat ∧ (0x0F#8 : Byte).toNat < 0x10 ∧
    0x27 < (0x28#8 : Byte).toNat ∧ (List.replicate 60 0x00#8).length ≤ 60 := by
  unfold State.ready; decide +kernel

theorem witness_WrongLengthRefused :
    State.reset.ready cp1 ∧ State.reset.ready .planner ∧
    (∀ n ∈ [0, 1, 2, 3, 4, 7, 10, 19, 24, 30, 54], (List.replicate (n + 1) 0x00#8).length ≠ n ∧
      (List.replicate (n + 1) 0x00#8).length ≤ 60) := by
  unfold State.ready; decide +kernel

/-- A port whose response is being sent, with a request waiting or not. -/
def sending (waiting : Option Frame) (s : State) : State :=
  s.editLink cp1 fun l =>
    { l with buffer := some okResponse, waiting := waiting, tx := .response okResponse }

/-- A port that has received the sync byte, with 50 ms left. -/
def receiving (s : State) : State := s.editLink cp1 fun l => { l with rx := .inFrame 5 [] }

/-- A port that has received the length and kind bytes of `armFrame`, with 30 ms left. -/
def begun (s : State) : State := s.editLink cp1 fun l => { l with rx := .inFrame 3 [0x00#8, 0x06#8] }

/-- The receiver in HUNT, behind the beginning of the frame, and inside another frame. -/
theorem witness_RequestsAreFrames :
    let rest : List Byte := requestBytes armFrame
    armFrame.body.length ≤ 60 ∧ (State.reset.link cp1).rx = .hunt ∧
    ((begun State.reset).link cp1).rx = .inFrame 3 [0x00#8, 0x06#8] ∧
    [0x00#8, 0x06#8] ++ rest.drop 2 = rest ∧ rest.drop 2 ≠ [] ∧ ¬[0x00#8, 0x07#8] <+: rest ∧
    ((State.reset.editLink cp1 fun l => { l with rx := .inFrame 3 [0x00#8, 0x07#8] }).link cp1).rx =
      .inFrame 3 [0x00#8, 0x07#8] := by decide +kernel

theorem witness_RequestWaitsOrOverruns :
    ((sending none State.reset).link cp1).waiting = none ∧
    ((sending none State.reset).link cp1).buffer.isSome = true ∧
    ((sending (some armFrame) State.reset).link cp1).waiting.isSome = true ∧
    ((sending none State.reset).link cp1).rx.awaits (requestBytes armFrame) = true ∧
    ((sending (some armFrame) (begun State.reset)).link cp1).rx.awaits (requestBytes armFrame) = true ∧
    (List.replicate 60 0x00#8).length ≤ 60 := by decide +kernel


/-- The length bytes 61 and 255; a damaged frame whole, and the rest of one behind its beginning. -/
theorem witness_FramesDropped :
    ((receiving State.reset).link cp1).rx = .inFrame 5 [] ∧ 60 < (0x3D#8 : Byte).toNat ∧ 60 < (0xFF#8 : Byte).toNat ∧
    (0x00#8 : Byte).toNat ≤ 60 ∧ (0x00#8 ++ 0x00#8 : BitVec 16) ≠ crc16 [0x00#8, 0x06#8, 0x02#8] ∧
    (State.reset.link cp1).rx = .hunt ∧ ((begun State.reset).link cp1).rx = .inFrame 3 [0x00#8, 0x06#8] ∧
    ([0x00#8, 0x06#8] : List Byte) ++ [0x02#8, 0x00#8, 0x00#8] = 0x00#8 :: 0x06#8 :: 0x02#8 :: ([] ++ [0x00#8, 0x00#8]) ∧
    ((State.reset.editLink cp1 fun l => { l with rx := .inFrame 0 [0x00#8] }).link cp1).rx = .inFrame 0 [0x00#8] ∧
    (∀ got, ((receiving State.reset).link cp1).rx ≠ .inFrame 0 got) ∧ (∀ got, (State.reset.link cp1).rx ≠ .inFrame 0 got) ∧
    60 < (List.replicate 61 0x00#8).length ∧ ((receiving State.reset).link cp1).rx.fresh = true := by
  refine ⟨?_, ?_, ?_, ?_, ?_, ?_, ?_, ?_, ?_, fun got h => ?_, fun got h => ?_, ?_, ?_⟩
  all_goals first
    | decide +kernel
    | exact absurd h (by rw [show ((receiving State.reset).link cp1).rx = .inFrame 5 [] by decide +kernel]; simp)
    | exact absurd h (by rw [show (State.reset.link cp1).rx = .hunt by decide +kernel]; simp)

/-- A port that sends a notice, with a response in the buffer or not. -/
def noticing (buffer : Option Response) (s : State) : State :=
  s.editLink cp1 fun l => { l with buffer := buffer, tx := .notice (.revoked 0) }

/-- A crane port with one notice queued. -/
def noticed (s : State) : State := s.editBox 0 fun b => { b with queue := [.revoked 1] }

theorem witness_TransmissionEnds :
    (State.reset.link cp1).serving = false ∧ (State.reset.link cp1).tx = .idle ∧
    ((noticing (some okResponse) (site running)).link cp1).serving = false ∧
    ((noticing (some okResponse) (site running)).link cp1).tx = .notice (.revoked 0) ∧
    ((noticing (some okResponse) (site running)).link cp1).buffer = some okResponse ∧
    ((noticing none (noticed (site running))).link cp1).serving = false ∧
    ((noticing none (noticed (site running))).link cp1).tx = .notice (.revoked 0) ∧
    ((noticing none (noticed (site running))).link cp1).buffer = none ∧
    ((noticing none (noticed (site running))).box 0).queue = [.revoked 1] ∧
    ((sending none (site running)).link cp1).serving = false ∧
    ((sending none (site running)).link cp1).tx = .response okResponse ∧
    ((sending none (site running)).link cp1).waiting = none ∧
    ((sending none (site running)).box 0).queue = [] := by decide +kernel

theorem witness_WaitingRequestIsTaken :
    let s := sending (some armFrame) (site disarmed)
    (s.link cp1).tx = .response okResponse ∧ (s.link cp1).waiting = some armFrame ∧
    (s.link cp1).rx = .hunt ∧ (s.link cp1).serving = false ∧ armFrame.body.length ≤ 60 := by decide +kernel

/-- A receiver in HUNT, behind the sync byte (lengths 0 and 60), and before the last byte of the shortest frame. -/
theorem witness_StartBytes :
    (State.reset.link cp1).rx = .hunt ∧ (0x3C#8 : Byte) ≠ 0xC3#8 ∧
    ((receiving State.reset).link cp1).rx = .inFrame 5 [] ∧ (0x3C#8 : Byte).toNat ≤ 60 ∧
    ((begun State.reset).link cp1).rx = .inFrame 3 [0x00#8, 0x06#8] ∧
    ([0x06#8, 0x02#8] : List Byte).length + 1 < (0x00#8 : Byte).toNat + 4 ∧
    ¬(([0x06#8, 0x02#8, 0x00#8] : List Byte).length + 1 < (0x00#8 : Byte).toNat + 4) ∧
    State.reset.line 0 = .hunt ∧ (0x5A#8 : Byte) ≠ 0xA5#8 ∧
    (State.reset.setLine 0 (.inFrame 2 [0x00#8, 0x5A#8])).line 0 = .inFrame 2 [0x00#8, 0x5A#8] ∧
    ([0x00#8, 0x5A#8] : List Byte).length < 3 := by decide +kernel

theorem witness_RefusalsChangeNothing :
    let i := Instr.unknownKind cp1 armFrame
    let r : Response := { kind := 0x06#8, tag := 0x02#8, result := .notConfigured, loss := false, body := [] }
    State.reset.ready cp1 ∧ exec i State.reset = .next (after i State.reset) ∧
    ((after i State.reset).link cp1).buffer = some r ∧ r.result ≠ .ok ∧ r.result ≠ .granted ∧
    r.result ≠ .queued ∧ r.result ≠ .pending := by
  refine ⟨⟨rfl, rfl, rfl, rfl⟩, rfl, ?_⟩
  decide +kernel

theorem witness_NoticePosted :
    ((site running).editBox 0 fun b => { b with queue := List.replicate 4 (.revoked 1) }).box 0 =
      { start := 40, stop := 44, queue := List.replicate 4 (.revoked 1) } ∧
    ({ start := 40, stop := 44, queue := List.replicate 4 (.revoked 1) } : NoticeBox).capacity ≤ 4 ∧
    ((noticing none (noticed (site running))).box 0).queue.length <
      ((noticing none (noticed (site running))).box 0).capacity ∧
    ((noticing none (noticed (site running))).link cp1).tx ≠ .idle ∧
    ((site running).box 0).queue = [] ∧ 0 < ((site running).box 0).capacity ∧
    ((site running).link cp1).serving = false ∧ ((site running).link cp1).tx = .idle ∧
    ((site running).link cp1).buffer = none := by decide +kernel

/-- The refusals: WRONG_PORT for the numbers 0 and 2, NOT_CONFIGURED, NO_AREA; then a taken HELLO. -/
theorem witness_HelloRegisters :
    (site offline).ready cp1 ∧ (0x00#8 : Byte).toNat ≠ (0 : CraneId).val + 1 ∧
    (0x02#8 : Byte).toNat ≠ (0 : CraneId).val + 1 ∧ (0x01#8 : Byte).toNat = (0 : CraneId).val + 1 ∧
    State.reset.ready cp1 ∧ State.reset.permit 0 = none ∧
    ((site offline).editBox 0 fun _ => {}).ready cp1 ∧
    ((site offline).editBox 0 fun _ => {}).permit 0 = some offline ∧
    (((site offline).editBox 0 fun _ => {}).box 0).capacity = 0 ∧
    (site offline).permit 0 = some offline ∧ offline.state = .offline ∧ 0 < ((site offline).box 0).capacity ∧
    (windy (breeze 205 .stop) (site offline)).ready cp1 ∧
    ((windy (breeze 205 .stop) (site offline)).wind 0).stage = .stop := by
  unfold State.ready; decide +kernel

theorem witness_HelloAgain :
    (site running).ready cp1 ∧ (site running).permit 0 = some running ∧ running.state ≠ .offline ∧
    0 < ((site running).box 0).capacity ∧ running.state = .running ∧
    (site halted).ready cp1 ∧ (site halted).permit 0 = some halted ∧ halted.state ≠ .running ∧
    halted.state ≠ .derated := by
  unfold State.ready; decide +kernel

/-- REPORT bodies: mode 3; angle 3600; a good one at angle 3599. -/
theorem witness_ReportRefused :
    State.reset.ready cp1 ∧ State.reset.permit 0 = none ∧ (site offline).ready cp1 ∧
    (site offline).permit 0 ≠ none ∧ (site offline).permitState 0 = .offline ∧ (site running).ready cp1 ∧
    (site running).permit 0 ≠ none ∧ (site running).permitState 0 ≠ .offline ∧
    2 < byteAt [0x03#8, 0x00#8, 0x00#8, 0x00#8, 0x00#8, 0x00#8, 0x00#8] 0 ∧
    3599 < wordAt [0x00#8, 0x0E#8, 0x10#8, 0x00#8, 0x00#8, 0x00#8, 0x00#8] 1 := by
  unfold State.ready; decide +kernel

/-- FREE_SLEW at angle 3599 from a RUNNING, a STOWING and a STOWED crane; the free-slewing crane encroaches
on zone 1, and INTRUSION is raised for crane 2, which holds it. -/
theorem witness_ReportTaken :
    let b : List Byte := [0x02#8, 0x0E#8, 0x0F#8, 0x00#8, 0x00#8, 0x00#8, 0x00#8]
    let s := { zoneIn (.held { hold with holder := 1 }) (site running) with
      permits := #v[some running, some running, none, none, none, none] }
    let t := after (.report cp1 0x01#8 b) s
    (site running).ready cp1 ∧ b.length = 7 ∧ (site running).permit 0 = some running ∧
    running.state ≠ .offline ∧ byteAt b 0 = Mode.freeSlew.code ∧ wordAt b 1 ≤ 3599 ∧
    (site stowing).ready cp1 ∧ (site stowing).permit 0 = some stowing ∧ stowing.state = .stowing ∧
    (site stowed).ready cp1 ∧ (site stowed).permit 0 = some stowed ∧ stowed.state = .stowed ∧
    s.ready cp1 ∧ s.permit 0 = some running ∧ (t.position 0).unheld = true ∧ running.state = .running ∧
    s.heldBy 0 1 = true ∧ s.permit 1 = some running ∧ running.maskIntrusion = false ∧
    s.occupies 0 0 = false ∧ t.occupies 0 0 = true := by
  unfold State.ready; decide +kernel

theorem witness_EnvelopeRule :
    ({ mode := .freeSlew, angle := 3599, rate := 0, radius := 0 } : Report).angle < 3600 ∧
    ({ mode := .freeSlew, angle := 3599, rate := 0, radius := 0 } : Report).mode = .freeSlew ∧
    3599 ≤ 3599 + 2 * 0 ∧ ({ mode := .parked, angle := 0, rate := 0, radius := 0 } : Report).mode ≠ .freeSlew ∧
    3598 + 2 * 0 < 3599 := by decide

/-- 24 holdings of crane 1, on zones 2 to 25. -/
def crowded (s : State) : State :=
  { s with zones := Table.mapAll s.zones fun z d =>
      if 1 ≤ z.val ∧ z.val ≤ 24 then { d with state := .held hold } else d }

/-- One case for each refusal of R50, in its order, and for ZONE_BUSY. -/
theorem witness_ClaimRefused :
    State.reset.ready cp1 ∧ State.reset.permit 0 = none ∧ (site offline).ready cp1 ∧
    (site offline).permitState 0 = .offline ∧ (site running).ready cp1 ∧
    (site running).permitState 0 ≠ .offline ∧ (0x00#8 : Byte).toNat = 0 ∧ 48 < (0x31#8 : Byte).toNat ∧
    (site running).footprint 1 0 = none ∧
    (recorded { zoneOne with kind := .excluded } (site running)).footprint 0 0 ≠ none ∧
    ((recorded { zoneOne with kind := .excluded } (site running)).record 0).kind = .excluded ∧
    (recorded { zoneOne with kind := .excluded } (site running)).openedForCrane 0 0 = false ∧
    (zoneIn (.held hold) (site running)).heldBy 0 0 = true ∧
    (queued claimOne (site running)).hasClaim 0 0 = true ∧
    24 ≤ (crowded (site running)).countOf 0 ∧ (crowded (site running)).heldBy 0 0 = false ∧
    ((windy (breeze 160 .restrict) (site running)).wind 0).stage = .restrict ∧
    (windy (breeze 160 .restrict) (site running)).levelFor 0 0 false < 4 ∧
    (windy (breeze 160 .restrict) (site running)).hasClaim 0 0 = false ∧
    ((windy (breeze 205 .stop) (site stowed)).wind 0).stage = .stop ∧
    (zoneIn (.handover 500) (recorded { zoneOne with queueing := false } (site running))).grantableButMark 0 0 = false ∧
    ((zoneIn (.handover 500) (recorded { zoneOne with queueing := false } (site running))).record 0).queueing = false := by
  unfold State.ready; decide +kernel

/-- Granted at CALM; queued in HANDOVER; queued behind a mark; and at RESTRICT with a booking level of 5. -/
theorem witness_ClaimTaken :
    let s := site running
    let h := zoneIn (.handover 500) s
    let m := (site running).editZone 0 fun d => { d with mark := true }
    let r := windy (breeze 160 .restrict) (booked (lift .active) s)
    let o := zoneIn (.held { hold with holder := 1, level := 0 }) s
    s.ready cp1 ∧ s.permit 0 ≠ none ∧ s.permitState 0 ≠ .offline ∧ s.footprint 0 0 ≠ none ∧
    (s.record 0).kind = .shared ∧ s.heldBy 0 0 = false ∧ s.hasClaim 0 0 = false ∧ s.countOf 0 < 24 ∧
    s.arrivals < 65535 ∧ (s.wind 0).stage = .calm ∧ s.grantable 0 0 = true ∧
    h.ready cp1 ∧ h.grantable 0 0 = false ∧ (h.record 0).queueing = true ∧ h.heldBy 0 0 = false ∧
    m.ready cp1 ∧ m.grantable 0 0 = false ∧ m.grantableButMark 0 0 = true ∧
    r.ready cp1 ∧ (r.wind 0).stage = .restrict ∧ 4 ≤ r.levelFor 0 0 false ∧ r.grantable 0 0 = true ∧
    o.ready cp1 ∧ o.heldBy 0 0 = false ∧ o.holding 0 = some { hold with holder := 1, level := 0 } ∧
    (o.record 0).queueing = true := by
  unfold State.ready; decide +kernel

theorem witness_ClaimsWithdrawn :
    let q := queued claimOne (site running)
    let o := queued claimOne (zoneIn (.held { hold with holder := 1 }) (site running))
    o.ready cp1 ∧ o.ready .planner ∧ o.claimOf 0 0 = some claimOne ∧
    o.holding 0 = some { hold with holder := 1 } ∧ (1 : CraneId) ≠ 0 ∧
    let e := queued { claimOne with emergency := true } (site running)
    State.reset.ready cp1 ∧ State.reset.permit 0 = none ∧ (site offline).permitState 0 = .offline ∧
    (site running).ready cp1 ∧ (0x31#8 : Byte).toNat = 49 ∧ (site running).claimOf 0 0 = none ∧
    e.ready cp1 ∧ e.permitState 0 ≠ .offline ∧ e.claimOf 0 0 = some { claimOne with emergency := true } ∧
    q.ready cp1 ∧ q.permit 0 ≠ none ∧ q.permitState 0 ≠ .offline ∧ q.claimOf 0 0 = some claimOne ∧
    claimOne.emergency = false ∧ q.ready .planner ∧ 6 < (0x07#8 : Byte).toNat ∧ q.claimOf 0 0 ≠ none ∧
    (site running).ready .planner := by
  unfold State.ready; decide +kernel

theorem witness_ReleaseRefused :
    let h := zoneIn (.held hold) (site running)
    let o := h.editPosition 0 fun x => { x with occupied := [0] }
    State.reset.ready cp1 ∧ State.reset.permit 0 = none ∧ (site offline).ready cp1 ∧
    (site offline).permitState 0 = .offline ∧ (site running).ready cp1 ∧ (site running).permit 0 ≠ none ∧
    (site running).permitState 0 ≠ .offline ∧ (0x00#8 : Byte).toNat = 0 ∧ 48 < (0x31#8 : Byte).toNat ∧
    (site running).heldBy 0 0 = false ∧ o.ready cp1 ∧ o.heldBy 0 0 = true ∧ o.occupies 0 0 = true ∧
    o.ready .planner ∧ (site running).ready .planner ∧ 6 < (0x07#8 : Byte).toNat := by
  unfold State.ready; decide +kernel

/-- A zone with a dead time; one without; a closing one; a zone with the apply-pending mark whose dead time
keeps the apply open, and one without dead time, whose release completes it. -/
theorem witness_ReleaseTaken :
    let h := zoneIn (.held hold) (site running)
    let d := recorded { zoneOne with deadTime := 0 } h
    let x := recorded { zoneOne with kind := .excluded } h
    h.heldBy 0 0 = true ∧ h.occupies 0 0 = false ∧ h.ready cp1 ∧ h.permit 0 ≠ none ∧
    h.permitState 0 ≠ .offline ∧ h.ready .planner ∧ (h.zone 0).mark = false ∧
    d.heldBy 0 0 = true ∧ d.ready cp1 ∧ (d.record 0).deadTime = 0 ∧
    x.heldBy 0 0 = true ∧ x.ready cp1 ∧ (x.record 0).kind = .excluded ∧ (x.zone 0).openedFor = none ∧
    h.hasClaim 0 0 = false ∧ (marked h).heldBy 0 0 = true ∧ (marked h).ready cp1 ∧ ((marked h).zone 0).mark = true ∧
    0 < ((marked h).record 0).deadTime ∧ ((marked h).record 0).kind = .shared ∧
    (marked d).heldBy 0 0 = true ∧ (marked d).ready cp1 ∧ ((marked d).zone 0).mark = true ∧
    ((marked d).record 0).deadTime = 0 ∧ ∀ y, y ≠ 0 → ((marked d).zone y).mark = false := by
  unfold State.ready; decide +kernel

/-- One state for each row of the table of R124. -/
theorem witness_ArmTaken :
    let silent := (site disarmed).editPosition 0 fun o => { o with silent := true }
    let unheld := (windy (breeze 90 .calm) (site disarmed)).editPosition 0 fun o => { o with unheld := true }
    State.reset.ready cp1 ∧ State.reset.permit 0 = none ∧ (site offline).permit 0 = some offline ∧
    (site offline).ready cp1 ∧ (site running).permit 0 = some running ∧ (site running).ready cp1 ∧
    (site stowed).permit 0 = some stowed ∧ stowed.stowedNote = false ∧ (site stowed).ready cp1 ∧
    ({ stowed with stowedNote := true, latched := halted.latched } : Permit).clear = false ∧
    silent.permit 0 = some disarmed ∧ (silent.position 0).silent = true ∧ silent.ready cp1 ∧
    (windy (breeze 205 .stop) (site { stowed with stowedNote := true })).ready cp1 ∧
    ((windy (breeze 205 .stop) (site { stowed with stowedNote := true })).wind 0).stage = .stop ∧
    unheld.permit 0 = some disarmed ∧ (unheld.position 0).unheld = true ∧ unheld.ready cp1 ∧
    (site disarmed).ready cp1 ∧ (site disarmed).permit 0 = some disarmed ∧ disarmed.clear = true ∧
    ((site disarmed).position 0).silent = false ∧ ((site disarmed).wind 0).stage = .calm ∧
    ((site disarmed).position 0).unheld = false := by
  unfold State.ready; decide +kernel

/-- The terminal counter below its end and at it; a plain claim, a grant and a booked claim that another
running booking keeps, where nothing is opened. -/
theorem witness_BookingEnds :
    let b := lift .active
    let s := booked b (queued claimOne (site running))
    let g := booked b (zoneIn (.held { hold with level := 5 }) (site running))
    s.terminals < 65535 ∧ 65535 ≤ (twoEnded b (site running)).terminals ∧ b ∈ (twoEnded b (site running)).bookings ∧
    (((twoEnded b (site running)).bookings.filter (·.state.terminal)).map (·.terminalOrder)).Nodup ∧
    (0 : ZoneId) ∈ b.zones ∧ (1 : ZoneId) ∉ b.zones ∧ ¬s.listedBeside b 0 ∧ s.EndsQuietly b ∧ g.EndsQuietly b ∧
    s.claimOf 0 b.crane = some claimOne ∧ claimOne.booked = false ∧ g.holding 0 = some { hold with level := 5 } ∧
    ({ hold with level := 5 } : Holding).holder = b.crane ∧
    State.listedBeside b 0 { s with bookings := [b, { lift .armed with id := 9 }] } := by
  refine ⟨?_, ?_, ?_, ?_, ?_, ?_, ?_, ⟨rfl, ?_, fun h => nomatch h⟩, ⟨rfl, ?_, fun h => nomatch h⟩, ?_, ?_, ?_, ?_, ?_⟩
  all_goals first
    | decide +kernel
    | (unfold State.listedBeside; decide +kernel)

theorem witness_LiftDoneTaken :
    let s := booked (lift .active) (site running)
    State.reset.ready cp1 ∧ State.reset.permit 0 = none ∧ (site offline).ready cp1 ∧
    (site offline).permitState 0 = .offline ∧ s.ready cp1 ∧ s.permit 0 ≠ none ∧ s.permitState 0 ≠ .offline ∧
    s.bookingById 4 = none ∧ (booked (lift .armed) (site running)).bookingById 3 = some (lift .armed) ∧
    s.bookingById 3 = some (lift .active) ∧ (lift .active).crane = 0 ∧ (lift .active).state = .active := by
  unfold State.ready; decide +kernel

/-- The boundary numbers of each paged request, and pages below and at the page count. -/
theorem witness_StatusPages :
    let s := booked (lift .active) (site running)
    s.ready .planner ∧ s.ready cp1 ∧ s.permit 0 = some running ∧ s.permit 1 = none ∧
    s.bookingById 3 = some (lift .active) ∧ s.bookingById 4 = none ∧ 6 < (0x07#8 : Byte).toNat ∧
    48 < (0x31#8 : Byte).toNat ∧ (0x03#8 : Byte) ≠ 0x00#8 ∧
    (0x00#8 : Byte).toNat < max 1 ((s.siteContent.length + 57) / 58) ∧
    1 < max 1 ((s.siteContent.length + 57) / 58) ∧
    max 1 ((s.siteContent.length + 57) / 58) ≤ (0xFF#8 : Byte).toNat ∧
    State.reset.ready cp1 ∧ State.reset.permit 0 = none := by
  unfold State.ready; decide +kernel

/-- Areas [0, 4) and [2, 6) clash; an end of 257; an end below its start; [0, 4) and [4, 256) are taken. -/
theorem witness_AreasConfigured :
    let clash := areasBody [(0, 4), (2, 6), (0, 0), (0, 0), (0, 0), (0, 0)]
    let beyond := areasBody [(0, 257), (0, 0), (0, 0), (0, 0), (0, 0), (0, 0)]
    let inverted := areasBody [(5, 4), (0, 0), (0, 0), (0, 0), (0, 0), (0, 0)]
    let good := areasBody [(0, 4), (4, 256), (0, 0), (0, 0), (0, 0), (0, 0)]
    State.reset.ready .planner ∧ clash.length = 24 ∧ beyond.length = 24 ∧ inverted.length = 24 ∧
    good.length = 24 ∧ wordAt clash 0 ≤ 2 ∧ 2 < wordAt clash 2 ∧ wordAt clash 4 ≤ 2 ∧ 2 < wordAt clash 6 ∧
    256 < wordAt beyond 2 ∧ wordAt inverted 2 < wordAt inverted 0 ∧
    (∀ c : CraneId, wordAt good (4 * c.val) ≤ wordAt good (4 * c.val + 2) ∧ wordAt good (4 * c.val + 2) ≤ 256) ∧
    (∀ c d : CraneId, c ≠ d → min (wordAt good (4 * c.val + 2)) (wordAt good (4 * d.val + 2)) ≤
      max (wordAt good (4 * c.val)) (wordAt good (4 * d.val))) := by
  unfold State.ready; decide +kernel

theorem witness_CraneConfigured :
    let b := configBody 0 cfg
    let flat := configBody 0 { cfg with restrict := 100 }
    State.reset.ready .planner ∧ (site disarmed).ready .planner ∧ (site running).ready .planner ∧
    b.length = 30 ∧ byteAt b 0 = (0 : CraneId).val + 1 ∧ byteAt (b.set 0 0x00#8) 0 = 0 ∧
    6 < byteAt (b.set 0 0x07#8) 0 ∧ (site running).permitState 0 ≠ .offline ∧
    (site running).permitState 0 ≠ .disarmed ∧ State.reset.permitState 0 = .offline ∧
    (site disarmed).permitState 0 = .disarmed ∧ 7 < byteAt (b.set 9 0x08#8) 9 ∧
    7 < byteAt (b.set 10 0x08#8) 10 ∧ byteAt (b.set 10 0x08#8) 10 ≠ 255 ∧
    ¬(clamp 50 500 (wordAt flat 12) < clamp 50 500 (wordAt flat 14)) ∧
    byteAt b 9 ≤ 7 ∧ byteAt b 10 ≤ 7 ∧ byteAt (b.set 10 0xFF#8) 10 = 255 ∧
    clamp 50 500 (wordAt b 12) < clamp 50 500 (wordAt b 14) ∧
    clamp 50 500 (wordAt b 14) < clamp 50 500 (wordAt b 16) := by
  unfold State.ready; decide +kernel

theorem witness_ChannelConfigured :
    State.reset.ready .planner ∧ 7 < (0x08#8 : Byte).toNat ∧ 1 < (0x02#8 : Byte).toNat ∧
    (0x07#8 : Byte).toNat = (7 : ChannelId).val ∧ (State.reset.channel 7).enable = true ∧
    ((State.reset.editChannel 7 fun k => { k with enable := false }).channel 7).enable = false ∧
    (State.reset.editChannel 7 fun k => { k with enable := false }).ready .planner := by
  unfold State.ready; decide +kernel

/-- Another crane's jib in a zone that crane 1 holds, so that crane 1 is intruded upon. -/
def intruded (p : Permit) : State :=
  (zoneIn (.held hold) (site p)).editPosition 1 fun o => { o with occupied := [0] }

theorem witness_TripMaskSet :
    let p := { running with maskIntrusion := true, maskSensorLoss := true }
    State.reset.ready .planner ∧ (0x00#8 : Byte).toNat = 0 ∧ 6 < (0x07#8 : Byte).toNat ∧
    1 < (0x02#8 : Byte).toNat ∧ (0x01#8 : Byte) ≠ 0x00#8 ∧ (0x06#8 : Byte).toNat = (5 : CraneId).val + 1 ∧
    State.reset.permit 5 = none ∧ (0x01#8 : Byte).toNat = (0 : CraneId).val + 1 ∧
    (intruded p).ready .planner ∧ (intruded p).permit 0 = some p ∧ p.state = .running ∧
    p.maskIntrusion = true ∧ p.maskSensorLoss = true ∧ (intruded p).intruded 0 = true ∧
    ((intruded p).wind 0).blind = true := by
  unfold State.ready; decide +kernel

theorem witness_ZoneStaged :
    let b := stageZoneBody 47 zoneOne
    let m := (site running).editZone 0 fun d => { d with mark := true }
    State.reset.ready .planner ∧ b.length = 54 ∧ byteAt (b.set 0 0x00#8) 0 = 0 ∧
    48 < byteAt (b.set 0 0x31#8) 0 ∧ zoneRecordOf (b.set 1 0x02#8) = none ∧
    byteAt b 0 = (47 : ZoneId).val + 1 ∧ zoneRecordOf b = some zoneOne ∧ m.ready .planner ∧
    (m.zone 0).mark = true ∧ (∀ y, (State.reset.zone y).mark = false) := by
  unfold State.ready; decide +kernel

/-- The site with zone 1 changed in the shadow table alone. -/
def restaged : State := { site running with shadow := Table.edit State.reset.shadow 0 fun _ => {} }

theorem witness_GeometryApplied :
    let m := (site running).editZone 0 fun d => { d with mark := true }
    m.ready .planner ∧ (m.zone 0).mark = true ∧ (site running).ready .planner ∧
    (∀ z, ((site running).zone z).mark = false) ∧ (∀ z, (site running).record z = (site running).shadowRecord z) ∧
    (zoneIn (.handover 500) restaged).ready .planner ∧ (∀ z, ((zoneIn (.handover 500) restaged).zone z).mark = false) ∧
    (zoneIn (.handover 500) restaged).record 0 ≠ (zoneIn (.handover 500) restaged).shadowRecord 0 ∧
    ((zoneIn (.handover 500) restaged).zone 0).state = .handover 500 ∧
    restaged.ready .planner ∧ restaged.record 0 ≠ restaged.shadowRecord 0 ∧ (∀ z, (restaged.zone z).mark = false) ∧
    (∀ z, (restaged.zone z).state = .free) := by
  unfold State.ready; decide +kernel

theorem witness_ApplyAbandoned :
    let m := (site running).editZone 0 fun d => { d with mark := true }
    State.reset.ready .planner ∧ (∀ z, (State.reset.zone z).mark = false) ∧ m.ready .planner ∧
    (m.zone 0).mark = true := by
  unfold State.ready; decide +kernel

/-- A full table: 32 bookings of crane 6 that have not ended, in windows of one minute. -/
def fullTable (st : BookingState) (s : State) : State :=
  { s with bookings := (List.range 32).map fun i =>
      { lift st with id := i + 1, crane := 5, zones := [47], start := i, duration := 1 } }

theorem witness_BookRefused :
    let b := bookBody liftFields
    (site offline).ready .planner ∧ b.length = 19 ∧ bookOf b = some liftFields ∧
    byteAt (b.set 0 0x00#8) 0 = 0 ∧ 6 < byteAt (b.set 0 0x07#8) 0 ∧ 7 < byteAt (b.set 1 0x08#8) 1 ∧
    1439 < wordAt (b.set 2 0xFF#8) 2 ∧ byteAt (b.set 8 0x00#8) 8 = 0 ∧ 8 < byteAt (b.set 8 0x09#8) 8 ∧
    1 < byteAt (b.set 17 0x02#8) 17 ∧ 1 < byteAt (b.set 18 0x02#8) 18 ∧ byteAt (b.set 9 0x31#8) 9 = 49 ∧
    byteAt ((b.set 8 0x02#8).set 10 0x01#8) 9 = byteAt ((b.set 8 0x02#8).set 10 0x01#8) 10 ∧
    State.reset.ready .planner ∧ State.reset.permit liftFields.crane = none ∧
    bookOf (bookBody { liftFields with duration := 241 }) = some { liftFields with duration := 241 } ∧
    bookOf (bookBody { liftFields with start := 1400, duration := 41 }) =
      some { liftFields with start := 1400, duration := 41 } ∧
    bookOf (bookBody { liftFields with zones := [1] }) = some { liftFields with zones := [1] } ∧
    (site offline).footprint 1 0 = none ∧
    (booked (lift .booked) (site offline)).ready .planner ∧ (lift .booked).state.terminal = false ∧
    (fullTable .booked (site offline)).ready .planner ∧ 32 ≤ (fullTable .booked (site offline)).bookings.length ∧
    ((fullTable .booked (site offline)).bookings.all fun o => !o.state.terminal) = true := by
  unfold State.ready; decide +kernel

/-- A full table of ended bookings of crane 6, the first of them the oldest. -/
def ended (s : State) : State :=
  { s with bookings := (List.range 32).map fun i =>
      { lift .done with id := i + 1, crane := 5, zones := [47], terminalOrder := i + 1 } }

/-- With the clock HELD at minute 571 and lead time 10: a lift in its window from its first and in its last
minute, one at its arm point, and one a minute before it; an OPENS_EXCLUSION lift on a CLOSED zone. -/
theorem witness_BookTaken_judged :
    let s := heldClock (site offline)
    let x := zoneIn .closed (recorded { zoneOne with kind := .excluded } s)
    let f (start duration : Nat) : Booking := { lift .booked with start := start, duration := duration }
    let span (b : Booking) : Bool := decide (b.start ≤ s.clock.minute ∧ s.clock.minute < b.start + b.duration)
    s.ready .planner ∧ s.clock.mode = .held ∧ s.clock.minute = 571 ∧ s.leadTime = 10 ∧
    span (f 571 1) = true ∧ span (f 570 1) = false ∧ span (f 540 32) = true ∧ span (f 572 10) = false ∧
    (f 581 1).start - s.leadTime = s.clock.minute ∧ s.clock.minute < (f 582 1).start - s.leadTime ∧
    (s.wind 0).blind = true ∧ s.countOf 0 + 1 ≤ 24 ∧ (s.record 0).kind = .shared ∧
    x.ready .planner ∧ (x.record 0).kind = .excluded ∧ (x.zone 0).state = .closed ∧ x.footprint 0 0 ≠ none ∧
    (zoneIn (.held hold) s).holding 0 = some hold ∧
    ((zoneIn (.handover 3) s).zone 0).state = .handover 3 := by
  unfold State.ready; decide +kernel

/-- The full table: the entry with terminal order 1 gives its slot. -/
theorem witness_BookTaken_full :
    let s := ended (site offline)
    s.ready .planner ∧ 32 ≤ s.bookings.length ∧ (∀ v ∈ s.bookings, v.state.terminal = true) ∧
    s.bookings.head? = some { lift .done with id := 1, crane := 5, zones := [47], terminalOrder := 1 } ∧
    (∀ o ∈ s.bookings.tail, 1 < o.terminalOrder) ∧ s.nextId = 1 ∧
    (∀ o ∈ s.bookings, o.id ≠ 33) ∧ 33 = (s.nextId + 32 - 1) % 255 + 1 ∧
    (∀ e, e < 32 → ∃ o ∈ s.bookings, o.id = (s.nextId + e - 1) % 255 + 1) := by
  unfold State.ready; decide +kernel

theorem witness_BookTaken :
    let s := booked { lift .booked with id := 255, start := 480, duration := 30 } { site offline with nextId := 255 }
    s.ready .planner ∧ (bookBody liftFields).length = 19 ∧ bookOf (bookBody liftFields) = some liftFields ∧
    s.permit liftFields.crane = some offline ∧ 1 ≤ liftFields.duration ∧ liftFields.duration ≤ 240 ∧
    liftFields.start + liftFields.duration ≤ 1440 ∧
    (∀ z ∈ liftFields.zones, s.footprint z liftFields.crane ≠ none) ∧
    (∀ o ∈ s.bookings, o.state.terminal = true ∨ liftFields.start + liftFields.duration ≤ o.start) ∧
    s.bookings.length < 32 ∧ 1 ≤ s.nextId ∧ s.nextId ≤ 255 ∧ (1 = (s.nextId + 1 - 1) % 255 + 1) ∧
    (∀ o ∈ s.bookings, o.id ≠ 1) ∧ (∀ e, e < 1 → ∃ o ∈ s.bookings, o.id = (s.nextId + e - 1) % 255 + 1) ∧
    s.clock.mode = .invalid ∧ (heldClock s).ready .planner ∧ (heldClock s).clock.mode ≠ .invalid := by
  unfold State.ready; decide +kernel

theorem witness_BookingCancelled :
    State.reset.ready .planner ∧ State.reset.bookingById 0 = none ∧
    (booked (lift .done) (site running)).bookingById 3 = some (lift .done) ∧
    (booked (lift .done) (site running)).ready .planner ∧
    (booked (lift .suspended) (site running)).bookingById 3 = some (lift .suspended) ∧
    (booked (lift .suspended) (site running)).ready .planner ∧
    (∀ z, ((booked (lift .suspended) (site running)).zone z).mark = false) ∧
    (((booked (lift .suspended) (site running)).editZone 0 fun d => { d with openedFor := some 3 }).zone
      0).openedFor = some (lift .suspended).id ∧
    (((booked (lift .suspended) (site running)).editZone 0 fun d => { d with openedFor := some 4 }).zone
      0).openedFor ≠ some (lift .suspended).id ∧
    (zoneIn (.held hold) (site running)).holding 0 = some hold ∧
    (zoneIn (.handover 3) (site running)).holding 0 = none := by
  unfold State.ready; decide +kernel

/-- One booking for each row of R158, at minute 571 of weekday 2 with lead time 10. -/
theorem witness_ClockSet_judged :
    let at' (b : Booking) (s : State) := booked b (heldClock s)
    let b (st : BookingState) (start : Nat) : Booking := { lift st with weekday := some 2, start := start, duration := 20 }
    let on (x : Booking) : Bool := x.weekday == none || x.weekday == some 2
    let span (x : Booking) : Bool := on x && decide (x.start ≤ 571 ∧ 571 < x.start + x.duration)
    let arm (x : Booking) : Bool := on x && decide (10 ≤ x.start ∧ x.start - 10 ≤ 571 ∧ 571 < x.start)
    let s := at' (b .armed 551) (site running)
    s.ready .planner ∧ (s.bookings.map (·.id)).Nodup ∧ b .armed 551 ∈ s.bookings ∧
    span (b .booked 552) = true ∧ span (b .armed 571) = true ∧ span (b .booked 551) = false ∧
    arm (b .booked 581) = true ∧ arm (b .armed 572) = true ∧ arm (b .booked 582) = false ∧
    on (b .armed 551) = true ∧ (b .armed 551).start + 20 ≤ 571 ∧ span (b .armed 582) = false ∧
    ¬((b .armed 582).start + 20 ≤ 571) ∧ on { b .armed 571 with weekday := some 3 } = false ∧
    (b .active 0).state = .active ∧ (b .done 0).state.terminal = true := by
  unfold State.ready; decide +kernel

theorem witness_ClockSet :
    State.reset.ready .planner ∧ 6 < (0x07#8 : Byte).toNat ∧
    1439 < 256 * (0x05#8 : Byte).toNat + (0xA0#8 : Byte).toNat ∧ (0x06#8 : Byte).toNat ≤ 6 ∧
    256 * (0x05#8 : Byte).toNat + (0x9F#8 : Byte).toNat ≤ 1439 := by
  unfold State.ready; decide +kernel

theorem witness_ClockHeldAndRun :
    State.reset.ready .planner ∧ State.reset.clock.mode = .invalid ∧
    (clockAt 571 10 State.reset).ready .planner ∧ (clockAt 571 10 State.reset).clock.mode = .running ∧
    (heldClock State.reset).ready .planner ∧ (heldClock State.reset).clock.mode = .held := by
  unfold State.ready; decide +kernel

theorem witness_HaltTaken :
    State.reset.ready .planner ∧ (0x00#8 : Byte).toNat = 0 ∧ 6 < (0x07#8 : Byte).toNat ∧
    (0x01#8 : Byte).toNat = (0 : CraneId).val + 1 ∧ State.reset.permit 0 = none ∧
    (site offline).ready .planner ∧ (site offline).permit 0 = some offline ∧ offline.state = .offline ∧
    (site running).ready .planner ∧ (site running).permit 0 = some running ∧ running.state = .running ∧
    (site halted).ready .planner ∧ (site halted).permit 0 = some halted ∧
    halted.hasLatched .plannerHalt = true ∧ (site stowed).ready .planner ∧
    (site stowed).permit 0 = some stowed ∧ stowed.hasLatched .plannerHalt = false := by
  unfold State.ready; decide +kernel

theorem witness_ResumeTaken :
    State.reset.ready .planner ∧ 6 < (0x07#8 : Byte).toNat ∧ (0x01#8 : Byte).toNat = (0 : CraneId).val + 1 ∧
    State.reset.permit 0 = none ∧ (site running).ready .planner ∧ (site running).permit 0 = some running ∧
    running.hasLatched .encroach = false ∧ running.clear = true ∧ (site halted).ready .planner ∧
    (site halted).permit 0 = some halted ∧ halted.hasLatched .plannerHalt = true ∧
    (site halted).claimZones 0 = [] := by
  unfold State.ready; decide +kernel

/-- One state for each refusal of R81, and one for each row of R82. -/
theorem witness_EmergencyTaken :
    let q := queued claimOne (site running)
    let h := zoneIn (.held hold) (site running)
    let o := zoneIn (.held { hold with holder := 1 })
    State.reset.ready .planner ∧ 6 < (0x07#8 : Byte).toNat ∧ 48 < (0x31#8 : Byte).toNat ∧
    (o (site running)).ready .planner ∧ (o (site running)).claimOf 0 0 = none ∧
    (o (site running)).heldBy 0 0 = false ∧
    (o (site running)).holding 0 = some { hold with holder := 1 } ∧ (o q).ready .planner ∧
    (o q).claimOf 0 0 = some claimOne ∧ (o q).holding 0 = some { hold with holder := 1 } ∧
    State.reset.permit 0 = none ∧ (site running).ready .planner ∧ (site running).permit 0 ≠ none ∧
    (site running).footprint 1 0 = none ∧
    (recorded { zoneOne with kind := .excluded } (site running)).openedForCrane 0 0 = false ∧
    ((queued { claimOne with emergency := true } (site running)).claimOf 0 0).any (·.emergency) = true ∧
    24 ≤ (crowded (site running)).countOf 0 ∧ (crowded (site running)).heldBy 0 0 = false ∧
    (crowded (site running)).hasClaim 0 0 = false ∧ (site running).footprint 0 0 ≠ none ∧
    ((site running).record 0).kind = .shared ∧ q.ready .planner ∧ q.claimOf 0 0 = some claimOne ∧
    claimOne.emergency = false ∧ h.ready .planner ∧ h.claimOf 0 0 = none ∧ h.holding 0 = some hold ∧
    hold.holder = 0 ∧ hold.emergency = false ∧ (site running).claimOf 0 0 = none ∧
    (site running).heldBy 0 0 = false ∧ (site running).countOf 0 < 24 ∧ (site running).arrivals < 65535 := by
  unfold State.ready; decide +kernel

theorem witness_EventsReadAndEnabled :
    State.reset.ready .planner ∧ (List.replicate 10 (0x02#8 : Byte)).length = 10 ∧
    (∃ x ∈ List.replicate 10 (0x02#8 : Byte), 1 < x.toNat) ∧
    (∀ x ∈ List.replicate 10 (0x01#8 : Byte), x.toNat ≤ 1) := by
  unfold State.ready; decide +kernel

/-- With the clock INVALID and with the clock HELD; a booking that ran, and an ended one; an EXCLUDED zone. -/
theorem witness_ColdRestartTaken :
    (booked (lift .active) (site running)).ready .planner ∧
    ((booked (lift .active) (site running)).bookings.map (·.id)).Nodup ∧
    (booked (lift .active) (site running)).clock.mode = .invalid ∧
    (heldClock (booked (lift .done) (site running))).ready .planner ∧
    ((heldClock (booked (lift .done) (site running))).bookings.map (·.id)).Nodup ∧
    (heldClock (booked (lift .done) (site running))).clock.mode ≠ .invalid ∧
    ((recorded { zoneOne with kind := .excluded } (site running)).record 0).kind = .excluded ∧
    (noticed (site running)).ready .planner ∧ ((noticed (site running)).bookings.map (·.id)).Nodup ∧
    (∀ b ∈ (noticed (site running)).bookings, b.crane ≠ 0) ∧ (noticed (site running)).permit 0 ≠ none ∧
    (noticed (site running)).permit 1 = none := by
  unfold State.ready; decide +kernel

/-- The wind check on channel 0's sample: a gust that changed (from 120 to 145 above the limit 140, and to 130
= 140 − H), and one that did not. -/
theorem witness_SampleAccepted_bookings :
    let s (st : BookingState) := booked { lift st with windLimit := some 140 } (windy (breeze 120 .caution) (site running))
    ((s .active).channel 0).enable = true ∧ ((s .active).channel 0).state ≠ .faulted ∧
    ((s .active).bookings.map (·.id)).Nodup ∧ { lift .active with windLimit := some 140 } ∈ (s .active).bookings ∧
    ((s .active).wind 0).gust ≠ some 145 ∧ ((s .suspended).wind 0).gust ≠ some 130 ∧ 130 + cfg.hysteresis ≤ 140 ∧
    ¬(131 + cfg.hysteresis ≤ 140) ∧ ((s .active).wind 0).gust = some 120 ∧ ((s .active).wind 0).blind = false ∧
    ((after (.sample 0 0x0078#16 0x00#8) (s .active)).wind 0).stage = ((s .active).wind 0).stage := by
  decide +kernel

/-- Channel 1 as crane 1's fallback while its primary, channel 0, is not LIVE; channel 0 as its primary. -/
theorem witness_SampleAccepted :
    (State.reset.channel 0).enable = true ∧ (0x02BC#16 : BitVec 16).toNat ≤ 700 ∧
    (State.reset.line 0).awaits (sampleBytes 0x02BC#16 0x00#8) = true ∧
    (State.reset.channel 0).state ≠ .faulted ∧ (site running).permit 0 = some running ∧
    running.config.primary = 0 ∧ running.config.primary ≠ 1 ∧ running.config.fallback = some 1 ∧
    ((site running).channel running.config.primary).state ≠ .live ∧ running.config.primary ≠ 2 ∧
    running.config.fallback ≠ some 2 := by decide +kernel

theorem witness_SampleRejectedOrRecovering :
    let f (run : Nat) := State.reset.editChannel 0 fun k => { k with state := .faulted, recoveryRun := run }
    let r (run : Nat) := State.reset.editChannel 0 fun k => { k with rejectedRun := run }
    (State.reset.channel 0).enable = true ∧ 700 < (0x02BD#16 : BitVec 16).toNat ∧ (0x01#8 : Byte) ≠ 0x00#8 ∧
    (State.reset.line 0).awaits (sampleBytes 0x02BD#16 0x01#8) = true ∧
    ((f 10).channel 0).state = .faulted ∧ ((f 10).channel 0).recoveryRun < 11 ∧
    11 ≤ ((f 11).channel 0).recoveryRun ∧ ((f 11).channel 0).openCount = 0 ∧ ((f 11).channel 0).openSum = 0 ∧
    ((r 6).channel 0).state ≠ .faulted ∧ ((r 6).channel 0).rejectedRun < 7 ∧
    7 ≤ ((r 7).channel 0).rejectedRun ∧ ((r 7).channel 0).state ≠ .faulted := by decide +kernel

/-- The sample 90 = 005A with status 0, whose check character is A5 xor 5A = FF. -/
theorem witness_SamplesDropped :
    let half := State.reset.setLine 0 (.inFrame 1 [0x00#8, 0x5A#8])
    ((State.reset.editChannel 0 fun k => { k with enable := false }).channel 0).enable = false ∧
    (State.reset.line 0).awaits (sampleBytes 0x005A#16 0x00#8) = true ∧ State.reset.line 0 = .hunt ∧
    half.line 0 = .inFrame 1 [0x00#8, 0x5A#8] ∧
    ([0x00#8, 0x5A#8] : List Byte) ++ [0x00#8, 0xFF#8] = [0x00#8, 0x5A#8, 0x00#8, 0xFF#8] ∧
    (0xFF#8 : Byte) = 0xA5#8 ^^^ 0x00#8 ^^^ 0x5A#8 ^^^ 0x00#8 ∧ (0xFE#8 : Byte) ≠ 0xA5#8 ^^^ 0x00#8 ^^^ 0x5A#8 ^^^ 0x00#8 ∧
    ¬([0x00#8, 0x5A#8] : List Byte) <+: [0x00#8, 0x5B#8, 0x00#8, 0xFE#8] ∧
    (State.reset.setLine 0 (.inFrame 0 [])).line 0 = .inFrame 0 [] ∧ (∀ got, half.line 0 ≠ .inFrame 0 got) ∧
    (∀ got, State.reset.line 0 ≠ .inFrame 0 got) := by
  refine ⟨?_, ?_, ?_, ?_, ?_, ?_, ?_, ?_, ?_, fun got h => ?_, fun got h => ?_⟩
  all_goals first
    | decide +kernel
    | exact absurd h (by
        rw [show (State.reset.setLine 0 (.inFrame 1 [0x00#8, 0x5A#8])).line 0 = .inFrame 1 [0x00#8, 0x5A#8] by decide +kernel]
        simp)
    | exact absurd h (by rw [show State.reset.line 0 = .hunt by decide +kernel]; simp)

/-- Channel 0 LIVE with one sample, its timers run out. -/
def liveZero (s : State) : State :=
  s.editChannel 0 fun k =>
    { k with state := .live, ring := [90], gust := some 90, staleTimer := some 0, openSum := 90, openCount := 1,
             binTimer := 0 }

theorem witness_ChannelTimersExpire :
    let b := booked (lift .active) (windy (breeze 90 .calm) (liveZero (site running)))
    (State.reset.channel 0).staleTimer ≠ some 0 ∧ ((liveZero (site running)).channel 0).staleTimer = some 0 ∧
    (State.reset.channel 0).binTimer ≠ 0 ∧ ((liveZero (site running)).channel 0).binTimer = 0 ∧
    ((State.reset.editChannel 0 fun k => { k with binTimer := 0 }).channel 0).binTimer = 0 ∧
    (b.channel 0).staleTimer = some 0 ∧ (b.channel 0).state = .live ∧ (b.bookings.map (·.id)).Nodup ∧
    lift .active ∈ b.bookings ∧ (b.wind 0).blind = false ∧ b.permit 0 = some running ∧
    running.maskSensorLoss = false ∧ running.state = .running ∧
    ((liveZero (site running)).channel 0).state = .live ∧ (liveZero (site running)).permit 0 = some running ∧
    running.config.primary = 0 ∧ running.config.fallback = some 1 ∧
    ((liveZero (site running)).channel 1).state ≠ .live ∧ (State.reset.channel 0).state ≠ .live := by
  decide +kernel

/-- Stopped; and running at STOP (with a STOWING crane), RESTRICT and CAUTION, with and without a new hold. -/
theorem witness_HoldTimerExpires :
    let s (g : Nat) (st : Stage) := windy { breeze g st with holdTimer := some 0 } (site stowing)
    (site stowing).permit 0 = some stowing ∧ ((site stowing).wind 0).holdTimer ≠ some 0 ∧
    ((windy { breeze 184 .stop with holdTimer := some 1 } (site stowing)).wind 0).holdTimer ≠ some 0 ∧
    ((booked (lift .suspended) (s 184 .stop)).bookings.map (·.id)).Nodup ∧
    lift .suspended ∈ (booked (lift .suspended) (s 184 .stop)).bookings ∧
    (s 184 .stop).permit 0 = some stowing ∧ ((s 184 .stop).wind 0).holdTimer = some 0 ∧
    ((s 184 .stop).wind 0).stage = .stop ∧ stowing.state = .stowing ∧
    139 + stowing.config.hysteresis < stowing.config.restrict ∧ ((s 139 .stop).wind 0).gust = some 139 ∧
    ¬(140 + stowing.config.hysteresis < stowing.config.restrict) ∧ ((s 140 .stop).wind 0).gust = some 140 ∧
    ((s 89 .restrict).wind 0).stage = .restrict ∧ 89 + stowing.config.hysteresis < stowing.config.caution ∧
    ¬(90 + stowing.config.hysteresis < stowing.config.caution) ∧ ((s 90 .restrict).wind 0).gust = some 90 ∧
    ((s 89 .caution).wind 0).stage = .caution ∧ (1 : CraneId) ≠ 0 := by decide +kernel

theorem witness_ZoneTimersExpire :
    let y (t : Timer) := zoneIn (.held { hold with demand := some { target := 4, timer := t } }) (site running)
    let w := queued claimOne (zoneIn (.handover 0) (site running))
    let n := queued claimOne (zoneIn (.handover 0) (site halted))
    let free (s : State) := s.editZone 0 fun d => { d with state := .free }
    (State.reset.zone 0).state ≠ .handover 0 ∧
    ((zoneIn (.handover 1) (site running)).zone 0).state ≠ .handover 0 ∧
    (w.zone 0).state = .handover 0 ∧ (w.zone 0).mark = false ∧ (w.zone 0).queue = [] ++ claimOne :: [] ∧
    (free w).grantable 0 0 = true ∧ (n.zone 0).state = .handover 0 ∧ (n.zone 0).queue = [claimOne] ∧
    (free n).grantable 0 0 = false ∧
    (y none).holding 0 = some { hold with demand := some { target := 4, timer := none } } ∧
    (y (some 1)).holding 0 = some { hold with demand := some { target := 4, timer := some 1 } } ∧
    (y (some 0)).holding 0 = some { hold with demand := some { target := 4, timer := some 0 } } ∧
    (y (some 0)).permit 0 = some running ∧ running.state = .running ∧ hold.holder = 0 := by decide +kernel

theorem witness_CraneTimersExpire :
    let s := (site running).editPosition 0 fun o => { o with timer := some 0 }
    (State.reset.position 0).timer ≠ some 0 ∧ (s.position 0).timer = some 0 ∧ s.permit 0 = some running ∧
    running.state ≠ .offline ∧ running.state = .running ∧ (site stowing).permit 0 = some stowing ∧
    stowing.state = .stowing ∧ stowing.stowTimer = some 0 ∧ stowed.state ≠ .stowing ∧
    ({ stowing with stowTimer := some 1 } : Permit).stowTimer ≠ some 0 := by decide +kernel

theorem witness_ClockAdvances :
    State.reset.clock.mode ≠ .running ∧ (clockAt 0 58 State.reset).clock.mode = .running ∧
    (clockAt 0 58 State.reset).clock.timer = some 0 ∧ (clockAt 1439 59 State.reset).clock.timer = some 0 ∧
    (clockAt 0 58 State.reset).clock.second < 59 ∧ 59 ≤ (clockAt 1439 59 State.reset).clock.second ∧
    (clockAt 1439 59 State.reset).clock.mode = .running := by decide +kernel

/-- At minute 409 and at minute 419: a booking at its arm point, at its start, at its last minute and with
two minutes left. -/
theorem witness_TickMovesBookings :
    let s (b : Booking) (m : Nat) := booked b (clockAt m 59 (site running))
    (s (lift .booked) 409).clock.mode = .running ∧ (s (lift .booked) 409).clock.timer = some 0 ∧
    59 ≤ (s (lift .booked) 409).clock.second ∧ lift .cancelled ∈ (s (lift .cancelled) 409).bookings ∧
    ((s (lift .booked) 409).bookings.map (·.id)).Nodup ∧
    lift .booked ∈ (s (lift .booked) 409).bookings ∧ (s (lift .booked) 409).leadTime ≤ (lift .booked).start ∧
    (lift .booked).start - (s (lift .booked) 409).leadTime = (s (lift .booked) 409).clock.minute + 1 ∧
    (lift .armed).start = (s (lift .armed) 419).clock.minute + 1 ∧ (lift .armed).weekday = none ∧
    ((s (lift .armed) 419).wind 0).blind = true ∧
    ((windy (breeze 90 .calm) (s (lift .armed) 419)).wind 0).blind = false ∧
    lift .armed ∈ (windy (breeze 90 .calm) (s (lift .armed) 419)).bookings ∧
    { lift .active with remaining := 1 } ∈ (s { lift .active with remaining := 1 } 479).bookings ∧
    { lift .suspended with remaining := 2 } ∈ (s { lift .suspended with remaining := 2 } 479).bookings := by
  decide +kernel

/-- No tick due (INVALID clock; second 58); a booking that does not run; two minutes left; the last. -/
theorem witness_MinutesRunOut :
    let s (b : Booking) (second : Nat) := booked b (clockAt 479 second (site running))
    let last := { lift .suspended with remaining := 1 }
    State.reset.clock.mode ≠ .running ∧ (s last 58).clock.second < 59 ∧
    (s (lift .booked) 59).bookingById 3 = some (lift .booked) ∧
    (lift .booked).state ≠ .active ∧ (lift .booked).state ≠ .suspended ∧
    (s { last with remaining := 2 } 59).bookingById 3 = some { last with remaining := 2 } ∧
    (s last 59).clock.mode = .running ∧ (s last 59).clock.timer = some 0 ∧ 59 ≤ (s last 59).clock.second ∧
    ((s last 59).bookings.map (·.id)).Nodup ∧ (s last 59).bookingById 3 = some last ∧ last.state = .suspended ∧
    last.remaining ≤ 1 := by
  decide +kernel

/-- The state after reset meets the invariants, and a step from it answers a next state. -/
theorem witness_StepKeepsPorts :
    State.reset.noticeStoreOk ∧ State.reset.linksOk ∧
    step { State.reset with pending := [.powerOn] } =
      .next (after .powerOn { State.reset with pending := [] }) := by
  refine ⟨⟨fun c => ?_, fun c d _ k h => ?_⟩, fun p => ?_, rfl⟩
  · revert c; decide +kernel
  · have hc : ∀ c, (State.reset.box c).stop = 0 := by decide +kernel
    rw [hc c] at h; exact absurd h.2.1 (Nat.not_lt_zero k)
  · have hrx : (State.reset.link p).rx = .hunt := by
      cases p
      · rename_i c; revert c; decide +kernel
      · decide +kernel
    refine ⟨by rw [hrx]; trivial, ?_, ?_, ?_, ?_, ?_, ?_, ?_, ?_⟩ <;> cases p <;> first | decide +kernel | skip
    all_goals (rename_i c; revert c; decide +kernel)

theorem witness_StepKeepsQueues : (queued claimOne (site running)).queuesOk := by
  unfold State.queuesOk queueOk
  decide +kernel

theorem witness_StepKeepsPermits :
    (windy (breeze 205 .stop) (site stowed)).permitsOk ∧ (windy (breeze 205 .stop) (site stowed)).stopIsStowed := by
  have h : ∀ c : CraneId, c ≠ 0 → (windy (breeze 205 .stop) (site stowed)).permit c = none ∧
      ((windy (breeze 205 .stop) (site stowed)).wind c).stage = .calm := by decide +kernel
  have h0 : (windy (breeze 205 .stop) (site stowed)).permit 0 = some stowed := by decide +kernel
  refine ⟨fun c p hp => ?_, fun c hs => ?_⟩
  · by_cases hc : c = 0
    · subst hc; rw [h0] at hp; cases hp; exact ⟨by decide, by decide, rfl⟩
    · rw [(h c hc).1] at hp; cases hp
  · by_cases hc : c = 0
    · subst hc; exact ⟨stowed, h0, .inr (.inl rfl)⟩
    · rw [(h c hc).2] at hs; cases hs

theorem witness_StepKeepsChannelsAndClock :
    (liveZero (site running)).channelsOk ∧ (liveZero (site running)).clockOk ∧ (liveZero (site running)).linesOk := by
  refine ⟨fun k => ?_, by unfold State.clockOk; decide +kernel, fun l => ?_⟩
  · have h : ∀ k : ChannelId, k ≠ 0 → (liveZero (site running)).channel k = {} := by decide +kernel
    have h0 : (liveZero (site running)).channel 0 =
        { state := .live, ring := [90], gust := some 90, staleTimer := some 0, openSum := 90, openCount := 1,
          binTimer := 0 } := by
      decide +kernel
    by_cases hk : k = 0
    · subst hk; rw [h0]; unfold Channel.ok; decide
    · rw [h k hk]; unfold Channel.ok; decide
  · have hl : ∀ l, (liveZero (site running)).line l = .hunt := by decide +kernel
    rw [hl l]; trivial

/-- Fields at the ends of their ranges for each body. -/
theorem witness_BodiesReadBack :
    let r : Report := { mode := .freeSlew, angle := 3599, rate := -100, radius := 1200 }
    let f : BookFields :=
      { crane := 5, weekday := some 6, start := 1439, duration := 255, level := 255, windLimit := 65535,
        zones := [40, 41, 42, 43, 44, 45, 46, 47], opens := true, recurring := true }
    let g : ZoneRecord :=
      { yieldTime := 120, deadTime := 30,
        footprints := #v[some (.hook 3599 0 1200), some (.jib 0 3599), none, none, none, none] }
    r.angle < 3600 ∧ -100 ≤ r.rate ∧ r.rate ≤ 100 ∧ (r.mode = .parked → r.rate = 0) ∧ r.radius ≤ 1200 ∧
    cfg.base ≤ 3 ∧ 1 ≤ cfg.stopTime ∧ cfg.stopTime ≤ 200 ∧ cfg.margin ≤ 300 ∧ cfg.windGain ≤ 50 ∧
    cfg.windMax ≤ 600 ∧ 5 ≤ cfg.reportTime ∧ cfg.reportTime ≤ 50 ∧ cfg.fbm ≤ 100 ∧ 50 ≤ cfg.caution ∧
    cfg.caution < cfg.restrict ∧ cfg.restrict < cfg.stop ∧ cfg.stop ≤ 500 ∧ 50 ≤ cfg.stopMean ∧
    cfg.stopMean ≤ 500 ∧ cfg.hysteresis ≤ 50 ∧ 10 ≤ cfg.holdCaution ∧ cfg.holdCaution ≤ 1800 ∧
    10 ≤ cfg.holdRestrict ∧ cfg.holdRestrict ≤ 1800 ∧ 10 ≤ cfg.holdStop ∧ cfg.holdStop ≤ 1800 ∧
    30 ≤ cfg.stowTime ∧ cfg.stowTime ≤ 600 ∧ 10 ≤ cfg.restrictFactor ∧ cfg.restrictFactor ≤ 90 ∧
    5 ≤ g.yieldTime ∧ g.yieldTime ≤ 120 ∧ g.deadTime ≤ 30 ∧
    Table.entry g.footprints 0 = some (.hook 3599 0 1200) ∧ Table.entry g.footprints 1 = some (.jib 0 3599) ∧
    f.start ≤ 1439 ∧ f.duration ≤ 255 ∧ f.level ≤ 255 ∧ f.windLimit ≤ 65535 ∧ f.zones.length = 8 ∧
    f.zones.Nodup ∧ [(65535, 0), (0, 65535), (0, 0), (0, 0), (0, 0), (0, 0)].length = 6 := by
  decide +kernel

end Sys2Proof.Tests
end

/-! ## Requests at a ready port

One rule for each of the three ways a request can end (refused, taken, served), stated over `serve`. -/

namespace Sys2Proof.Machine

theorem plannerKindOf_code (k : PlannerKind) : plannerKindOf k.code = some k := by
  cases k <;> rfl

theorem craneKindOf_code (k : CraneKind) : craneKindOf k.code = some k := by
  cases k <;> rfl

theorem PlannerKind.length_le (k : PlannerKind) : k.length ≤ 60 := by
  cases k <;> decide

theorem CraneKind.length_le (k : CraneKind) : k.length ≤ 60 := by
  cases k <;> decide

/-- A planner request of its right length goes to the block that owns its kind (R163, R165). -/
theorem serve_planner (k : PlannerKind) (tag : Byte) (body : List Byte) (h : body.length = k.length)
    (s : State) :
    serve .planner { kind := k.code, tag := tag, body := body } s = servePlanner k body s := by
  simp only [serve, plannerKindOf_code, h, ne_eq, not_true_eq_false, if_false]

/-- A crane request of its right length goes to the block that owns its kind (R163, R165). -/
theorem serve_crane (c : CraneId) (k : CraneKind) (tag : Byte) (body : List Byte)
    (h : body.length = k.length) (s : State) :
    serve (.crane c) { kind := k.code, tag := tag, body := body } s = serveCrane c k body s := by
  simp only [serve, craneKindOf_code, h, ne_eq, not_true_eq_false, if_false]

/-- A planner request that its block refuses is refused on the port. -/
theorem refusedAs_planner {i : Instr} (k : PlannerKind) {tag : Byte} {body : List Byte} {s : State}
    {x : Result} (hi : exec i s = .next (s.arrive .planner { kind := k.code, tag := tag, body := body }))
    (hr : s.ready .planner) (hb : body.length = k.length)
    (hs : servePlanner k body (s.underway .planner) = refuse x (s.underway .planner)) :
    RefusedAs i .planner k.code tag x s := by
  unfold RefusedAs
  rw [hi, State.arrive_refused s .planner _ hr (hb ▸ k.length_le) x
    ((serve_planner k tag body hb _).trans hs)]

/-- A planner request whose block answers `reply` with the effect `eff`, which does not touch the links,
is taken. -/
theorem takenAs_planner {i : Instr} (k : PlannerKind) {tag : Byte} {body : List Byte} {s : State}
    {reply : Reply} {eff : State → State}
    (hi : exec i s = .next (s.arrive .planner { kind := k.code, tag := tag, body := body }))
    (hr : s.ready .planner) (hb : body.length = k.length)
    (hs : servePlanner k body (s.underway .planner) = (reply, eff (s.underway .planner)))
    (hc : reply.clearLoss = false)
    (he : ∀ (g : Link → Link) (u : State), eff (u.editLink .planner g) = (eff u).editLink .planner g)
    (hl : (eff s).link .planner = s.link .planner) :
    TakenAs i .planner k.code tag reply.result reply.body eff s := by
  unfold TakenAs
  rw [hi, State.arrive_effect s .planner _ hr (hb ▸ k.length_le) reply eff
    ((serve_planner k tag body hb _).trans hs) hc he hl]
  rfl

/-- A request that leads behind the ports to `u` is served within every frame that holds from its own
effect to `u`. -/
theorem servedAs_of_serve {F : State → State → Prop} {i : Instr} {p : Port} {f : Frame} {s u : State}
    {reply : Reply} {direct : State → State} (hi : exec i s = .next (s.arrive p f)) (hr : s.ready p)
    (hb : f.body.length ≤ 60) (hs : serve p f (s.underway p) = (reply, u))
    (hc : reply.clearLoss = false) (hF : F (direct (s.underway p)) u) :
    ServedAs F i p f.kind f.tag reply.result reply.body direct s
      (u.answeredWith p (respond f reply (u.lossOn p))) := by
  refine ⟨?_, u, hF, rfl⟩
  have ha : s.afterServe p f = u := by
    unfold State.afterServe
    simp only [hs, hc, Bool.false_eq_true, if_false]
  have hq : s.responseTo p f = respond f reply (u.lossOn p) := by
    unfold State.responseTo
    simp only [hs]
  rw [hi, State.arrive_ready s p f hr hb, ha, hq]
  rfl

/-- A planner request served (R165 to R167). -/
theorem servedAs_planner {F : State → State → Prop} {i : Instr} (k : PlannerKind) {tag : Byte}
    {body : List Byte} {s u : State} {reply : Reply} {direct : State → State}
    (hi : exec i s = .next (s.arrive .planner { kind := k.code, tag := tag, body := body }))
    (hr : s.ready .planner) (hb : body.length = k.length)
    (hs : servePlanner k body (s.underway .planner) = (reply, u)) (hc : reply.clearLoss = false)
    (hF : F (direct (s.underway .planner)) u) :
    ServedAs F i .planner k.code tag reply.result reply.body direct s
      (u.answeredWith .planner
        { kind := k.code, tag := tag, result := reply.result, loss := false, body := reply.body }) :=
  servedAs_of_serve hi hr (hb ▸ k.length_le) ((serve_planner k tag body hb _).trans hs) hc hF

/-! ### Numbers of zones and cranes -/

@[simp] theorem zoneOf_zoneNumber (z : ZoneId) : zoneOf (z.val + 1) = some z := by
  simp [zoneOf]

@[simp] theorem craneOf_craneNumber (c : CraneId) : craneOf (c.val + 1) = some c := by
  simp [craneOf]

theorem zoneOf_eq_none {n : Nat} (h : n = 0 ∨ 48 < n) : zoneOf n = none := by
  unfold zoneOf
  rw [dif_neg]
  omega

theorem zoneOf_eq_some {n : Nat} {z : ZoneId} (h : n = z.val + 1) : zoneOf n = some z := by
  rw [h, zoneOf_zoneNumber]

@[simp] theorem byteAt_cons_zero (b : Byte) (bs : List Byte) : byteAt (b :: bs) 0 = b.toNat := rfl

@[simp] theorem byteAt_cons_succ (b : Byte) (bs : List Byte) (i : Nat) :
    byteAt (b :: bs) (i + 1) = byteAt bs i := rfl

theorem toNat_ofNat_zone (z : ZoneId) : (BitVec.ofNat 8 (z.val + 1)).toNat = z.val + 1 := by
  have := z.isLt
  simp only [BitVec.toNat_ofNat]
  omega

theorem toNat_ofNat_crane (c : CraneId) : (BitVec.ofNat 8 (c.val + 1)).toNat = c.val + 1 := by
  have := c.isLt
  simp only [BitVec.toNat_ofNat]
  omega

/-! ### The apply-pending mark -/

theorem State.applyPending_iff (s : State) : s.applyPending = true ↔ ∃ z, (s.zone z).mark = true := by
  simp [State.applyPending, allZones]

theorem State.applyPending_eq_false (s : State) :
    s.applyPending = false ↔ ∀ z, (s.zone z).mark = false := by
  simp [State.applyPending, allZones]

theorem State.mem_markedZones (s : State) (z : ZoneId) : z ∈ s.markedZones ↔ (s.zone z).mark = true := by
  simp [State.markedZones, allZones]

theorem State.mem_affectedSet (s : State) (z : ZoneId) :
    z ∈ s.affectedSet ↔ s.record z ≠ s.shadowRecord z := by
  simp [State.affectedSet, allZones]

theorem ZoneState.atRest_iff (x : ZoneState) : x.atRest = true ↔ x = .free ∨ x = .closed := by
  cases x <;> simp [ZoneState.atRest]

end Sys2Proof.Machine

namespace Sys2Proof.Proofs

open Sys2Proof.Machine

/-- Settles O32, by the cases of `serveStageZone`. -/
theorem zoneStaged : Obligations.ZoneStaged := by
  intro tag b s hr hb
  refine ⟨fun hbad => ?_, fun z r hz hrec => ⟨fun hm => ?_, fun hm => ?_⟩⟩
  · refine refusedAs_planner .stageZone rfl hr hb ?_
    show serveStageZone b _ = _
    unfold serveStageZone
    rcases hbad with h | h | h
    · rw [zoneOf_eq_none (.inl h)]
    · rw [zoneOf_eq_none (.inr h)]
    · rw [h]
      split <;> simp_all
  · refine refusedAs_planner .stageZone rfl hr hb ?_
    show serveStageZone b _ = _
    unfold serveStageZone
    rw [zoneOf_eq_some hz, hrec]
    exact if_pos ((State.applyPending_iff s).2 hm)
  · refine takenAs_planner .stageZone (reply := { result := .ok }) rfl hr hb ?_ rfl (fun _ _ => rfl) rfl
    show serveStageZone b _ = _
    unfold serveStageZone
    rw [zoneOf_eq_some hz, hrec]
    exact if_neg (by rw [(State.applyPending_eq_false (s.underway .planner)).2 hm]; decide)

end Sys2Proof.Proofs

/-! ## Geometry: what an apply does (R13 to R18)

`ApplyMoves` are the single moves behind stage 1 of an apply: none of them places a claim or touches a
mark or an active record. -/

namespace Sys2Proof.Machine

/-- The single moves of the stages 2 to 6 of an apply (R17). -/
structure ApplyMoves (R : State → State → Prop) : Prop extends CascadeMoves R where
  applyDone : ∀ s, R s (s.setEvent .applyDone)
  rezone : ∀ s z f, KeepsClaims f → (∀ d, (f d).mark = d.mark) → R s (s.editZone z f)
  drop : ∀ s z keep, R s (s.editZone z fun d => { d with queue := d.queue.filter keep })

namespace ApplyMoves

variable {R : State → State → Prop}

theorem dropClaims (h : ApplyMoves R) (z : ZoneId) (d : Claim → Bool) (reason : DropReason) (s : State) :
    R s (s.dropClaims z d reason) := by
  unfold State.dropClaims
  simp only
  split
  · exact h.refl s
  · exact h.trans (h.trans (h.drop s z fun c => !d c)
      (h.toCascadeMoves.each _ _ (fun _ _ s => h.post _ _ _) _)) (h.toCascadeMoves.examine z _)

theorem dropUnadmitted (h : ApplyMoves R) (z : ZoneId) (s : State) : R s (s.dropUnadmitted z) := by
  unfold State.dropUnadmitted
  split
  · exact h.dropClaims _ _ _ _
  · exact h.refl s

theorem openFor (h : ApplyMoves R) (id : Nat) (z : ZoneId) (s : State) : R s (s.openFor id z) := by
  unfold State.openFor
  refine h.rezone s z _ (fun d => ⟨rfl, ?_⟩) fun _ => rfl
  cases d.state <;> simp [ZoneState.holding]

theorem changeKind (h : ApplyMoves R) (old : ZoneKind) (z : ZoneId) (s : State) :
    R s (s.changeKind old z) := by
  have closed : R s (s.editZone z fun d => { d with state := .closed }) :=
    h.rezone s z _ (fun _ => ⟨rfl, .inl rfl⟩) fun _ => rfl
  unfold State.changeKind
  split
  · exact h.trans (h.trans closed (h.dropUnadmitted z _))
      (h.toCascadeMoves.each _ _ (fun id _ s => h.openFor id z s) _)
  · exact h.rezone s z _ (fun _ => ⟨rfl, .inl rfl⟩) fun _ => rfl
  · exact h.refl s
  · exact h.refl s

/-- All of an apply behind its stage 1 (R17). -/
theorem completeApply (h : ApplyMoves R) (zs : List ZoneId) (s : State) :
    R (s.each zs State.adopt) (s.completeApply zs) := by
  unfold State.completeApply
  have h2 := h.toCascadeMoves.eachOpen Fin.val zs State.dropFootless
    (fun z _ s => h.dropClaims z _ _ s) (s.each zs State.adopt)
  have h3 := h.trans h2 (h.toCascadeMoves.eachOpen Fin.val zs
    (fun z => State.changeKind (s.record z).kind z) (fun z _ s => h.changeKind _ z s) _)
  exact h.trans (h.trans (h.trans h3 (h.toCascadeMoves.eachOpen Fin.val _ State.recompute
    (fun c _ s => h.toCascadeMoves.recompute c s) _)) (h.toCascadeMoves.evaluateAll _ _)) (h.applyDone _)

end ApplyMoves

/-! ### Stage 1 -/

theorem State.adopt_record (z y : ZoneId) (s : State) :
    (s.adopt z).record y = if y = z then s.shadowRecord y else s.record y := by
  show Table.entry (Table.edit s.active z fun _ => s.shadowRecord z) y = _
  rw [Table.entry_edit]
  split
  · next e => rw [e]
  · rfl

theorem State.adopt_zone (z y : ZoneId) (s : State) :
    (s.adopt z).zone y = if y = z then { s.zone y with mark := false } else s.zone y := by
  show Table.entry (Table.edit s.zones z fun d => { d with mark := false }) y = _
  rw [Table.entry_edit]
  rfl

/-- Stage 1 on the affected zones: each has its shadow record and no mark, and nothing else changes. -/
theorem State.each_adopt (zs : List ZoneId) (s : State) :
    (∀ y, (s.each zs State.adopt).record y = if y ∈ zs then s.shadowRecord y else s.record y) ∧
    (∀ y, (s.each zs State.adopt).zone y =
      if y ∈ zs then { s.zone y with mark := false } else s.zone y) ∧
    (s.each zs State.adopt).shadow = s.shadow ∧ (s.each zs State.adopt).bookings = s.bookings := by
  induction zs generalizing s with
  | nil => simp [State.each]
  | cons z zs ih =>
    obtain ⟨hrec, hzone, hsh, hb⟩ := ih (s.adopt z)
    refine ⟨fun y => ?_, fun y => ?_, hsh, hb⟩
    · refine (hrec y).trans ?_
      rw [State.adopt_record, show (s.adopt z).shadowRecord y = s.shadowRecord y from rfl]
      by_cases hy : y = z <;> simp [hy]
    · refine (hzone y).trans ?_
      rw [State.adopt_zone]
      by_cases hy : y = z <;> simp [hy]

/-! ### The stages behind it -/

/-- Active and shadow records, bookings and marks stand. -/
structure GeometryStands (s t : State) : Prop where
  active : t.active = s.active
  shadow : t.shadow = s.shadow
  bookings : t.bookings = s.bookings
  marks : ∀ z, (t.zone z).mark = (s.zone z).mark

theorem GeometryStands.of_handOffs {s t : State} (h : HandOffs s t) : GeometryStands s t where
  active := h.active
  shadow := h.shadow
  bookings := h.bookings
  marks z := (h.zones z).2.1

theorem GeometryStands.editZone (s : State) (z : ZoneId) (f : ZoneDyn → ZoneDyn)
    (hf : (f (s.zone z)).mark = (s.zone z).mark) : GeometryStands s (s.editZone z f) where
  active := rfl
  shadow := rfl
  bookings := rfl
  marks y := by
    rw [State.editZone_zone]
    split
    · next e => rw [e, hf]
    · rfl

/-- Behind stage 1 an apply touches neither records nor marks. -/
theorem geometryStands_apply : ApplyMoves GeometryStands where
  refl s := .of_handOffs (.refl s)
  trans h k := ⟨k.active.trans h.active, k.shadow.trans h.shadow, k.bookings.trans h.bookings,
    fun z => (k.marks z).trans (h.marks z)⟩
  chosen s := .of_handOffs (handOffs_cascade.chosen s)
  post s c n := .of_handOffs (handOffs_cascade.post s c n)
  trip s := .of_handOffs (handOffs_cascade.trip s)
  silence s := .of_handOffs (handOffs_cascade.silence s)
  grant s z cl hq hg := .of_handOffs (handOffs_cascade.grant s z cl hq hg)
  demand s z h d hh := .of_handOffs (handOffs_cascade.demand s z h d hh)
  figures s c r p hr hp := .of_handOffs (handOffs_cascade.figures s c r p hr hp)
  judge s c := .of_handOffs (handOffs_cascade.judge s c)
  latchKeep s c p cause hp h1 h2 h3 := .of_handOffs (handOffs_cascade.latchKeep s c p cause hp h1 h2 h3)
  latchHalt s c p cause hp h1 h2 := .of_handOffs (handOffs_cascade.latchHalt s c p cause hp h1 h2)
  applyDone _ := ⟨rfl, rfl, rfl, fun _ => rfl⟩
  rezone s z f _ hm := .editZone s z f (hm _)
  drop s z _ := .editZone s z _ rfl

/-- A completed apply (R17): every affected zone has its shadow record, no affected zone is marked,
APPLY_DONE is set, and the bookings stand. -/
theorem State.completeApply_done (zs : List ZoneId) (s : State) :
    (∀ y, (s.completeApply zs).record y = if y ∈ zs then s.shadowRecord y else s.record y) ∧
    (∀ y, ((s.completeApply zs).zone y).mark = if y ∈ zs then false else (s.zone y).mark) ∧
    (s.completeApply zs).event .applyDone = true ∧ (s.completeApply zs).bookings = s.bookings := by
  obtain ⟨hrec, hzone, -, hb⟩ := s.each_adopt zs
  have stands := geometryStands_apply.completeApply zs s
  refine ⟨fun y => ?_, fun y => ?_, State.setEvent_event_same _ _, stands.bookings.trans hb⟩
  · rw [← hrec y]
    simp only [State.record, stands.active]
  · rw [stands.marks y, hzone y]
    split <;> rfl

/-! ### Marks -/

/-- The marks of several zones are set or cleared: an edit of every zone at once. -/
theorem State.each_mark (zs : List ZoneId) (m : Bool) (s : State) :
    (s.each zs fun z s => s.editZone z fun d => { d with mark := m }) =
      { s with zones := Vector.ofFn fun y =>
          { s.zone y with mark := if y ∈ zs then m else (s.zone y).mark } } := by
  induction zs generalizing s with
  | nil =>
    have : s.zones = Vector.ofFn fun y => s.zone y := Table.ext_entry fun y => by
      simp [Table.entry, State.zone]
    simpa [State.each] using congrArg (fun t => { s with zones := t }) this
  | cons z zs ih =>
    refine (ih _).trans ?_
    refine congrArg (fun t => { s with zones := t }) (Table.ext_entry fun y => ?_)
    simp only [Table.entry, Fin.getElem_fin, Vector.getElem_ofFn, Fin.eta, State.editZone_zone,
      List.mem_cons]
    by_cases hy : y = z <;> by_cases hm : y ∈ zs <;> simp [hy, hm]

theorem State.rezone_link (s : State) (zs : Table ZoneDyn 48) (p : Port) :
    ({ s with zones := zs } : State).link p = s.link p := rfl

/-- Two edits of all zones that agree zone by zone. -/
theorem State.rezone_congr {s : State} {f g : ZoneId → ZoneDyn} (h : ∀ z, f z = g z) :
    ({ s with zones := Vector.ofFn f } : State) = { s with zones := Vector.ofFn g } := by
  rw [funext h]

end Sys2Proof.Machine

namespace Sys2Proof.Proofs

open Sys2Proof.Machine

/-- Settles O33, by the cases of `serveApplyGeometry` and `State.completeApply_done`. -/
theorem geometryApplied : Obligations.GeometryApplied := by
  intro tag s hr
  have affected : ∀ z, z ∈ (s.underway .planner).affectedSet ↔ s.record z ≠ s.shadowRecord z :=
    State.mem_affectedSet (s.underway .planner)
  refine ⟨fun hm => ?_, fun hm => ?_⟩
  · refine refusedAs_planner .applyGeometry rfl hr rfl ?_
    exact if_pos ((State.applyPending_iff (s.underway .planner)).2 hm)
  have unmarked : (s.underway .planner).applyPending = false :=
    (State.applyPending_eq_false (s.underway .planner)).2 hm
  refine ⟨fun hsame => ?_, fun hheld => ?_, fun hdiff hrest => ?_⟩
  · refine takenAs_planner .applyGeometry (reply := { result := .ok }) rfl hr rfl ?_ rfl
      (fun _ _ => rfl) rfl
    have empty : (s.underway .planner).affectedSet = [] :=
      List.eq_nil_iff_forall_not_mem.2 fun z hz => (affected z).1 hz (hsame z)
    show serveApplyGeometry _ = _
    simp [serveApplyGeometry, unmarked, empty]
  · obtain ⟨z, hz, hfree, hclosed⟩ := hheld
    refine takenAs_planner .applyGeometry (reply := { result := .pending }) rfl hr rfl ?_ rfl
      (fun _ _ => rfl) (State.rezone_link _ _ _)
    have busy : ((s.underway .planner).affectedSet.all fun z =>
        ((s.underway .planner).zone z).state.atRest) = false := by
      rw [List.all_eq_false]
      refine ⟨z, (affected z).2 hz, fun h => ?_⟩
      exact ((ZoneState.atRest_iff _).1 h).elim hfree hclosed
    have some : (s.underway .planner).affectedSet.isEmpty = false :=
      List.isEmpty_eq_false_iff.2 (List.ne_nil_of_mem ((affected z).2 hz))
    show serveApplyGeometry _ = _
    simp only [serveApplyGeometry, unmarked, busy, some, Bool.false_eq_true, if_false, State.each_mark]
    refine congrArg _ (State.rezone_congr fun y => ?_)
    by_cases hy : s.record y = s.shadowRecord y
    · have : y ∉ (s.underway .planner).affectedSet := fun h => (affected y).1 h hy
      simp only [this, hy, if_true, if_false]
      rw [show ((s.underway .planner).zone y).mark = false from hm y]
    · simp only [(affected y).2 hy, hy, if_true, if_false]
  · have some : (s.underway .planner).affectedSet.isEmpty = false := by
      obtain ⟨z, hz⟩ := hdiff
      exact List.isEmpty_eq_false_iff.2 (List.ne_nil_of_mem ((affected z).2 hz))
    have quiet : ((s.underway .planner).affectedSet.all fun z =>
        ((s.underway .planner).zone z).state.atRest) = true := by
      rw [List.all_eq_true]
      exact fun z hz => (ZoneState.atRest_iff _).2 (hrest z ((affected z).1 hz))
    obtain ⟨hrec, hmark, hdone, hbook⟩ :=
      (s.underway .planner).completeApply_done (s.underway .planner).affectedSet
    refine ⟨_, servedAs_planner .applyGeometry (reply := { result := .ok })
      (u := (s.underway .planner).completeApply (s.underway .planner).affectedSet) rfl hr rfl ?_ rfl
      (calendarFrame_site.completeApply _ _), fun z => ?_, fun z => ?_,
      (State.editLink_event _ _ _ _).trans hdone, (State.editLink_bookings _ _ _).trans hbook⟩
    · show serveApplyGeometry _ = _
      simp only [serveApplyGeometry, unmarked, some, quiet, Bool.false_eq_true, if_false, if_true]
    · refine (State.editLink_record _ _ _ _).trans ((hrec z).trans ?_)
      split
      · rfl
      · next h => exact Classical.not_not.1 (mt (affected z).2 h)
    · refine (congrArg _ (State.editLink_zone _ _ _ _)).trans ((hmark z).trans ?_)
      split
      · rfl
      · exact hm z

/-- Settles O34: the marks are cleared in one edit, and what follows is grant evaluation. -/
theorem applyAbandoned : Obligations.ApplyAbandoned := by
  intro tag s hr
  refine ⟨fun hm => ?_, fun hm => ?_⟩
  · refine refusedAs_planner .abandonApply rfl hr rfl ?_
    refine if_neg ?_
    rw [(State.applyPending_eq_false (s.underway .planner)).2 hm]
    decide
  · refine ⟨_, servedAs_planner .abandonApply (reply := { result := .ok }) rfl hr rfl
      (if_pos ((State.applyPending_iff (s.underway .planner)).2 hm)) rfl ?_⟩
    have cleared : ((s.underway .planner).each (s.underway .planner).markedZones fun z s =>
        s.editZone z fun d => { d with mark := false }) =
        { s.underway .planner with zones := Vector.ofFn fun z =>
          { (s.underway .planner).zone z with mark := false } } := by
      rw [State.each_mark]
      refine State.rezone_congr fun y => ?_
      by_cases hy : y ∈ (s.underway .planner).markedZones
      · simp [hy]
      · have := mt ((s.underway .planner).mem_markedZones y).2 hy
        simp [hy, Bool.eq_false_iff.2 this]
    rw [cleared]
    exact handOffs_evaluateAll _ _

end Sys2Proof.Proofs

/-! ## Bodies of requests, written and read back (R162, R163) -/

namespace Sys2Proof.Machine

/-! ### Fields at the front of a body, and behind a field -/

theorem byteAt_append_left {xs : List Byte} {i : Nat} (h : i < xs.length) (ys : List Byte) :
    byteAt (xs ++ ys) i = byteAt xs i := by
  simp [byteAt, List.getElem?_append_left h]

theorem byteAt_append_right (xs ys : List Byte) (i : Nat) :
    byteAt (xs ++ ys) (xs.length + i) = byteAt ys i := by
  simp [byteAt, List.getElem?_append_right]

theorem byteAt_ofNat {n : Nat} (h : n < 256) (bs : List Byte) :
    byteAt (BitVec.ofNat 8 n :: bs) 0 = n := by
  simp [byteAt, Nat.mod_eq_of_lt h]

/-- A two-byte field reads back (R162). -/
theorem word_ofNat {n : Nat} (h : n < 65536) :
    256 * (BitVec.ofNat 8 (n / 256)).toNat + (BitVec.ofNat 8 n).toNat = n := by
  simp only [BitVec.toNat_ofNat]
  omega

theorem ofNat_toNat {n : Nat} (h : n < 256) : (BitVec.ofNat 8 n).toNat = n := by
  simp only [BitVec.toNat_ofNat]
  omega

@[simp] theorem length_byte (n : Nat) : (byte n).length = 1 := rfl
@[simp] theorem length_twoBytes (n : Nat) : (twoBytes n).length = 2 := rfl
@[simp] theorem length_signedBytes (i : Int) : (signedBytes i).length = 2 := rfl
@[simp] theorem length_yesNo (b : Bool) : (yesNo b).length = 1 := rfl
@[simp] theorem length_byteOr (o : Option Nat) : (byteOr o).length = 1 := rfl
@[simp] theorem length_twoBytesOr (o : Option Nat) : (twoBytesOr o).length = 2 := rfl

/-! ### Enumerated fields -/

theorem modeOf_code (m : Mode) : modeOf m.code = some m := by cases m <;> rfl

theorem Mode.code_lt (m : Mode) : m.code < 256 := by cases m <;> decide

theorem zoneKindOf_code (k : ZoneKind) : zoneKindOf k.code = some k := by cases k <;> rfl

theorem ZoneKind.code_lt (k : ZoneKind) : k.code < 256 := by cases k <;> decide

theorem flagOf_yesNo (b : Bool) : flagOf (BitVec.ofNat 8 (if b then 1 else 0)).toNat = some b := by
  cases b <;> rfl

theorem queueingOf_code (b : Bool) : queueingOf (BitVec.ofNat 8 (queueingCode b)).toNat = some b := by
  cases b <;> rfl

theorem channelOf_val (k : ChannelId) : channelOf k.val = some k := by simp [channelOf]

/-- A fallback channel reads back, and so does its absence (R98, R162). -/
theorem fallbackOf_byteOr (o : Option ChannelId) :
    fallbackOf (BitVec.ofNat 8 ((o.map Fin.val).getD 0xFF)).toNat = some o := by
  cases o with
  | none => rfl
  | some k =>
    have hk := k.isLt
    have : (BitVec.ofNat 8 k.val).toNat = k.val := ofNat_toNat (by omega)
    simp only [Option.map_some, Option.getD_some, this, fallbackOf, channelOf_val]
    rw [if_neg (by omega)]

theorem weekdayOf_getD {w : Option Nat} (h : ∀ d, w = some d → d ≤ 6) :
    weekdayOf (BitVec.ofNat 8 (w.getD 7)).toNat = some w := by
  cases w with
  | none => rfl
  | some d =>
    have hd := h d rfl
    have : (BitVec.ofNat 8 d).toNat = d := ofNat_toNat (by omega)
    simp only [Option.getD_some, this, weekdayOf]
    rw [if_pos (by omega)]

/-- A signed field reads back (R162). -/
theorem signedAt_signedBytes {i : Int} (h1 : -100 ≤ i) (h2 : i ≤ 100) (xs ys : List Byte) :
    signedAt (xs ++ (signedBytes i ++ ys)) xs.length = i := by
  have hw : wordAt (xs ++ (signedBytes i ++ ys)) xs.length = (i % 65536).toNat := by
    have h0 := byteAt_append_right xs (signedBytes i ++ ys) 0
    have h1 := byteAt_append_right xs (signedBytes i ++ ys) 1
    rw [Nat.add_zero] at h0
    rw [wordAt, h0, h1]
    exact word_ofNat (by omega)
  unfold signedAt
  rw [hw]
  split <;> omega

theorem clamp_eq {lo hi x : Nat} (h1 : lo ≤ x) (h2 : x ≤ hi) : clamp lo hi x = x := by
  unfold clamp
  omega

/-! ### REPORT (R24) -/

theorem reportOf_reportBody {r : Report} (ha : r.angle < 3600) (hl : -100 ≤ r.rate) (hu : r.rate ≤ 100)
    (hp : r.mode = .parked → r.rate = 0) (hr : r.radius ≤ 1200) : reportOf (reportBody r) = some r := by
  have hm : byteAt (reportBody r) 0 = r.mode.code := byteAt_ofNat r.mode.code_lt _
  have hangle : wordAt (reportBody r) 1 = r.angle := word_ofNat (by omega)
  have hradius : wordAt (reportBody r) 5 = r.radius := word_ofNat (by omega)
  have hrate : signedAt (reportBody r) 3 = r.rate := by
    have := signedAt_signedBytes hl hu (byte r.mode.code ++ twoBytes r.angle) (twoBytes r.radius)
    simpa [reportBody] using this
  have hstored : storedRate r.mode r.rate = r.rate := by
    unfold storedRate
    split
    · next h => exact (hp h).symm
    · omega
  unfold reportOf
  rw [hm, modeOf_code]
  simp only [hangle, hradius, hrate, hstored, Nat.not_le.2 ha, if_false, Nat.min_eq_right hr]

/-! ### CONFIG_CRANE (R120) -/

/-- Every field of a configuration in its range (R120). -/
structure CraneConfig.InRange (g : CraneConfig) : Prop where
  base : g.base ≤ 3
  stopTime : 1 ≤ g.stopTime ∧ g.stopTime ≤ 200
  margin : g.margin ≤ 300
  windGain : g.windGain ≤ 50
  windMax : g.windMax ≤ 600
  reportTime : 5 ≤ g.reportTime ∧ g.reportTime ≤ 50
  fbm : g.fbm ≤ 100
  stages : 50 ≤ g.caution ∧ g.caution < g.restrict ∧ g.restrict < g.stop ∧ g.stop ≤ 500
  stopMean : 50 ≤ g.stopMean ∧ g.stopMean ≤ 500
  hysteresis : g.hysteresis ≤ 50
  holdCaution : 10 ≤ g.holdCaution ∧ g.holdCaution ≤ 1800
  holdRestrict : 10 ≤ g.holdRestrict ∧ g.holdRestrict ≤ 1800
  holdStop : 10 ≤ g.holdStop ∧ g.holdStop ≤ 1800
  stowTime : 30 ≤ g.stowTime ∧ g.stowTime ≤ 600
  restrictFactor : 10 ≤ g.restrictFactor ∧ g.restrictFactor ≤ 90

/-- The thirty bytes of a configuration (R163). -/
theorem configBody_eq (c : CraneId) (g : CraneConfig) :
    configBody c g =
      [BitVec.ofNat 8 (c.val + 1), BitVec.ofNat 8 g.base, BitVec.ofNat 8 g.stopTime,
        BitVec.ofNat 8 (g.margin / 256), BitVec.ofNat 8 g.margin, BitVec.ofNat 8 g.windGain,
        BitVec.ofNat 8 (g.windMax / 256), BitVec.ofNat 8 g.windMax, BitVec.ofNat 8 g.reportTime,
        BitVec.ofNat 8 g.primary.val, BitVec.ofNat 8 ((g.fallback.map Fin.val).getD 0xFF),
        BitVec.ofNat 8 g.fbm, BitVec.ofNat 8 (g.caution / 256), BitVec.ofNat 8 g.caution,
        BitVec.ofNat 8 (g.restrict / 256), BitVec.ofNat 8 g.restrict, BitVec.ofNat 8 (g.stop / 256),
        BitVec.ofNat 8 g.stop, BitVec.ofNat 8 (g.stopMean / 256), BitVec.ofNat 8 g.stopMean,
        BitVec.ofNat 8 g.hysteresis, BitVec.ofNat 8 (g.holdCaution / 256), BitVec.ofNat 8 g.holdCaution,
        BitVec.ofNat 8 (g.holdRestrict / 256), BitVec.ofNat 8 g.holdRestrict,
        BitVec.ofNat 8 (g.holdStop / 256), BitVec.ofNat 8 g.holdStop, BitVec.ofNat 8 (g.stowTime / 256),
        BitVec.ofNat 8 g.stowTime, BitVec.ofNat 8 g.restrictFactor] := by
  delta configBody
  simp only [byte, twoBytes, byteOr, craneNumber, List.cons_append, List.nil_append]

theorem craneOf_configBody (c : CraneId) (g : CraneConfig) : craneOf (byteAt (configBody c g) 0) = some c := by
  have : byteAt (configBody c g) 0 = c.val + 1 := by
    rw [configBody_eq]
    exact toNat_ofNat_crane c
  rw [this, craneOf_craneNumber]

theorem configOf_configBody (c : CraneId) {g : CraneConfig} (h : g.InRange) :
    configOf (configBody c g) = some g := by
  obtain ⟨hbase, hstopTime, hmargin, hgain, hmax, hreport, hfbm, hstages, hmean, hhyst, hcaution, hrestrict,
    hstop, hstow, hfactor⟩ := h
  have one {n : Nat} (hn : n < 256) : (BitVec.ofNat 8 n).toNat = n := ofNat_toNat hn
  have two {n : Nat} (hn : n < 65536) :
      256 * (BitVec.ofNat 8 (n / 256)).toNat + (BitVec.ofNat 8 n).toNat = n := word_ofNat hn
  have hprim := g.primary.isLt
  have hfac : restrictFactorOf g.restrictFactor = g.restrictFactor := by
    unfold restrictFactorOf
    rw [if_neg (by omega), clamp_eq hfactor.1 hfactor.2]
  rw [configBody_eq]
  unfold configOf
  simp only [wordAt, Nat.reduceAdd, byteAt_cons_zero, byteAt_cons_succ, fallbackOf_byteOr]
  rw [one (n := g.primary.val) (by omega), channelOf_val]
  simp only [one (show g.base < 256 by omega), one (show g.stopTime < 256 by omega),
    two (show g.margin < 65536 by omega), one (show g.windGain < 256 by omega),
    two (show g.windMax < 65536 by omega), one (show g.reportTime < 256 by omega),
    one (show g.fbm < 256 by omega), two (show g.caution < 65536 by omega),
    two (show g.restrict < 65536 by omega), two (show g.stop < 65536 by omega),
    two (show g.stopMean < 65536 by omega), one (show g.hysteresis < 256 by omega),
    two (show g.holdCaution < 65536 by omega), two (show g.holdRestrict < 65536 by omega),
    two (show g.holdStop < 65536 by omega), two (show g.stowTime < 65536 by omega),
    one (show g.restrictFactor < 256 by omega), hfac,
    Nat.min_eq_right hbase, clamp_eq hstopTime.1 hstopTime.2, Nat.min_eq_right hmargin,
    Nat.min_eq_right hgain, Nat.min_eq_right hmax, clamp_eq hreport.1 hreport.2, Nat.min_eq_right hfbm,
    clamp_eq (show 50 ≤ g.caution by omega) (show g.caution ≤ 500 by omega),
    clamp_eq (show 50 ≤ g.restrict by omega) (show g.restrict ≤ 500 by omega),
    clamp_eq (show 50 ≤ g.stop by omega) hstages.2.2.2, clamp_eq hmean.1 hmean.2, Nat.min_eq_right hhyst,
    clamp_eq hcaution.1 hcaution.2, clamp_eq hrestrict.1 hrestrict.2, clamp_eq hstop.1 hstop.2,
    clamp_eq hstow.1 hstow.2]
  rw [if_pos ⟨hstages.2.1, hstages.2.2.1⟩]

/-! ### STAGE_ZONE (R12) -/

@[simp] theorem length_footprintBytes (o : Option Footprint) : (footprintBytes o).length = 8 := by
  rcases o with _ | _ | _ <;> rfl

/-- A footprint with its angles and radius in their ranges (R2, R12). -/
def footprintInRange (o : Option Footprint) : Prop :=
  (∀ f, o = some f → f.lo < 3600 ∧ f.hi < 3600) ∧ ∀ lo hi m, o = some (.hook lo hi m) → m ≤ 1200

/-- The fields of a list of entries of `n` bytes each, entry by entry. -/
theorem byteAt_flatMap {α : Type} {g : α → List Byte} {n : Nat} (hg : ∀ x, (g x).length = n)
    (xs : List α) (i j : Nat) (hi : i < xs.length) (hj : j < n) :
    byteAt (xs.flatMap g) (n * i + j) = byteAt (g xs[i]) j := by
  induction xs generalizing i with
  | nil => simp at hi
  | cons x xs ih =>
    rw [List.flatMap_cons]
    cases i with
    | zero =>
      rw [Nat.mul_zero, Nat.zero_add]
      exact byteAt_append_left (by rw [hg]; exact hj) _
    | succ i =>
      have hshift : n * (i + 1) + j = (g x).length + (n * i + j) := by rw [hg, Nat.mul_succ]; omega
      rw [hshift, byteAt_append_right]
      exact ih i (by simpa using hi)

theorem length_flatMap_const {α : Type} {g : α → List Byte} {n : Nat} (hg : ∀ x, (g x).length = n)
    (xs : List α) : (xs.flatMap g).length = n * xs.length := by
  simp [List.length_flatMap, hg, Nat.mul_comm]

/-- A footprint is read from its own eight bytes alone. -/
theorem footprintAt_congr {b b' : List Byte} {i : Nat}
    (h : ∀ j, j < 8 → byteAt b (i + j) = byteAt b' j) : footprintAt b i = footprintAt b' 0 := by
  have h0 := h 0 (by omega)
  rw [Nat.add_zero] at h0
  unfold footprintAt
  simp only [wordAt, Nat.add_assoc, Nat.reduceAdd, Nat.zero_add, h0, h 1 (by omega), h 2 (by omega),
    h 3 (by omega), h 4 (by omega), h 5 (by omega), h 6 (by omega), h 7 (by omega)]

/-- A footprint reads back (R12). -/
theorem footprintAt_footprintBytes {o : Option Footprint} (h : footprintInRange o) :
    footprintAt (footprintBytes o) 0 = some o := by
  rcases o with _ | f
  · rfl
  obtain ⟨hlo, hhi⟩ := h.1 f rfl
  cases f with
  | jib lo hi =>
    simp only [Footprint.lo, Footprint.hi] at hlo hhi
    have wlo := word_ofNat (n := lo) (by omega)
    have whi := word_ofNat (n := hi) (by omega)
    have hl : ¬(3600 ≤ lo ∨ 3600 ≤ hi) := by omega
    simp [footprintAt, wordAt, footprintBytes, yesNo, byte, twoBytes, flagOf, wlo, whi, hl,
      -BitVec.toNat_ofNat]
  | hook lo hi m =>
    have hm := h.2 lo hi m rfl
    simp only [Footprint.lo, Footprint.hi] at hlo hhi
    have wlo := word_ofNat (n := lo) (by omega)
    have whi := word_ofNat (n := hi) (by omega)
    have wm := word_ofNat (n := m) (by omega)
    have hl : ¬(3600 ≤ lo ∨ 3600 ≤ hi) := by omega
    simp [footprintAt, wordAt, footprintBytes, yesNo, byte, twoBytes, flagOf, wlo, whi, wm, hl, hm,
      -BitVec.toNat_ofNat]

/-- The head of a STAGE_ZONE body: zone number and the fields before the footprints (R163). -/
def stageZoneHead (z : ZoneId) (r : ZoneRecord) : List Byte :=
  [BitVec.ofNat 8 (z.val + 1), BitVec.ofNat 8 r.kind.code, BitVec.ofNat 8 (if r.preemptible then 1 else 0),
    BitVec.ofNat 8 (queueingCode r.queueing), BitVec.ofNat 8 r.yieldTime, BitVec.ofNat 8 r.deadTime]

theorem stageZoneBody_eq (z : ZoneId) (r : ZoneRecord) :
    stageZoneBody z r = stageZoneHead z r ++ r.footprints.toList.flatMap footprintBytes := by
  simp [stageZoneBody, recordBytes, stageZoneHead, byte, yesNo, zoneNumber]

/-- Each crane's footprint of a STAGE_ZONE body reads back (R12). -/
theorem footprintAt_stageZoneBody (z : ZoneId) {r : ZoneRecord} (c : CraneId)
    (h : footprintInRange (Table.entry r.footprints c)) :
    footprintAt (stageZoneBody z r) (6 + 8 * c.val) = some (Table.entry r.footprints c) := by
  rw [← footprintAt_footprintBytes h]
  refine footprintAt_congr fun j hj => ?_
  have behind := byteAt_append_right (stageZoneHead z r) (r.footprints.toList.flatMap footprintBytes)
    (8 * c.val + j)
  rw [stageZoneBody_eq, Nat.add_assoc]
  refine behind.trans ?_
  rw [byteAt_flatMap length_footprintBytes _ _ _ (by simp) hj]
  rfl

theorem zoneRecordOf_stageZoneBody (z : ZoneId) {r : ZoneRecord} (hy : 5 ≤ r.yieldTime ∧ r.yieldTime ≤ 120)
    (hd : r.deadTime ≤ 30) (hf : ∀ c, footprintInRange (Table.entry r.footprints c)) :
    zoneRecordOf (stageZoneBody z r) = some r := by
  have foot (c : CraneId) := footprintAt_stageZoneBody z c (hf c)
  have f0 : footprintAt (stageZoneBody z r) 6 = _ := foot 0
  have f1 : footprintAt (stageZoneBody z r) 14 = _ := foot 1
  have f2 : footprintAt (stageZoneBody z r) 22 = _ := foot 2
  have f3 : footprintAt (stageZoneBody z r) 30 = _ := foot 3
  have f4 : footprintAt (stageZoneBody z r) 38 = _ := foot 4
  have f5 : footprintAt (stageZoneBody z r) 46 = _ := foot 5
  have head : ∀ i, i < 6 → byteAt (stageZoneBody z r) i = byteAt (stageZoneHead z r) i := fun i hi => by
    rw [stageZoneBody_eq]
    exact byteAt_append_left hi _
  have all : (#v[Table.entry r.footprints 0, Table.entry r.footprints 1, Table.entry r.footprints 2,
      Table.entry r.footprints 3, Table.entry r.footprints 4, Table.entry r.footprints 5] :
      Table (Option Footprint) 6) = r.footprints :=
    Table.ext_entry fun c => by fin_cases c <;> rfl
  unfold zoneRecordOf
  rw [f0, f1, f2, f3, f4, f5]
  simp only [head 1 (by omega), head 2 (by omega), head 3 (by omega), head 4 (by omega),
    head 5 (by omega), stageZoneHead, byteAt_cons_zero, byteAt_cons_succ, ofNat_toNat r.kind.code_lt,
    zoneKindOf_code, flagOf_yesNo, queueingOf_code, ofNat_toNat (show r.yieldTime < 256 by omega),
    ofNat_toNat (show r.deadTime < 256 by omega), clamp_eq hy.1 hy.2, Nat.min_eq_right hd, all]

theorem zoneOf_stageZoneBody (z : ZoneId) (r : ZoneRecord) :
    zoneOf (byteAt (stageZoneBody z r) 0) = some z := by
  rw [stageZoneBody_eq, byteAt_append_left (by simp [stageZoneHead])]
  exact zoneOf_eq_some (toNat_ofNat_zone z)

/-! ### BOOK (R145) -/

/-- The head of a BOOK body: the fields before the zones (R163). -/
def bookHead (f : BookFields) : List Byte :=
  [BitVec.ofNat 8 (f.crane.val + 1), BitVec.ofNat 8 (f.weekday.getD 7), BitVec.ofNat 8 (f.start / 256),
    BitVec.ofNat 8 f.start, BitVec.ofNat 8 f.duration, BitVec.ofNat 8 f.level,
    BitVec.ofNat 8 (f.windLimit / 256), BitVec.ofNat 8 f.windLimit, BitVec.ofNat 8 f.zones.length]

/-- The eight zone places of a BOOK body (R163). -/
def bookZones (f : BookFields) : List Byte :=
  (f.zones.flatMap fun z => byte (zoneNumber z)) ++ List.replicate (8 - f.zones.length) 0#8

theorem bookBody_eq (f : BookFields) :
    bookBody f = bookHead f ++ (bookZones f ++ (yesNo f.opens ++ yesNo f.recurring)) := by
  simp [bookBody, bookHead, bookZones, byte, twoBytes, craneNumber]

theorem length_bookZones {f : BookFields} (h : f.zones.length ≤ 8) : (bookZones f).length = 8 := by
  rw [bookZones, List.length_append, length_flatMap_const fun z => length_byte (zoneNumber z),
    List.length_replicate]
  omega

/-- A list read place by place. -/
theorem mapM_range {α : Type} (ys : List α) (g : Nat → Option α)
    (h : ∀ i (hi : i < ys.length), g i = some ys[i]) : (List.range ys.length).mapM g = some ys := by
  induction ys generalizing g with
  | nil => rfl
  | cons y ys ih =>
    have rest := ih (g ∘ Nat.succ) fun i hi => h (i + 1) (by simpa using hi)
    rw [List.length_cons, List.range_succ_eq_map, List.mapM_cons, List.mapM_map, rest, h 0 (by simp)]
    rfl

theorem zonesOf_bookBody (f : BookFields) (h : f.zones.length ≤ 8) :
    zonesOf (bookBody f) f.zones.length = some f.zones := by
  refine mapM_range _ _ fun i hi => zoneOf_eq_some ?_
  have hz : (f.zones.flatMap fun z => byte (zoneNumber z)).length = f.zones.length := by
    rw [length_flatMap_const fun z => length_byte (zoneNumber z), Nat.one_mul]
  have hplace : byteAt (bookZones f) i = byteAt (byte (zoneNumber f.zones[i])) 0 := by
    rw [bookZones, byteAt_append_left (by omega)]
    simpa using byteAt_flatMap (fun z => length_byte (zoneNumber z)) f.zones i 0 hi (by omega)
  rw [bookBody_eq, show 9 = (bookHead f).length from rfl, byteAt_append_right,
    byteAt_append_left (by rw [length_bookZones h]; omega), hplace]
  exact toNat_ofNat_zone _

theorem bookOf_bookBody {f : BookFields} (hs : f.start ≤ 1439) (hd : f.duration ≤ 255) (hl : f.level ≤ 255)
    (hw : f.windLimit ≤ 65535) (hday : ∀ d, f.weekday = some d → d ≤ 6) (h1 : 1 ≤ f.zones.length)
    (h8 : f.zones.length ≤ 8) (hn : f.zones.Nodup) : bookOf (bookBody f) = some f := by
  have head : ∀ i, i < 9 → byteAt (bookBody f) i = byteAt (bookHead f) i := fun i hi => by
    rw [bookBody_eq]
    exact byteAt_append_left hi _
  have tail : ∀ i, byteAt (bookBody f) (17 + i) = byteAt (yesNo f.opens ++ yesNo f.recurring) i := fun i => by
    have hlen : (bookHead f ++ bookZones f).length = 17 := by
      rw [List.length_append, length_bookZones h8]
      rfl
    rw [bookBody_eq, ← List.append_assoc, ← hlen, byteAt_append_right]
  have count : byteAt (bookBody f) 8 = f.zones.length := by
    rw [head 8 (by omega)]
    exact ofNat_toNat (by omega)
  have crane : craneOf (byteAt (bookBody f) 0) = some f.crane := by
    rw [head 0 (by omega), bookHead, byteAt_cons_zero, toNat_ofNat_crane, craneOf_craneNumber]
  have opens : flagOf (byteAt (bookBody f) 17) = some f.opens := by
    rw [tail 0]
    exact flagOf_yesNo _
  have recurring : flagOf (byteAt (bookBody f) 18) = some f.recurring := by
    rw [tail 1]
    exact flagOf_yesNo _
  have weekday : weekdayOf (byteAt (bookBody f) 1) = some f.weekday := by
    rw [head 1 (by omega)]
    exact weekdayOf_getD hday
  have start : wordAt (bookBody f) 2 = f.start := by
    rw [wordAt, head 2 (by omega), head 3 (by omega)]
    exact word_ofNat (by omega)
  have limit : wordAt (bookBody f) 6 = f.windLimit := by
    rw [wordAt, head 6 (by omega), head 7 (by omega)]
    exact word_ofNat (by omega)
  have duration : byteAt (bookBody f) 4 = f.duration := by
    rw [head 4 (by omega)]
    exact ofNat_toNat (by omega)
  have level : byteAt (bookBody f) 5 = f.level := by
    rw [head 5 (by omega)]
    exact ofNat_toNat (by omega)
  unfold bookOf
  rw [crane, weekday, opens, recurring, count, zonesOf_bookBody f h8]
  simp only [start, limit, duration, level]
  rw [if_neg (by simp only [hn, not_true_eq_false, or_false]; omega)]

/-! ### CONFIG_AREAS (R169) -/

theorem length_areaBytes (a : Nat × Nat) : (twoBytes a.1 ++ twoBytes a.2).length = 4 := rfl

theorem areasOf_areasBody {areas : List (Nat × Nat)} (h6 : areas.length = 6)
    (h : ∀ a ∈ areas, a.1 ≤ 65535 ∧ a.2 ≤ 65535) : areasOf (areasBody areas) = areas := by
  have at_ (i j : Nat) (hi : i < areas.length) (hj : j < 4) :=
    byteAt_flatMap (fun a => length_areaBytes a) areas i j hi hj
  refine List.ext_getElem (by simp [areasOf, h6]) fun i _ hi => ?_
  obtain ⟨h1, h2⟩ := h areas[i] (List.getElem_mem hi)
  have start : wordAt (areasBody areas) (4 * i) = areas[i].1 := by
    have h0 := at_ i 0 hi (by omega)
    rw [Nat.add_zero] at h0
    rw [wordAt, areasBody, h0, at_ i 1 hi (by omega)]
    exact word_ofNat (by omega)
  have stop : wordAt (areasBody areas) (4 * i + 2) = areas[i].2 := by
    rw [wordAt, areasBody, at_ i 2 hi (by omega), Nat.add_assoc, at_ i 3 hi (by omega)]
    exact word_ofNat (by omega)
  simp only [areasOf, List.getElem_map, List.getElem_range, start, stop]

end Sys2Proof.Machine

namespace Sys2Proof.Proofs

open Sys2Proof.Machine

/-- Settles O60: each body reads back field by field. -/
theorem bodiesReadBack : Obligations.BodiesReadBack := by
  refine ⟨fun r ha hl hu hp hr => ⟨reportOf_reportBody ha hl hu hp hr, rfl⟩, ?_, ?_, ?_, ?_⟩
  · intro c g h1 h2 h3 h4 h5 h6 h7 h8 h9 h10 h11 h12 h13 h14 h15 h16 h17 h18 h19 h20 h21 h22 h23 h24 h25 h26
    refine ⟨configOf_configBody c ?_, craneOf_configBody c g, ?_⟩
    · exact ⟨h1, ⟨h2, h3⟩, h4, h5, h6, ⟨h7, h8⟩, h9, ⟨h10, h11, h12, h13⟩, ⟨h14, h15⟩, h16, ⟨h17, h18⟩,
        ⟨h19, h20⟩, ⟨h21, h22⟩, ⟨h23, h24⟩, h25, h26⟩
    · rw [configBody_eq]
      rfl
  · intro z r h1 h2 h3 hf hm
    refine ⟨zoneRecordOf_stageZoneBody z ⟨h1, h2⟩ h3 fun c => ⟨hf c, hm c⟩, zoneOf_stageZoneBody z r, ?_⟩
    rw [stageZoneBody_eq, List.length_append, length_flatMap_const length_footprintBytes,
      Vector.length_toList]
    rfl
  · intro f h1 h2 h3 h4 h5 h6 h7 h8
    refine ⟨bookOf_bookBody h1 h2 h3 h4 h5 h6 h7 h8, ?_⟩
    rw [bookBody_eq, List.length_append, List.length_append, length_bookZones h7]
    rfl
  · intro areas h6 h
    refine ⟨areasOf_areasBody h6 h, ?_⟩
    rw [areasBody, length_flatMap_const length_areaBytes, h6]

end Sys2Proof.Proofs

/-! ## The agenda, part by part (R34 to R36, R54 to R56)

An agenda is carried out in parts (`settle_append`), a grant evaluation is its grant, the grantee's
recomputation and one examination (`State.evaluate_of_eligible`), and a zone that is neither FREE nor
awaiting an examination stands (`settle_zone`). -/

namespace Sys2Proof.Machine

/-! ### Agendas in parts -/

theorem deferRecompute_append {c : CraneId} {ts : List Task} (h : Task.judge c ∈ ts) (us : List Task) :
    deferRecompute c (ts ++ us) = deferRecompute c ts ++ us := by
  induction ts with
  | nil => cases h
  | cons t ts ih =>
    rw [List.cons_append, deferRecompute, deferRecompute]
    split
    · rfl
    · next hne =>
      have : Task.judge c ∈ ts := (List.mem_cons.1 h).resolve_left fun e => hne e.symm
      rw [ih this, List.cons_append]

theorem afterGrant_append (z : ZoneId) (c : CraneId) (ts us : List Task) (h : Task.judge c ∉ us) :
    afterGrant z c (ts ++ us) = afterGrant z c ts ++ us := by
  by_cases hj : Task.judge c ∈ ts
  · simp [afterGrant, hj, deferRecompute_append hj]
  · simp [afterGrant, hj, h]

/-- A task leads to the same tasks and the same state whatever stands behind the agenda, if no
recomputation is under way there. -/
theorem doTask_append (t : Task) (ts us : List Task) (s : State) (h : ∀ c, Task.judge c ∉ us) :
    doTask t (ts ++ us) s = ((doTask t ts s).1 ++ us, (doTask t ts s).2) := by
  cases t with
  | evaluate z =>
    simp only [doTask]
    cases s.firstEligible z with
    | none => rfl
    | some cl => exact congrArg (·, _) (afterGrant_append z cl.crane ts us (h _))
  | recompute c =>
    simp only [doTask]
    cases s.recomputeStage c with
    | none => rfl
    | some x => simp
  | handOff z c e => simp [doTask]
  | judge c =>
    simp only [doTask]
    split <;> rfl
  | raise cause c =>
    simp only [doTask]
    split <;> simp
  | examine z => rfl

/-- An agenda is carried out part by part. -/
theorem settle_append (ts us : List Task) (s : State) (h : ∀ c, Task.judge c ∉ us) :
    s.settle (ts ++ us) = (s.settle ts).settle us := by
  induction hn : agendaBound ts s using Nat.strong_induction_on generalizing ts s with
  | _ n ih =>
    cases ts with
    | nil => rw [settle_nil, List.nil_append]
    | cons t ts =>
      rw [List.cons_append, settle_cons, settle_cons, doTask_append t ts us s h]
      exact ih _ (hn ▸ doTask_lowers t ts s) _ _ rfl

theorem settle_examine (z : ZoneId) (s : State) : s.settle [.examine z] = s.examine z := by
  rw [settle_cons]
  exact settle_nil _

/-- Grant evaluation with no eligible claim does nothing (R54). -/
theorem State.evaluate_of_none {s : State} {z : ZoneId} (h : s.firstEligible z = none) :
    s.evaluate z = s := by
  unfold State.evaluate
  rw [settle_cons]
  simp only [doTask, h, settle_nil]

/-- Grant evaluation with an eligible claim: the grant, the grantee's recomputation, and the examination
of the zone (R54, R56). -/
theorem State.evaluate_of_eligible {s : State} {z : ZoneId} {cl : Claim} (h : s.firstEligible z = some cl) :
    s.evaluate z = ((s.grantTo z cl true).recompute cl.crane).examine z := by
  unfold State.evaluate
  rw [settle_cons]
  have tasks : doTask (.evaluate z) [] s = ([.recompute cl.crane] ++ [.examine z], s.grantTo z cl true) := by
    simp [doTask, h, afterGrant]
  rw [tasks, settle_append _ _ _ (by simp), settle_examine]
  rfl

/-! ### A zone that stands through an agenda -/

theorem State.grantable_free {s : State} {c : CraneId} {z : ZoneId} (h : s.grantable c z = true) :
    (s.zone z).state = .free ∧ (s.zone z).mark = false := by
  simp only [State.grantable, State.grantableButMark, Bool.and_eq_true, beq_iff_eq,
    Bool.not_eq_true'] at h
  exact ⟨h.1.1.1.1.1, h.2⟩

theorem State.firstEligible_of_not_free {s : State} {z : ZoneId} (h : (s.zone z).state ≠ .free) :
    s.firstEligible z = none := by
  refine List.find?_eq_none.2 fun cl _ hg => h ?_
  exact (State.grantable_free hg).1

theorem State.zone_of_zones {s t : State} (h : t.zones = s.zones) (z : ZoneId) : t.zone z = s.zone z := by
  simp only [State.zone, h]

@[simp] theorem State.judgeStage_zones (s : State) (c : CraneId) : (s.judgeStage c).zones = s.zones := by
  unfold State.judgeStage
  simp only
  split <;> rfl

theorem State.recomputeStage_zones {s t : State} {c : CraneId} {xs : List (ZoneId × Bool)}
    (h : s.recomputeStage c = some (xs, t)) : t.zones = s.zones := by
  unfold State.recomputeStage at h
  split at h
  · simp only [Option.some.injEq, Prod.mk.injEq] at h
    rw [← h.2]
    rfl
  · cases h

theorem State.setDemand_zone_other (s : State) {z y : ZoneId} (h : Holding) (d : Option Demand)
    (hy : y ≠ z) : (s.setDemand z h d).zone y = s.zone y := State.editZone_zone_other s _ hy

theorem State.examine_zone_other (s : State) {z y : ZoneId} (hy : y ≠ z) :
    (s.examine z).zone y = s.zone y := by
  unfold State.examine
  split
  · rfl
  · split <;> simp only [State.post_zone, State.setDemand_zone_other s _ _ hy]

theorem mem_deferRecompute {c : CraneId} {ts : List Task} {t : Task} (h : t ∈ deferRecompute c ts) :
    t ∈ ts ∨ t = .recompute c := by
  induction ts with
  | nil => cases h
  | cons u us ih =>
    unfold deferRecompute at h
    split at h
    · simp only [List.mem_cons] at h ⊢
      tauto
    · simp only [List.mem_cons] at h ⊢
      rcases h with h | h
      · exact .inl (.inl h)
      · exact (ih h).imp_left .inr

theorem mem_afterGrant {z : ZoneId} {c : CraneId} {ts : List Task} {t : Task}
    (h : t ∈ afterGrant z c ts) : t = .examine z ∨ t = .recompute c ∨ t ∈ ts := by
  unfold afterGrant at h
  split at h
  · rcases List.mem_cons.1 h with h | h
    · exact .inl h
    · exact .inr ((mem_deferRecompute h).symm)
  · simp only [List.mem_cons] at h
    tauto

theorem examine_notMem_handOffTasks (s : State) (z y : ZoneId) (d : CraneId) (e : Bool) :
    Task.examine z ∉ s.handOffTasks y d e := by
  unfold State.handOffTasks
  simp only [List.mem_append, not_or]
  constructor
  · split
    · split <;> simp
    · simp
  · split <;> simp

theorem examine_notMem_claimTasks (s : State) (z : ZoneId) (c : CraneId) :
    Task.examine z ∉ s.claimTasks c := by
  simp [State.claimTasks]

/-- One task leaves a zone that is not FREE and awaits no examination as it is, and lets it await none. -/
theorem doTask_zone {z : ZoneId} {t : Task} {ts : List Task} {s : State} (hs : (s.zone z).state ≠ .free)
    (h : Task.examine z ∉ t :: ts) :
    (doTask t ts s).2.zone z = s.zone z ∧ Task.examine z ∉ (doTask t ts s).1 := by
  simp only [List.mem_cons, not_or] at h
  obtain ⟨ht, hts⟩ := h
  cases t with
  | evaluate y =>
    simp only [doTask]
    cases he : s.firstEligible y with
    | none => exact ⟨rfl, hts⟩
    | some cl =>
      have hy : z ≠ y := fun e => by
        subst e
        rw [State.firstEligible_of_not_free hs] at he
        cases he
      refine ⟨?_, fun hm => ?_⟩
      · simp [State.grantTo, State.editZone_zone_other s _ hy]
      · rcases mem_afterGrant hm with hm | hm | hm
        · exact hy (Task.examine.inj hm)
        · cases hm
        · exact hts hm
  | recompute c =>
    simp only [doTask]
    cases hr : s.recomputeStage c with
    | none => exact ⟨rfl, hts⟩
    | some x =>
      refine ⟨State.zone_of_zones (State.recomputeStage_zones hr) z, ?_⟩
      simp [hts]
  | handOff y d e =>
    refine ⟨rfl, ?_⟩
    simp [doTask, hts, examine_notMem_handOffTasks]
  | judge c =>
    have hz := State.zone_of_zones (s.judgeStage_zones c) z
    simp only [doTask]
    split
    · exact ⟨hz, by simp [hts]⟩
    · exact ⟨hz, hts⟩
  | raise cause c =>
    have hz := State.zone_of_zones (takeCause_zones cause c s) z
    simp only [doTask]
    split
    · next u hu =>
      rw [hu] at hz
      exact ⟨hz, by simp [hts, examine_notMem_claimTasks]⟩
    · next u hu =>
      rw [hu] at hz
      exact ⟨hz, hts⟩
  | examine y => exact ⟨State.examine_zone_other s fun e => ht (by rw [e]), hts⟩

/-- A zone that is not FREE and awaits no examination stands through an agenda. -/
theorem settle_zone {z : ZoneId} (ts : List Task) (s : State) (hs : (s.zone z).state ≠ .free)
    (h : Task.examine z ∉ ts) : (s.settle ts).zone z = s.zone z := by
  induction hn : agendaBound ts s using Nat.strong_induction_on generalizing ts s with
  | _ n ih =>
    cases ts with
    | nil => rw [settle_nil]
    | cons t ts =>
      obtain ⟨hz, hx⟩ := doTask_zone hs h
      rw [settle_cons, ih _ (hn ▸ doTask_lowers t ts s) _ _ (by rw [hz]; exact hs) hx rfl, hz]

/-- A zone that is not FREE stands through a recomputation. -/
theorem State.recompute_zone {z : ZoneId} (c : CraneId) (s : State) (hs : (s.zone z).state ≠ .free) :
    (s.recompute c).zone z = s.zone z := settle_zone _ s hs (by simp)

/-! ### A grant and its yield demand (R56) -/

theorem State.holding_eq_some {s : State} {z : ZoneId} {h : Holding} :
    s.holding z = some h ↔ (s.zone z).state = .held h := by
  unfold State.holding ZoneState.holding
  split <;> simp_all

theorem State.examined_zone (s : State) (z : ZoneId) (h : Holding) (q : List Claim) :
    (s.examined z h q).zone z =
      { s.zone z with queue := q, state := .held { h with demand := demandAfter h (s.record z) q } } := by
  unfold State.examined
  simp only
  split <;> simp

/-- A granted zone after its grant evaluation: held by the first eligible claim's crane, its claim gone,
with the yield demand of the claims behind it (R54, R56, R67 to R69). -/
theorem State.evaluate_zone_of_eligible {s : State} {z : ZoneId} {cl : Claim}
    (he : s.firstEligible z = some cl) :
    (s.evaluate z).zone z =
      let left := dropCrane cl.crane (s.zone z).queue
      let h : Holding := { holder := cl.crane, level := cl.level, emergency := cl.emergency, demand := none }
      { s.zone z with queue := left, state := .held { h with demand := demandAfter h (s.record z) left } } := by
  have granted : (s.grantTo z cl true).zone z = ZoneDyn.grant cl (s.zone z) := by simp [State.grantTo]
  have stands : ((s.grantTo z cl true).recompute cl.crane).zone z = ZoneDyn.grant cl (s.zone z) := by
    rw [State.recompute_zone _ _ (by rw [granted]; exact ZoneState.noConfusion), granted]
  have record : ((s.grantTo z cl true).recompute cl.crane).record z = s.record z := by
    have := (handOffs_recompute cl.crane (s.grantTo z cl true)).active
    simp only [State.record, this]
    simp [State.grantTo]
  have held := State.holding_eq_some.2 (show (((s.grantTo z cl true).recompute cl.crane).zone z).state =
    .held { holder := cl.crane, level := cl.level, emergency := cl.emergency, demand := none } by
      rw [stands]; rfl)
  rw [State.evaluate_of_eligible he, State.examine_of_held z _ _ held, State.examined_zone, stands, record]
  rfl

/-! ### The completion test (R16) -/

theorem State.completionTest_of_unmarked {s : State} {z : ZoneId} (h : (s.zone z).mark = false) :
    s.completionTest z = s := by
  unfold State.completionTest
  rw [h, Bool.false_and]
  rfl

/-- Hand-offs leave the zones of a pending apply at rest or not, as they are (R14, R16). -/
theorem ZoneDyn.mayPass_marked {a b : ZoneDyn} (h : a.mayPass b) (hm : a.mark = true) :
    b.state.atRest = a.state.atRest ∧ (a.state.holding = none → b = a) := by
  obtain ⟨-, -, hs⟩ := h
  cases ha : a.state with
  | free =>
    rw [ha] at hs
    rcases hs with hs | ⟨hf, -⟩
    · exact ⟨by rw [hs, ha], fun _ => hs⟩
    · rw [hm] at hf
      cases hf
  | held x =>
    rw [ha] at hs
    obtain ⟨-, d, hd⟩ := hs
    exact ⟨by rw [hd]; rfl, fun h => by cases h⟩
  | handover n =>
    rw [ha] at hs
    exact ⟨by rw [hs, ha], fun _ => hs⟩
  | closed =>
    rw [ha] at hs
    exact ⟨by rw [hs, ha], fun _ => hs⟩

/-- Every zone of the pending apply, `z` among them, is FREE or CLOSED (R16). -/
def State.applyRests (z : ZoneId) (s : State) : Prop :=
  (s.zone z).mark = true ∧ ∀ y, (s.zone y).mark = true → (s.zone y).state.atRest = true

theorem State.completionTest_rests {s : State} {z : ZoneId} (h : s.applyRests z) :
    s.completionTest z = s.completeApply s.markedZones := by
  refine if_pos ?_
  rw [h.1, Bool.true_and, List.all_eq_true]
  exact fun y hy => h.2 y ((s.mem_markedZones y).1 hy)

theorem State.completionTest_waits {s : State} {z : ZoneId} (h : ¬s.applyRests z) :
    s.completionTest z = s := by
  refine if_neg fun hc => h ?_
  rw [Bool.and_eq_true, List.all_eq_true] at hc
  exact ⟨hc.1, fun y hy => hc.2 y ((s.mem_markedZones y).2 hy)⟩

/-- Hand-offs do not bring a pending apply to rest, nor disturb it (R14, R16). -/
theorem HandOffs.applyRests_iff {s t : State} (h : HandOffs s t) (z : ZoneId) :
    t.applyRests z ↔ s.applyRests z := by
  have marks : ∀ y, (t.zone y).mark = (s.zone y).mark := fun y => (h.zones y).2.1
  have rests : ∀ y, (s.zone y).mark = true → (t.zone y).state.atRest = (s.zone y).state.atRest :=
    fun y hm => (ZoneDyn.mayPass_marked (h.zones y) hm).1
  unfold State.applyRests
  simp only [marks]
  refine and_congr_right fun _ => forall_congr' fun y => ?_
  exact forall_congr' fun hm => by rw [rests y hm]

/-! ### Causes raised (R125) -/

/-- A cause that is not masked halts a DISARMED, RUNNING or DERATED crane, with site event TRIP. -/
theorem State.raise_halts {s : State} {cause : Cause} {c : CraneId} {p : Permit} (hp : s.permit c = some p)
    (hs : p.state = .disarmed ∨ p.state = .running ∨ p.state = .derated) (hm : p.masks cause = false) :
    (∃ q, (s.raise cause c).permit c = some q ∧ q.state = .halted ∧ q.factor = 0 ∧
      q.hasLatched cause = true) ∧ (s.raise cause c).event .trip = true := by
  have taken : s.takeCause cause c = (true, (s.silenceEvent cause).latchHalt cause c p) := by
    unfold State.takeCause
    rw [hp]
    rcases hs with h | h | h <;> simp [h, hm]
  have after : HandOffs ((s.silenceEvent cause).latchHalt cause c p) (s.raise cause c) := by
    unfold State.raise
    rw [settle_cons]
    simp only [doTask, taken]
    exact (handOffs_cascade.chosen _).trans (handOffs_settle _ _)
  have record : ((s.silenceEvent cause).latchHalt cause c p).permit c =
      some { p.latch cause with state := .halted, factor := 0 } := by
    simp [State.latchHalt, CascadeMoves.silenceEvent_permit, hp]
  refine ⟨?_, after.flags _ (State.setEvent_event_same _ _)⟩
  have hq := after.permits c
  rw [record] at hq
  cases hr : (s.raise cause c).permit c with
  | none =>
    rw [hr] at hq
    exact hq.elim
  | some q =>
    rw [hr] at hq
    obtain ⟨-, hkeep, hst, hfac⟩ := hq
    refine ⟨q, rfl, hst, hfac, hkeep cause ?_⟩
    simp [Permit.hasLatched, Permit.latch]

end Sys2Proof.Machine

/-! ## Holdings that end, and the timers of a zone -/

namespace Sys2Proof.Machine

/-! ### Eligible claims -/

theorem State.firstEligible_none {s : State} {z : ZoneId}
    (h : ∀ cl ∈ (s.zone z).queue, s.grantable cl.crane z = false) : s.firstEligible z = none :=
  List.find?_eq_none.2 fun cl hcl => by simp [h cl hcl]

theorem State.firstEligible_of_split {s : State} {z : ZoneId} {ahead behind : List Claim} {cl : Claim}
    (hq : (s.zone z).queue = ahead ++ cl :: behind) (ha : ∀ x ∈ ahead, s.grantable x.crane z = false)
    (hc : s.grantable cl.crane z = true) : s.firstEligible z = some cl :=
  List.find?_eq_some_iff_append.2 ⟨hc, ahead, behind, hq, fun x hx => by simp [ha x hx]⟩

/-! ### The timers of a zone (R6, R75) -/

theorem State.endHandover_of_left {s : State} {z : ZoneId} (h : (s.zone z).state ≠ .handover 0) :
    s.endHandover z = s := by
  unfold State.endHandover
  split
  · next e => exact absurd e h
  all_goals rfl

theorem State.endHandover_of_expired {s : State} {z : ZoneId} (h : (s.zone z).state = .handover 0) :
    s.endHandover z =
      ((s.editZone z fun d => { d with state := .free }).evaluate z).completionTest z := by
  unfold State.endHandover
  rw [h]

theorem State.endYield_of_left {s : State} {z : ZoneId}
    (h : ∀ h d, s.holding z = some h → h.demand = some d → d.timer ≠ some 0) : s.endYield z = s := by
  unfold State.endYield
  cases hh : s.holding z with
  | none => rfl
  | some x =>
    simp only
    split
    · next hd => exact absurd rfl (h x _ hh hd)
    · rfl

theorem State.endYield_of_expired {s : State} {z : ZoneId} {h : Holding} {d : Demand}
    (hh : s.holding z = some h) (hd : h.demand = some d) (ht : d.timer = some 0) :
    s.endYield z = (s.editZone z fun y =>
      { y with state := .held { h with demand := some { d with timer := none } } }).raise
        .yieldTimeout h.holder := by
  obtain ⟨target, timer⟩ := d
  simp only at ht
  subst ht
  simp only [State.endYield, hh, hd]

/-! ### The end of a holding (R60) -/

/-- The state that the end of a holding gives a zone (R6, R10). -/
def State.afterHolding (z : ZoneId) (s : State) : ZoneState :=
  if (s.record z).kind = .excluded ∧ (s.zone z).openedFor = none then .closed
  else if 0 < (s.record z).deadTime then .handover (100 * (s.record z).deadTime) else .free

theorem State.afterHolding_holding (z : ZoneId) (s : State) : (s.afterHolding z).holding = none := by
  unfold State.afterHolding
  split
  · rfl
  · split <;> rfl

theorem State.afterHolding_atRest (z : ZoneId) (s : State) :
    (s.afterHolding z).atRest = true ↔ s.afterHolding z = .free ∨ s.afterHolding z = .closed :=
  ZoneState.atRest_iff _

theorem State.holding_of_heldBy {s : State} {z : ZoneId} {c : CraneId} (h : s.heldBy z c = true) :
    ∃ x, s.holding z = some x ∧ x.holder = c := by
  unfold State.heldBy at h
  split at h
  · next x hx => exact ⟨x, hx, by simpa using h⟩
  · cases h

theorem State.heldBy_iff {s : State} {z : ZoneId} {c : CraneId} :
    s.heldBy z c = true ↔ ∃ x, (s.zone z).state = .held x ∧ x.holder = c := by
  refine ⟨fun h => ?_, fun ⟨x, hx, hc⟩ => ?_⟩
  · obtain ⟨x, hx, hc⟩ := State.holding_of_heldBy h
    exact ⟨x, State.holding_eq_some.1 hx, hc⟩
  · have := State.holding_eq_some.2 hx
    simp [State.heldBy, this, hc]

theorem State.heldBy_eq_false {s : State} {z : ZoneId} {c : CraneId} :
    s.heldBy z c = false ↔ ∀ x, (s.zone z).state = .held x → x.holder ≠ c := by
  rw [← Bool.not_eq_true, State.heldBy_iff]
  simp

theorem State.closing_of_held {s : State} {z : ZoneId} {c : CraneId} (h : s.heldBy z c = true) :
    s.closing z = decide ((s.record z).kind = .excluded ∧ (s.zone z).openedFor = none) := by
  obtain ⟨x, hx, -⟩ := State.holding_of_heldBy h
  cases hk : (s.record z).kind <;> cases ho : (s.zone z).openedFor <;>
    simp [State.closing, hx, hk, ho]

/-- The end of a holding up to its completion test is a change of the zone's state and moves of the agenda. -/
theorem State.endHolding_eq {s : State} {z : ZoneId} {c : CraneId} (h : s.heldBy z c = true) (revoked : Bool) :
    ∃ v, (∀ R, CascadeMoves R → R (s.editZone z fun d => { d with state := s.afterHolding z }) v) ∧
      s.endHolding z c revoked = v.completionTest z := by
  have next : (if s.closing z = true then ZoneState.closed
      else if 0 < (s.record z).deadTime then .handover (seconds (s.record z).deadTime) else .free) =
      s.afterHolding z := by
    simp only [State.closing_of_held h, decide_eq_true_eq]
    rfl
  unfold State.endHolding
  simp only [next]
  generalize s.editZone z _ = s0
  refine ⟨_, fun R moves => ?_, rfl⟩
  have h1 : R s0 (if revoked = true then s0.post c (.revoked z) else s0) := by
    split
    · exact moves.post _ _ _
    · exact moves.refl _
  generalize (if revoked = true then s0.post c (.revoked z) else s0) = s1 at h1
  refine moves.trans ?_ (moves.recompute c _)
  split
  · exact moves.trans h1 (moves.evaluate z s1)
  · exact h1

/-! ### Cranes without a claim -/

/-- Crane `c` neither holds zone `z` nor has a claim on it. -/
def State.noStake (z : ZoneId) (c : CraneId) (s : State) : Prop :=
  s.heldBy z c = false ∧ ∀ cl ∈ (s.zone z).queue, cl.crane ≠ c

/-- A crane that neither holds a zone nor has a claim on it gets neither. -/
def StakesKept (z : ZoneId) (c : CraneId) (s t : State) : Prop := s.noStake z c → t.noStake z c

theorem stakesKept_of_zone {z : ZoneId} {c : CraneId} {s t : State} (h : t.zone z = s.zone z) :
    StakesKept z c s t := by
  intro hs
  simpa only [State.noStake, State.heldBy_eq_false, h] using hs

theorem stakesKept_of_zones {z : ZoneId} {c : CraneId} {s t : State} (h : t.zones = s.zones) :
    StakesKept z c s t := stakesKept_of_zone (State.zone_of_zones h z)

theorem stakesKept_editZone {z : ZoneId} {c : CraneId} (s : State) (y : ZoneId) (f : ZoneDyn → ZoneDyn)
    (hq : ∀ cl ∈ (f (s.zone y)).queue, cl ∈ (s.zone y).queue)
    (hh : ∀ x, (f (s.zone y)).state = .held x →
      (∃ cl ∈ (s.zone y).queue, cl.crane = x.holder) ∨ s.heldBy y x.holder = true) :
    StakesKept z c s (s.editZone y f) := by
  rintro ⟨hfree, hnone⟩
  by_cases hy : z = y
  · subst hy
    refine ⟨State.heldBy_eq_false.2 fun x hx he => ?_, fun cl hcl => ?_⟩
    · rw [State.editZone_zone_same] at hx
      subst he
      rcases hh x hx with ⟨cl, hcl, hc⟩ | h
      · exact hnone cl hcl hc
      · rw [h] at hfree
        cases hfree
    · rw [State.editZone_zone_same] at hcl
      exact hnone cl (hq cl hcl)
  · exact stakesKept_of_zone (State.editZone_zone_other s f hy) ⟨hfree, hnone⟩

/-- No move of an apply behind its stage 1 gives a crane a claim. -/
theorem stakesKept_apply (z : ZoneId) (c : CraneId) : ApplyMoves (StakesKept z c) where
  refl _ := id
  trans h k := k ∘ h
  chosen _ := stakesKept_of_zones rfl
  post _ _ _ := stakesKept_of_zones (State.post_zones _ _ _)
  trip _ := stakesKept_of_zones rfl
  silence _ := stakesKept_of_zones rfl
  grant s y cl hcl _ := stakesKept_editZone s y _ (fun _ h => List.mem_of_mem_filter h) fun x hx => by
    cases hx
    exact .inl ⟨cl, hcl, rfl⟩
  demand s y h d hh := stakesKept_editZone s y _ (fun _ h => h) fun x hx => by
    cases hx
    exact .inr (State.heldBy_iff.2 ⟨h, State.holding_eq_some.1 hh, rfl⟩)
  figures _ _ _ _ _ _ := stakesKept_of_zones rfl
  judge _ _ := stakesKept_of_zones (State.judgeStage_zones _ _)
  latchKeep _ _ _ _ _ _ _ _ := stakesKept_of_zones rfl
  latchHalt _ _ _ _ _ _ _ := stakesKept_of_zones rfl
  applyDone _ := stakesKept_of_zones rfl
  rezone s y f hf _ := by
    obtain ⟨hq, hh⟩ := hf (s.zone y)
    refine stakesKept_editZone s y f (fun cl hcl => hq ▸ hcl) fun x hx => .inr ?_
    rw [hx] at hh
    rcases hh with hh | hh
    · cases hh
    · cases hst : (s.zone y).state with
      | held w =>
        rw [hst] at hh
        exact State.heldBy_iff.2 ⟨w, hst, (Option.some.inj hh).symm⟩
      | free => rw [hst] at hh; cases hh
      | closed => rw [hst] at hh; cases hh
      | handover n => rw [hst] at hh; cases hh
  drop s y keep := stakesKept_editZone s y _ (fun _ h => List.mem_of_mem_filter h) fun x hx =>
    .inr (State.heldBy_iff.2 ⟨x, hx, rfl⟩)

/-- A whole apply gives a crane no claim. -/
theorem State.completeApply_noStake {s : State} {z : ZoneId} {c : CraneId} (zs : List ZoneId)
    (h : s.noStake z c) : (s.completeApply zs).noStake z c := by
  refine (stakesKept_apply z c).completeApply zs s ?_
  obtain ⟨-, hzone, -, -⟩ := s.each_adopt zs
  have hz := hzone z
  obtain ⟨hfree, hnone⟩ := h
  refine ⟨State.heldBy_eq_false.2 fun x hx => ?_, fun cl hcl => ?_⟩
  · rw [hz] at hx
    exact State.heldBy_eq_false.1 hfree x (by split at hx <;> exact hx)
  · rw [hz] at hcl
    exact hnone cl (by split at hcl <;> exact hcl)

theorem State.queue_of_no_claim {s : State} {z : ZoneId} {c : CraneId} (h : s.hasClaim z c = false) :
    ∀ cl ∈ (s.zone z).queue, cl.crane ≠ c := by
  have := List.find?_eq_none.1 (Option.not_isSome_iff_eq_none.1 (Bool.not_eq_true _ ▸ h))
  simpa using this

/-! ### A release served (R59 to R61) -/

/-- What a taken RELEASE or FORCE_RELEASE shows of the state after it, by whether it lets a pending apply
complete. -/
theorem State.release_outcome {s : State} {z : ZoneId} {c : CraneId} (held : s.heldBy z c = true)
    (revoked : Bool) :
    let direct := s.editZone z fun d => { d with state := s.afterHolding z }
    let v := s.endHolding z c revoked
    CalendarFrame direct v ∧ (s.hasClaim z c = false → v.heldBy z c = false) ∧
      (¬direct.applyRests z → HandOffs direct v ∧
        ((s.zone z).mark = true → v.zone z = { s.zone z with state := s.afterHolding z })) ∧
      (direct.applyRests z → v.event .applyDone = true ∧ ∀ y, (v.zone y).mark = false ∧
        v.record y = if (s.zone y).mark then s.shadowRecord y else s.record y) := by
  intro direct
  obtain ⟨w, moves, heq⟩ := State.endHolding_eq held revoked
  have hand : HandOffs direct w := moves _ handOffs_cascade
  have marks : ∀ y, (w.zone y).mark = (s.zone y).mark := fun y => by
    rw [(hand.zones y).2.1, State.editZone_zone]
    split <;> rfl
  have noStake (hc : s.hasClaim z c = false) : w.noStake z c := by
    refine moves _ (stakesKept_apply z c).toCascadeMoves ⟨State.heldBy_eq_false.2 fun x hx => ?_,
      fun cl hcl => State.queue_of_no_claim hc cl ?_⟩
    · rw [State.editZone_zone_same] at hx
      have none := s.afterHolding_holding z
      rw [show s.afterHolding z = .held x from hx] at none
      cases none
    · rwa [State.editZone_zone_same] at hcl
  simp only [heq]
  refine ⟨.trans (.of_handOffs hand) (calendarFrame_site.completionTest z w), fun hc => ?_, fun hwait => ?_,
    fun hrest => ?_⟩
  · unfold State.completionTest
    split
    · exact (State.completeApply_noStake _ (noStake hc)).1
    · exact (noStake hc).1
  · rw [State.completionTest_waits (mt (hand.applyRests_iff z).1 hwait)]
    refine ⟨hand, fun hm => ?_⟩
    have := (ZoneDyn.mayPass_marked (hand.zones z) (by rwa [State.editZone_zone_same])).2
    simp only [direct, State.editZone_zone_same] at this
    exact this (s.afterHolding_holding z)
  · rw [State.completionTest_rests ((hand.applyRests_iff z).2 hrest)]
    obtain ⟨hrec, hmark, hdone, -⟩ := w.completeApply_done w.markedZones
    refine ⟨hdone, fun y => ⟨?_, ?_⟩⟩
    · rw [hmark y]
      simp only [State.mem_markedZones]
      split
      · rfl
      · next h => exact Bool.eq_false_iff.2 h
    · rw [hrec y]
      simp only [State.mem_markedZones, marks y, State.record, State.shadowRecord, hand.active, hand.shadow]
      rfl

/-- The end of a holding lets the pending apply complete exactly where the zone carries the mark, goes to
FREE or CLOSED, and every other marked zone stands there (R16). -/
theorem State.applyRests_afterHolding (s : State) (z : ZoneId) :
    (s.editZone z fun d => { d with state := s.afterHolding z }).applyRests z ↔
      (s.zone z).mark = true ∧ (s.afterHolding z = .free ∨ s.afterHolding z = .closed) ∧
        ∀ y, y ≠ z → (s.zone y).mark = true → (s.zone y).state = .free ∨ (s.zone y).state = .closed := by
  unfold State.applyRests
  rw [State.editZone_zone_same, ← s.afterHolding_atRest z]
  refine and_congr_right fun hm => ⟨fun h => ⟨?_, fun y hy hmark => ?_⟩, fun ⟨hz, h⟩ y hmark => ?_⟩
  · have := h z
    rw [State.editZone_zone_same] at this
    exact this hm
  · have := h y
    rw [State.editZone_zone_other s _ hy] at this
    exact (ZoneState.atRest_iff _).1 (this hmark)
  · by_cases hy : y = z
    · subst hy
      rw [State.editZone_zone_same]
      exact hz
    · rw [State.editZone_zone_other s _ hy] at hmark ⊢
      exact (ZoneState.atRest_iff _).2 (h y hy hmark)

end Sys2Proof.Machine

namespace Sys2Proof.Proofs

open Sys2Proof.Machine

/-- Settles O24: `State.release_outcome` behind either port. -/
theorem releaseTaken : Obligations.ReleaseTaken := by
  intro c z tag s held empty next direct completes ends
  have frame {i : Instr} {p : Port} {f : Frame} {revoked : Bool} (hi : exec i s = .next (s.arrive p f))
      (hr : s.ready p) (hb : f.body.length ≤ 60) (ht : f.tag = tag)
      (hs : serve p f (s.underway p) = ({ result := .ok }, (s.underway p).endHolding z c revoked)) :
      ends i p f.kind := by
    subst ht
    obtain ⟨hcal, hstake, hwait, hrest⟩ := State.release_outcome (s := s.underway p) held revoked
    have rests := (s.underway p).applyRests_afterHolding z
    refine ⟨_, servedAs_of_serve hi hr hb hs rfl hcal, fun hc => ?_, fun hn => ⟨?_, fun hm => ?_⟩,
      fun hy => ?_⟩
    · exact (State.editLink_heldBy _ _ _ _ _).trans (hstake hc)
    · exact servedAs_of_serve hi hr hb hs rfl (hwait (mt rests.1 hn)).1
    · exact (State.editLink_zone _ _ _ _).trans ((hwait (mt rests.1 hn)).2 hm)
    · obtain ⟨hdone, hall⟩ := hrest (rests.2 hy)
      refine ⟨(State.editLink_event _ _ _ _).trans hdone, fun y => ⟨?_, ?_⟩⟩
      · exact (congrArg _ (State.editLink_zone _ _ _ _)).trans (hall y).1
      · exact (State.editLink_record _ _ _ _).trans (hall y).2
  refine ⟨fun hr hp ho => ?_, fun hr => ?_⟩
  · obtain ⟨p, hp⟩ := Option.ne_none_iff_exists'.1 hp
    have reg : p.state ≠ .offline := by rwa [State.permitState_of_permit hp] at ho
    refine frame (f := { kind := CraneKind.code .release, tag := tag, body := _ }) (revoked := false) rfl hr
      CraneKind.release.length_le rfl ?_
    refine (serve_crane c .release tag _ rfl _).trans ?_
    show serveRelease c _ (s.underway (.crane c)) = _
    have hp' : (s.underway (.crane c)).permit c = some p := hp
    have held' : (s.underway (.crane c)).heldBy z c = true := held
    have empty' : (s.underway (.crane c)).occupies c z = false := empty
    unfold serveRelease State.craneGate
    simp only [hp', reg, byteAt_cons_zero, toNat_ofNat_zone, zoneOf_zoneNumber, held', empty',
      not_true_eq_false, if_false, Bool.false_eq_true]
  · refine frame (f := { kind := PlannerKind.code .forceRelease, tag := tag, body := _ }) (revoked := true)
      rfl hr PlannerKind.forceRelease.length_le rfl ?_
    refine (serve_planner .forceRelease tag _ rfl _).trans ?_
    show serveForceRelease _ (s.underway .planner) = _
    have held' : (s.underway .planner).heldBy z c = true := held
    have empty' : (s.underway .planner).occupies c z = false := empty
    unfold serveForceRelease
    simp only [byteAt_cons_zero, byteAt_cons_succ, toNat_ofNat_zone, toNat_ofNat_crane, zoneOf_zoneNumber,
      craneOf_craneNumber, held', empty', not_true_eq_false, if_false, Bool.false_eq_true]

/-- Settles O50: the expiry of each timer in one equation, and `State.evaluate_zone_of_eligible`. -/
theorem zoneTimersExpire : Obligations.ZoneTimersExpire := by
  intro z s
  refine ⟨fun h => congrArg Host.Outcome.next (State.endHandover_of_left h), fun hz => ?_,
    fun h => congrArg Host.Outcome.next (State.endYield_of_left h), fun h d hh hd ht => ?_⟩
  · intro free
    refine ⟨(free.evaluate z).completionTest z, congrArg Host.Outcome.next (State.endHandover_of_expired hz),
      .trans (.of_handOffs (handOffs_evaluate z free)) (calendarFrame_site.completionTest z _), fun hm => ?_⟩
    have unmarked : ((free.evaluate z).zone z).mark = false := by
      rw [((handOffs_evaluate z free).zones z).2.1]
      simpa [free] using hm
    have queue : (free.zone z).queue = (s.zone z).queue := by simp [free]
    rw [State.completionTest_of_unmarked unmarked]
    refine ⟨handOffs_evaluate z free, fun hnone => State.evaluate_of_none (State.firstEligible_none ?_),
      fun ahead cl behind hsplit ha hc => ?_⟩
    · rwa [queue]
    · have first := State.firstEligible_of_split (queue.trans hsplit) ha hc
      rw [State.evaluate_zone_of_eligible first]
      simp only [free, State.editZone_zone_same]
      rfl
  · refine ⟨_, congrArg Host.Outcome.next (State.endYield_of_expired hh hd ht), handOffs_raise _ _ _, fun p hp hst => ?_⟩
    obtain ⟨⟨q, hq, hs, hf, hl⟩, htrip⟩ := State.raise_halts (cause := .yieldTimeout)
      (s := s.editZone z fun y => { y with state := .held { h with demand := some { d with timer := none } } })
      (c := h.holder) hp hst rfl
    exact ⟨q, hq, hs, hf, hl, htrip⟩

end Sys2Proof.Proofs

/-! ## The booking table through arming and starting (R148 to R151, R158)

The operations on zones leave the table alone (`bookingsStand_zone`); arming and starting edit the fields
that move of the one booking, and the judgement of a booking at the clock's time is the table of R158
(`State.jumpBooking_judged`). -/

namespace Sys2Proof.Machine

/-! ### Windows and wind (R148, R151, R154) -/

theorem Booking.onDay_iff {b : Booking} {w : Nat} :
    b.onDay w = true ↔ b.weekday = none ∨ b.weekday = some w := by
  unfold Booking.onDay
  cases b.weekday <;> simp

theorem Booking.inWindow_iff {b : Booking} {w m : Nat} : b.inWindow w m = true ↔ b.spans w m := by
  simp [Booking.inWindow, Booking.spans, Booking.onDay_iff, and_assoc]

theorem Booking.inArmWindow_iff {b : Booking} {lead w m : Nat} :
    b.inArmWindow lead w m = true ↔ b.awaits lead w m := by
  unfold Booking.inArmWindow Booking.awaits
  split
  · simp [Booking.onDay_iff, and_assoc]
  · simp only [Bool.or_eq_true, Bool.and_eq_true, Booking.onDay_iff, decide_eq_true_eq]
    cases b.weekday <;> simp

theorem Wind.suspends_iff {x : Wind} {b : Booking} : x.suspends b.windLimit = true ↔ b.forbidden x := by
  unfold Wind.suspends Booking.forbidden
  rcases b.windLimit with _ | l <;> rcases x.gust with _ | g <;> simp [or_assoc]

/-! ### Editing the entries of an id -/

@[simp] theorem State.editBooking_bookings (s : State) (id : Nat) (f : Booking → Booking) :
    (s.editBooking id f).bookings = s.bookings.map fun b => if b.id == id then f b else b := rfl

/-- Two edits of one id are one edit, where the first keeps the id. -/
theorem map_edit_edit (bs : List Booking) (id : Nat) (f g : Booking → Booking) (hf : ∀ b, (f b).id = b.id) :
    ((bs.map fun b => if b.id == id then f b else b).map fun b => if b.id == id then g b else b) =
      bs.map fun b => if b.id == id then g (f b) else b := by
  rw [List.map_map]
  refine List.map_congr_left fun b _ => ?_
  by_cases h : b.id = id <;> simp [h, hf]

/-- A booking found by its id, in a table in which the entries of that id were edited. -/
theorem State.bookingById_of_edit {s t : State} {id : Nat} {f : Booking → Booking} {b : Booking}
    (ht : t.bookings = (s.editBooking id f).bookings) (hf : ∀ b, (f b).id = b.id)
    (hb : s.bookingById id = some b) : t.bookingById id = some (f b) := by
  have := s.editBooking_bookingById id id f hf
  rw [if_pos rfl, hb] at this
  simpa only [State.bookingById, ht, Option.map_some] using this

/-! ### What leaves the table alone -/

/-- The booking table and its two counters stand. -/
structure BookingsStand (s t : State) : Prop where
  bookings : t.bookings = s.bookings
  nextId : t.nextId = s.nextId
  terminals : t.terminals = s.terminals

theorem BookingsStand.of_handOffs {s t : State} (h : HandOffs s t) : BookingsStand s t :=
  ⟨h.bookings, h.nextId, h.terminals⟩

/-- No operation on zones, claims and permits touches a booking. -/
theorem bookingsStand_zone : ZoneMoves BookingsStand where
  refl _ := ⟨rfl, rfl, rfl⟩
  trans h k := ⟨k.1.trans h.1, k.2.trans h.2, k.3.trans h.3⟩
  chosen _ := ⟨rfl, rfl, rfl⟩
  post s c n := .of_handOffs (handOffs_cascade.post s c n)
  trip _ := ⟨rfl, rfl, rfl⟩
  silence _ := ⟨rfl, rfl, rfl⟩
  grant _ _ _ _ _ := ⟨rfl, rfl, rfl⟩
  demand _ _ _ _ _ := ⟨rfl, rfl, rfl⟩
  figures _ _ _ _ _ _ := ⟨rfl, rfl, rfl⟩
  judge s c := .of_handOffs (handOffs_cascade.judge s c)
  latchKeep _ _ _ _ _ _ _ _ := ⟨rfl, rfl, rfl⟩
  latchHalt _ _ _ _ _ _ _ := ⟨rfl, rfl, rfl⟩
  reclaim _ _ _ _ _ _ := ⟨rfl, rfl, rfl⟩
  regrant _ _ _ _ _ := ⟨rfl, rfl, rfl⟩
  suspend _ _ _ _ := ⟨rfl, rfl, rfl⟩
  applyDone _ := ⟨rfl, rfl, rfl⟩
  rezone _ _ _ _ := ⟨rfl, rfl, rfl⟩
  drop _ _ _ := ⟨rfl, rfl, rfl⟩
  remark _ _ _ := ⟨rfl, rfl, rfl⟩
  place s z c b e _ _ := by
    obtain ⟨zs, n, h⟩ := RequestMoves.place_rest s z c b e
    rw [h]
    exact ⟨rfl, rfl, rfl⟩
  adopt _ _ := ⟨rfl, rfl, rfl⟩

theorem BookingsStand.bookingById {s t : State} (h : BookingsStand s t) (id : Nat) :
    t.bookingById id = s.bookingById id := by
  simp only [State.bookingById, h.bookings]

/-! ### Arming (R150) -/

/-- An entry armed with `n` listed zones not placed (R150). -/
def Booking.armedWith (n : Nat) (b : Booking) : Booking :=
  { b with state := .armed, short := decide (0 < n), notPlaced := n }

/-- One listed placement counts at most one zone as not placed, and touches no other booking (R150). -/
theorem State.placeListed_bookings {s : State} {bs : List Booking} {id n : Nat} (c : CraneId) (z : ZoneId)
    (h : s.bookings = bs.map fun b => if b.id == id then b.armedWith n else b) :
    ∃ k ≤ 1, (s.placeListed id c z).bookings =
        (bs.map fun b => if b.id == id then b.armedWith (n + k) else b) ∧
      (s.placeListed id c z).nextId = s.nextId ∧ (s.placeListed id c z).terminals = s.terminals := by
  have stands := bookingsStand_zone.placeBooked c z s
  unfold State.placeListed
  split
  · next u hu =>
    rw [hu] at stands
    exact ⟨0, by omega, stands.bookings.trans h, stands.nextId, stands.terminals⟩
  · next u hu =>
    rw [hu] at stands
    refine ⟨1, le_rfl, ?_, stands.nextId, stands.terminals⟩
    rw [State.editBooking_bookings, stands.bookings, h]
    refine (map_edit_edit bs id (Booking.armedWith n) _ fun _ => rfl).trans
      (List.map_congr_left fun b _ => ?_)
    split
    · simp [Booking.armedWith]
    · rfl

/-- The listed placements of an arming, as the table shows them (R150). -/
theorem State.each_placeListed_bookings {s : State} {bs : List Booking} {id n : Nat} (c : CraneId)
    (zs : List ZoneId) (h : s.bookings = bs.map fun b => if b.id == id then b.armedWith n else b) :
    ∃ k ≤ zs.length, (s.each zs (State.placeListed id c)).bookings =
        (bs.map fun b => if b.id == id then b.armedWith (n + k) else b) ∧
      (s.each zs (State.placeListed id c)).nextId = s.nextId ∧
      (s.each zs (State.placeListed id c)).terminals = s.terminals := by
  induction zs generalizing s n with
  | nil => exact ⟨0, le_rfl, h, rfl, rfl⟩
  | cons z zs ih =>
    obtain ⟨k, hk, hb, hn, ht⟩ := State.placeListed_bookings c z h
    obtain ⟨l, hl, hb', hn', ht'⟩ := ih hb
    refine ⟨k + l, by rw [List.length_cons]; omega, ?_, hn'.trans hn, ht'.trans ht⟩
    rw [← Nat.add_assoc]
    exact hb'

/-- An arming edits the booking's state, short flag and not-placed count, and nothing else of the table
(R150). -/
theorem State.armBooking_bookings {s : State} {id : Nat} {b : Booking} (cause : BookingCause)
    (hb : s.bookingById id = some b) :
    ∃ n ≤ b.zones.length,
      (s.armBooking id cause).bookings = (s.editBooking id (Booking.armedWith n)).bookings ∧
      (s.armBooking id cause).nextId = s.nextId ∧ (s.armBooking id cause).terminals = s.terminals := by
  unfold State.armBooking
  rw [hb]
  simp only
  obtain ⟨n, hn, h1, h2, h3⟩ := State.each_placeListed_bookings (n := 0) b.crane b.zones
    (show (s.editBooking id fun b => { b with state := .armed, short := false, notPlaced := 0 }).bookings =
      s.bookings.map fun b => if b.id == id then b.armedWith 0 else b from rfl)
  rw [Nat.zero_add] at h1
  generalize State.each b.zones _ _ = u at *
  have rest := bookingsStand_zone.trans (bookingsStand_zone.toLevelMoves.relevelAll b.crane b.zones u)
    (bookingsStand_zone.postBooking id .booked cause _)
  exact ⟨n, hn, rest.bookings.trans h1, rest.nextId.trans h2, rest.terminals.trans h3⟩

/-! ### Starting (R151) -/

/-- An entry started with `left` minutes under the wind record `x` (R151). -/
def Booking.startedWith (x : Wind) (limit : Option Nat) (left : Nat) (b : Booking) : Booking :=
  { b with remaining := left, state := if x.suspends limit then .suspended else .active }

/-- A start edits the booking's state and remaining minutes, and nothing else of the table; an entry into
SUSPENDED sets site event BOOKING (R151, R155). -/
theorem State.startBooking_bookings {s : State} {id : Nat} {b : Booking} (left : Nat) (cause : BookingCause)
    (hb : s.bookingById id = some b) :
    BookingsStand (s.editBooking id (Booking.startedWith (s.wind b.crane) b.windLimit left))
      (s.startBooking id left cause) ∧
      ((s.wind b.crane).suspends b.windLimit = true → (s.startBooking id left cause).event .booking = true) := by
  unfold State.startBooking
  rw [hb]
  simp only
  generalize hsus : (s.wind b.crane).suspends b.windLimit = sus
  have h0 : BookingsStand (s.editBooking id (Booking.startedWith (s.wind b.crane) b.windLimit left))
      (s.editBooking id fun b => { b with remaining := left, state := if sus then .suspended else .active }) :=
    ⟨by simp only [State.editBooking_bookings, Booking.startedWith, hsus], rfl, rfl⟩
  have h2 := bookingsStand_zone.trans h0 (bookingsStand_zone.toLevelMoves.relevelAll b.crane b.zones _)
  generalize State.relevelAll b.crane b.zones _ = s2 at *
  have h3 : BookingsStand (s.editBooking id (Booking.startedWith (s.wind b.crane) b.windLimit left))
      (if b.opens = true then s2.eachOpen Fin.val (s2.excludedAmong b.zones) (State.openZone id) else s2) := by
    split
    · exact bookingsStand_zone.trans h2
        (bookingsStand_zone.eachOpen _ _ _ (fun z _ s => bookingsStand_zone.openZone id z s) _)
    · exact h2
  generalize (if b.opens = true then s2.eachOpen Fin.val (s2.excludedAmong b.zones) (State.openZone id)
    else s2) = s3 at *
  refine ⟨bookingsStand_zone.trans ?_ (bookingsStand_zone.postBooking id .armed cause _), fun hs => ?_⟩
  · split
    · have h4 := bookingsStand_zone.trans h3 (bookingsStand_zone.toLevelMoves.refreshSuspension b.crane s3)
      exact ⟨h4.bookings, h4.nextId, h4.terminals⟩
    · exact h3
  · rw [if_pos hs]
    exact (calendarFrame_site.toZoneMoves.postBooking id .armed cause _).flags _
      (State.setEvent_event_same _ _)

/-! ### Judging a BOOKED booking (R158) -/

/-- What a judgement may edit of a booking: state, remaining minutes, short flag and not-placed count. -/
def Booking.MovesOnly (f : Booking → Booking) : Prop :=
  ∀ b, f b = { b with
    state := (f b).state, remaining := (f b).remaining, short := (f b).short, notPlaced := (f b).notPlaced }

theorem Booking.MovesOnly.id_eq {f : Booking → Booking} (h : Booking.MovesOnly f) (b : Booking) :
    (f b).id = b.id := by rw [h b]

/-- A BOOKED booking judged at site time (w, m): the table of R158 for it, and no other booking touched. -/
theorem State.jumpBooking_judged {s : State} {id : Nat} {b : Booking} (cause : BookingCause) (w m : Nat)
    (hb : s.bookingById id = some b) (hs : b.state = .booked) :
    ∃ f, Booking.MovesOnly f ∧ BookingsStand (s.editBooking id f) (s.jumpBooking cause w m id) ∧
      BookingJumped s.leadTime w m (s.wind b.crane) ((s.jumpBooking cause w m id).event .booking) b (f b) := by
  have wins : ∀ {e : Bool} {b' : Booking},
      (b.spans w m → b.startedInto (s.wind b.crane) (b.start + b.duration - m) e b') →
      (¬b.spans w m → b.awaits s.leadTime w m → b.armedInto .armed b.remaining b') →
      (¬b.spans w m → ¬b.awaits s.leadTime w m → b' = b) →
      BookingJumped s.leadTime w m (s.wind b.crane) e b b' := fun h1 h2 h3 =>
    { starts := fun _ => h1
      arms := fun _ => h2
      waits := fun _ => h3
      stands := fun h => by rw [hs] at h; cases h
      lapses := fun h => by rw [hs] at h; cases h
      returns := fun h => by rw [hs] at h; cases h
      runs := fun h => by rw [hs] at h; rcases h with h | h <;> cases h
      ended := fun h => by rw [hs] at h; cases h }
  unfold State.jumpBooking
  rw [hb]
  simp only [hs]
  by_cases hw : b.inWindow w m = true
  · rw [if_pos hw]
    have hspan := Booking.inWindow_iff.1 hw
    obtain ⟨n, hn, hbs, hni, hte⟩ := State.armBooking_bookings cause hb
    have hfound : (s.armBooking id cause).bookingById id = some (b.armedWith n) :=
      State.bookingById_of_edit hbs (fun _ => rfl) hb
    have hwind : (s.armBooking id cause).wind b.crane = s.wind b.crane := by
      simp only [State.wind, (calendarFrame_site.armBooking id cause s).winds]
    obtain ⟨hstart, hevent⟩ := State.startBooking_bookings (b.start + b.duration - m) cause hfound
    generalize hx : ((s.armBooking id cause).wind (b.armedWith n).crane) = x at hstart hevent
    have hx' : s.wind b.crane = x := hwind.symm.trans hx
    rw [hx'] at wins ⊢
    refine ⟨fun y => (y.armedWith n).startedWith x b.windLimit (b.start + b.duration - m), fun _ => rfl,
      ⟨?_, hstart.nextId.trans hni, hstart.terminals.trans hte⟩, wins (fun _ => ?_)
        (fun h => absurd hspan h) (fun h => absurd hspan h)⟩
    · rw [hstart.bookings, State.editBooking_bookings, hbs]
      exact map_edit_edit s.bookings id _ _ fun _ => rfl
    · refine ⟨if x.suspends b.windLimit then .suspended else .active, fun hf => ?_, fun hf => ?_,
        fun _ => ⟨rfl, hn⟩, fun h => by rw [hs] at h; cases h⟩
      · have := Wind.suspends_iff.2 hf
        exact ⟨if_pos this, hevent this⟩
      · exact if_neg (mt Wind.suspends_iff.1 hf)
  · rw [if_neg hw]
    have hspan := mt Booking.inWindow_iff.2 hw
    by_cases ha : b.inArmWindow s.leadTime w m = true
    · rw [if_pos ha]
      obtain ⟨n, hn, hbs, hni, hte⟩ := State.armBooking_bookings cause hb
      exact ⟨Booking.armedWith n, fun _ => rfl, ⟨hbs, hni, hte⟩, wins (fun h => absurd h hspan)
        (fun _ _ => ⟨rfl, hn⟩) (fun _ h => absurd (Booking.inArmWindow_iff.1 ha) h)⟩
    · rw [if_neg ha]
      refine ⟨fun y => y, fun _ => rfl, ⟨?_, rfl, rfl⟩, wins (fun h => absurd h hspan)
        (fun _ h => absurd (Booking.inArmWindow_iff.2 h) ha) (fun _ _ => rfl)⟩
      simp

end Sys2Proof.Machine

/-! ## Zones and claims through arming and starting (R48 to R51, R150, R151)

`ArmMoves` are the single moves of arming and starting, openings apart: they place claims, mark them booked
and grant zones, and take nothing away. -/

namespace Sys2Proof.Machine

/-- The single moves of arming and starting a booking, openings apart (R150, R151). -/
structure ArmMoves (R : State → State → Prop) : Prop extends LevelMoves R where
  bookingEvent : ∀ s, R s (s.setEvent .booking)
  booking : ∀ s id f, R s (s.editBooking id f)
  remark : ∀ s z c, R s (s.editZone z fun d =>
    { d with queue := d.queue.map fun cl => if cl.crane == c then { cl with booked := true } else cl })
  place : ∀ s z c, s.heldBy z c = false → s.hasClaim z c = false → R s (s.place z c true false)

namespace ArmMoves

variable {R : State → State → Prop}

theorem placeBooked (h : ArmMoves R) (c : CraneId) (z : ZoneId) (s : State) : R s (s.placeBooked c z).2 := by
  unfold State.placeBooked
  split
  · exact h.refl s
  split
  · exact h.refl s
  split
  · exact h.toLevelMoves.relevel c z s
  split
  · exact h.trans (h.remark s z c) (h.toLevelMoves.relevel c z _)
  split
  · exact h.refl s
  · next hh hc _ =>
    exact h.trans (h.trans (h.place s z c (by simpa using hh) (by simpa using hc))
      (h.toCascadeMoves.evaluate z _)) (h.toCascadeMoves.examine z _)

theorem placeListed (h : ArmMoves R) (id : Nat) (c : CraneId) (z : ZoneId) (s : State) :
    R s (s.placeListed id c z) := by
  have hp := h.placeBooked c z s
  unfold State.placeListed
  split
  · next u hu => rw [hu] at hp; exact hp
  · next u hu => rw [hu] at hp; exact h.trans hp (h.booking _ _ _)

theorem armBooking (h : ArmMoves R) (id : Nat) (cause : BookingCause) (s : State) :
    R s (s.armBooking id cause) := by
  unfold State.armBooking
  split
  · exact h.refl s
  · exact h.trans (h.trans (h.trans (h.booking _ _ _)
      (h.toCascadeMoves.each _ _ (fun z _ s => h.placeListed id _ z s) _))
      (h.toLevelMoves.relevelAll _ _ _)) (LevelMoves.postBooking h.toCascadeMoves _ _ _ _)

end ArmMoves

/-- A start is arming moves, the openings of its EXCLUDED zones where it opens them, and arming moves
(R151). -/
theorem State.startBooking_eq {s : State} {id : Nat} {b : Booking} (left : Nat) (cause : BookingCause)
    (hb : s.bookingById id = some b) :
    ∃ u, (∀ R, ArmMoves R → R s u) ∧ ∀ R, ArmMoves R →
      R (if b.opens then u.eachOpen Fin.val (u.excludedAmong b.zones) (State.openZone id) else u)
        (s.startBooking id left cause) := by
  unfold State.startBooking
  rw [hb]
  simp only
  generalize (fun x : Booking => { x with
    remaining := left, state := if (s.wind b.crane).suspends b.windLimit then .suspended else .active }) = f
  refine ⟨(s.editBooking id f).relevelAll b.crane b.zones,
    fun R h => h.trans (h.booking s id f) (h.toLevelMoves.relevelAll b.crane b.zones _),
    fun R h => h.trans ?_ (LevelMoves.postBooking h.toCascadeMoves _ _ _ _)⟩
  generalize (if b.opens = true then _ else _) = v
  split
  · exact h.trans (h.toLevelMoves.refreshSuspension _ _) (h.bookingEvent _)
  · exact h.refl _

/-! ### Zones that stand -/

/-- A zone through moves that open and close nothing: opened-for and mark stand, its holder keeps it, a
handover goes on, and it is CLOSED after them exactly where it was before. -/
structure ZoneDyn.Stands (a b : ZoneDyn) : Prop where
  openedFor : b.openedFor = a.openedFor
  mark : b.mark = a.mark
  held : ∀ h, a.state = .held h → ∃ h', b.state = .held h' ∧ h'.holder = h.holder
  handover : ∀ n, a.state = .handover n → b.state = .handover n
  closed : b.state = .closed ↔ a.state = .closed

theorem ZoneDyn.Stands.refl (a : ZoneDyn) : a.Stands a :=
  ⟨rfl, rfl, fun h hh => ⟨h, hh, rfl⟩, fun _ h => h, Iff.rfl⟩

theorem ZoneDyn.Stands.trans {a b c : ZoneDyn} (h : a.Stands b) (k : b.Stands c) : a.Stands c where
  openedFor := k.openedFor.trans h.openedFor
  mark := k.mark.trans h.mark
  held x hx := by
    obtain ⟨y, hy, hxy⟩ := h.held x hx
    obtain ⟨w, hw, hyw⟩ := k.held y hy
    exact ⟨w, hw, hyw.trans hxy⟩
  handover n hn := k.handover n (h.handover n hn)
  closed := k.closed.trans h.closed

/-- A change of the queue alone. -/
theorem ZoneDyn.Stands.of_queue (a : ZoneDyn) (q : List Claim) : a.Stands { a with queue := q } :=
  ⟨rfl, rfl, fun h hh => ⟨h, hh, rfl⟩, fun _ h => h, Iff.rfl⟩

/-- A change of what a holding carries. -/
theorem ZoneDyn.Stands.of_held {a : ZoneDyn} {x y : Holding} (hx : a.state = .held x)
    (hxy : y.holder = x.holder) : a.Stands { a with state := .held y } where
  openedFor := rfl
  mark := rfl
  held h hh := by
    rw [hx] at hh
    cases hh
    exact ⟨y, rfl, hxy⟩
  handover n hn := by rw [hx] at hn; cases hn
  closed := by rw [hx]; exact ⟨fun h => (by cases h), fun h => (by cases h)⟩

theorem ZoneDyn.Stands.of_mayPass {a b : ZoneDyn} (h : a.mayPass b) : a.Stands b := by
  obtain ⟨ho, hm, hs⟩ := h
  cases ha : a.state with
  | closed =>
    rw [ha] at hs
    simp only at hs
    exact hs ▸ .refl a
  | handover n =>
    rw [ha] at hs
    simp only at hs
    exact hs ▸ .refl a
  | held x =>
    rw [ha] at hs
    obtain ⟨-, d, hd⟩ := hs
    exact ⟨ho, hm, fun h hh => ⟨_, hd, by rw [ha] at hh; cases hh; rfl⟩,
      fun n hn => (by rw [ha] at hn; cases hn), by rw [hd, ha]; exact ⟨fun h => (by cases h), fun h => (by cases h)⟩⟩
  | free =>
    rw [ha] at hs
    simp only at hs
    rcases hs with hs | ⟨-, cl, -, d, -, hd⟩
    · exact hs ▸ .refl a
    · exact ⟨ho, hm, fun h hh => (by rw [ha] at hh; cases hh), fun n hn => (by rw [ha] at hn; cases hn),
        by rw [hd, ha]; exact ⟨fun h => (by cases h), fun h => (by cases h)⟩⟩

/-- Every zone stands. -/
def ZonesStand (s t : State) : Prop := ∀ z, (s.zone z).Stands (t.zone z)

theorem zonesStand_of_zones {s t : State} (h : t.zones = s.zones) : ZonesStand s t := fun z => by
  rw [State.zone_of_zones h z]
  exact .refl _

theorem zonesStand_of_handOffs {s t : State} (h : HandOffs s t) : ZonesStand s t :=
  fun z => .of_mayPass (h.zones z)

theorem zonesStand_editZone (s : State) (z : ZoneId) (f : ZoneDyn → ZoneDyn)
    (hf : (s.zone z).Stands (f (s.zone z))) : ZonesStand s (s.editZone z f) := fun y => by
  rw [State.editZone_zone]
  split
  · next e => exact e ▸ hf
  · exact .refl _

theorem ZonesStand.heldBy {s t : State} (h : ZonesStand s t) {z : ZoneId} {c : CraneId}
    (hs : s.heldBy z c = true) : t.heldBy z c = true := by
  obtain ⟨x, hx, hc⟩ := State.heldBy_iff.1 hs
  obtain ⟨y, hy, hxy⟩ := (h z).held x hx
  exact State.heldBy_iff.2 ⟨y, hy, hxy.trans hc⟩

/-- Levels, suspensions and hand-offs open and close no zone, and end no holding. -/
theorem zonesStand_level : LevelMoves ZonesStand where
  refl _ _ := .refl _
  trans h k z := (h z).trans (k z)
  chosen _ := zonesStand_of_zones rfl
  post _ _ _ := zonesStand_of_zones (State.post_zones _ _ _)
  trip _ := zonesStand_of_zones rfl
  silence _ := zonesStand_of_zones rfl
  grant s z cl hq hg := zonesStand_of_handOffs (handOffs_cascade.grant s z cl hq hg)
  demand s z h d hh := zonesStand_of_handOffs (handOffs_cascade.demand s z h d hh)
  figures _ _ _ _ _ _ := zonesStand_of_zones rfl
  judge _ _ := zonesStand_of_zones (State.judgeStage_zones _ _)
  latchKeep _ _ _ _ _ _ _ _ := zonesStand_of_zones rfl
  latchHalt _ _ _ _ _ _ _ := zonesStand_of_zones rfl
  reclaim s z _ _ _ _ := zonesStand_editZone s z _ (.of_queue _ _)
  regrant s z _ _ hh := zonesStand_editZone s z _ (.of_held (State.holding_eq_some.1 hh) rfl)
  suspend _ _ _ _ := zonesStand_of_zones rfl

/-- Arming and starting open and close no zone, openings apart, and end no holding. -/
theorem zonesStand_arm : ArmMoves ZonesStand where
  toLevelMoves := zonesStand_level
  bookingEvent _ := zonesStand_of_zones rfl
  booking _ _ _ := zonesStand_of_zones rfl
  remark s z _ := zonesStand_editZone s z _ (.of_queue _ _)
  place s z c _ _ y := by
    obtain ⟨q, hq⟩ := RequestMoves.place_zone s z c true false y
    rw [hq]
    exact .of_queue _ q

/-! ### Openings (R8) -/

theorem State.openFor_zone (id : Nat) (z y : ZoneId) (s : State) :
    (s.openFor id z).zone y =
      if y = z then
        { s.zone y with
          openedFor := some id
          state := match (s.zone y).state with
            | .closed => .free
            | .free => .free
            | .held h => .held h
            | .handover left => .handover left }
      else s.zone y := State.editZone_zone s z y _

/-- An opening with its evaluation is the opening and hand-offs (R8). -/
theorem State.openZone_handOffs (id : Nat) (z : ZoneId) (s : State) :
    HandOffs (s.openFor id z) (s.openZone id z) := by
  unfold State.openZone
  simp only
  split
  · exact handOffs_evaluate z _
  · exact handOffs_evaluate z _
  · exact .refl _
  · exact .refl _

/-- A zone through openings for the booking `id`: opened for it, or for what it was; no holding and no
handover ends, and a zone that is not CLOSED stays so. -/
structure ZoneDyn.OpensFor (id : Nat) (a b : ZoneDyn) : Prop where
  openedFor : b.openedFor = a.openedFor ∨ b.openedFor = some id
  held : ∀ h, a.state = .held h → ∃ h', b.state = .held h' ∧ h'.holder = h.holder
  handover : ∀ n, a.state = .handover n → b.state = .handover n
  closed : a.state ≠ .closed → b.state ≠ .closed

theorem ZoneDyn.Stands.opensFor {a b : ZoneDyn} (h : a.Stands b) (id : Nat) : a.OpensFor id b :=
  ⟨.inl h.openedFor, h.held, h.handover, mt h.closed.1⟩

theorem ZoneDyn.OpensFor.trans {id : Nat} {a b c : ZoneDyn} (h : a.OpensFor id b) (k : b.OpensFor id c) :
    a.OpensFor id c where
  openedFor := by
    rcases k.openedFor with e | e
    · rw [e]
      exact h.openedFor
    · exact .inr e
  held x hx := by
    obtain ⟨y, hy, hxy⟩ := h.held x hx
    obtain ⟨w, hw, hyw⟩ := k.held y hy
    exact ⟨w, hw, hyw.trans hxy⟩
  handover n hn := k.handover n (h.handover n hn)
  closed hn := k.closed (h.closed hn)

/-- What the opening of one zone does to every zone (R8). -/
theorem State.openZone_zone (id : Nat) (z y : ZoneId) (s : State) :
    (s.zone y).OpensFor id ((s.openZone id z).zone y) ∧
      (y = z → ((s.openZone id z).zone y).openedFor = some id ∧ ((s.openZone id z).zone y).state ≠ .closed) ∧
      (y ≠ z → ((s.openZone id z).zone y).openedFor = (s.zone y).openedFor) := by
  have stands := zonesStand_of_handOffs (s.openZone_handOffs id z) y
  have opened := State.openFor_zone id z y s
  by_cases hy : y = z
  · rw [if_pos hy] at opened
    have opens : (s.zone y).OpensFor id ((s.openFor id z).zone y) := by
      rw [opened]
      refine ⟨.inr rfl, fun h hh => ?_, fun n hn => ?_, fun hc => ?_⟩
      · simp only [hh]
        exact ⟨h, rfl, rfl⟩
      · simp only [hn]
      · cases hs : (s.zone y).state <;> simp
    refine ⟨opens.trans (stands.opensFor id), fun _ => ⟨?_, mt stands.closed.1 ?_⟩, fun h => absurd hy h⟩
    · rw [stands.openedFor, opened]
    · rw [opened]
      cases hs : (s.zone y).state <;> simp
  · rw [if_neg hy] at opened
    rw [opened] at stands
    exact ⟨stands.opensFor id, fun h => absurd h hy, fun _ => stands.openedFor⟩

/-- What the openings of a start do to every zone (R8, R151). -/
theorem State.each_openZone_zone (id : Nat) (zs : List ZoneId) (y : ZoneId) (s : State) :
    (s.zone y).OpensFor id ((s.each zs (State.openZone id)).zone y) ∧
      (y ∈ zs → ((s.each zs (State.openZone id)).zone y).openedFor = some id ∧
        ((s.each zs (State.openZone id)).zone y).state ≠ .closed) ∧
      (y ∉ zs → ((s.each zs (State.openZone id)).zone y).openedFor = (s.zone y).openedFor) := by
  induction zs generalizing s with
  | nil => exact ⟨(ZoneDyn.Stands.refl _).opensFor id, fun h => (by cases h), fun _ => rfl⟩
  | cons z zs ih =>
    obtain ⟨h1, h2, h3⟩ := State.openZone_zone id z y s
    obtain ⟨k1, k2, k3⟩ := ih (s.openZone id z)
    refine ⟨h1.trans k1, fun hy => ?_, fun hy => ?_⟩
    · by_cases hz : y ∈ zs
      · exact k2 hz
      · have hyz := (List.mem_cons.1 hy).resolve_right hz
        exact ⟨(k3 hz).trans (h2 hyz).1, k1.closed (h2 hyz).2⟩
    · rw [List.mem_cons, not_or] at hy
      exact (k3 hy.2).trans (h3 hy.1)

/-- The openings of a start in their open order (R151; log entry 8). -/
theorem State.eachOpen_openZone_zone (id : Nat) (zs : List ZoneId) (y : ZoneId) (s : State) :
    let t := s.eachOpen Fin.val zs (State.openZone id)
    (s.zone y).OpensFor id (t.zone y) ∧
      (y ∈ zs → (t.zone y).openedFor = some id ∧ (t.zone y).state ≠ .closed) ∧
      (y ∉ zs → (t.zone y).openedFor = (s.zone y).openedFor) := by
  have h := State.each_openZone_zone id (s.arranged Fin.val zs) y s.chosen
  simp only [State.mem_arranged, State.chosen_zone] at h
  exact h

/-! ### Claims in a queue -/

theorem insertClaim_perm (cl : Claim) (q : List Claim) : (insertClaim cl q).Perm (cl :: q) := by
  induction q with
  | nil => exact .refl _
  | cons x xs ih =>
    unfold insertClaim
    split
    · exact .refl _
    · exact (ih.cons x).trans (.swap cl x xs)

@[simp] theorem mem_insertClaim {cl x : Claim} {q : List Claim} :
    x ∈ insertClaim cl q ↔ x = cl ∨ x ∈ q := by
  rw [(insertClaim_perm cl q).mem_iff, List.mem_cons]

theorem mem_dropCrane {c : CraneId} {q : List Claim} {x : Claim} :
    x ∈ dropCrane c q ↔ x ∈ q ∧ x.crane ≠ c := by
  simp [dropCrane]

/-- A claim of another crane is found as before behind an insertion. -/
theorem find?_insertClaim_other {cl : Claim} {c : CraneId} (h : cl.crane ≠ c) (q : List Claim) :
    (insertClaim cl q).find? (·.crane == c) = q.find? (·.crane == c) := by
  induction q with
  | nil => simp [insertClaim, h]
  | cons x xs ih =>
    unfold insertClaim
    split
    · simp [h]
    · rw [List.find?_cons, List.find?_cons, ih]

/-- An inserted claim is the one found, where its crane has no other. -/
theorem find?_insertClaim_self {cl : Claim} {q : List Claim} (h : ∀ x ∈ q, x.crane ≠ cl.crane) :
    (insertClaim cl q).find? (·.crane == cl.crane) = some cl := by
  induction q with
  | nil => simp [insertClaim]
  | cons x xs ih =>
    unfold insertClaim
    split
    · simp
    · rw [List.find?_cons]
      have hx : (x.crane == cl.crane) = false := by simpa using h x (by simp)
      rw [hx]
      exact ih fun y hy => h y (by simp [hy])

theorem find?_dropCrane_other {c d : CraneId} (h : d ≠ c) (q : List Claim) :
    (dropCrane c q).find? (·.crane == d) = q.find? (·.crane == d) := by
  unfold dropCrane
  rw [List.find?_filter]
  refine congrArg (fun p => q.find? p) (funext fun x => ?_)
  by_cases hx : x.crane = d
  · simp [hx, h]
  · simp [hx]

/-- A claim whose level is recomputed is found at its new level, and any other claim as it was (R48). -/
theorem find?_relevelled {c d : CraneId} {cl : Claim} (hc : cl.crane = c) (level : Nat) (q : List Claim) :
    (insertClaim { cl with level := level } (dropCrane c q)).find? (·.crane == d) =
      if d = c then some { cl with level := level } else q.find? (·.crane == d) := by
  split
  · next h =>
    subst h
    have := find?_insertClaim_self (cl := { cl with level := level }) (q := dropCrane d q)
      fun x hx => by rw [hc]; exact (mem_dropCrane.1 hx).2
    simpa only [hc] using this
  · next h =>
    rw [find?_insertClaim_other (by rw [hc]; exact fun e => h e.symm), find?_dropCrane_other h]

theorem State.claimOf_some {s : State} {z : ZoneId} {c : CraneId} {cl : Claim} (h : s.claimOf z c = some cl) :
    cl ∈ (s.zone z).queue ∧ cl.crane = c :=
  ⟨List.mem_of_find?_eq_some h, by simpa using List.find?_some h⟩

/-! ### Claims placed by an arming (R49) -/

/-- The crane holds the zone, or its claim in the queue is booked. -/
def ZoneDyn.placed (c : CraneId) (d : ZoneDyn) : Prop :=
  (∃ h, d.state = .held h ∧ h.holder = c) ∨ ∃ cl, d.queue.find? (·.crane == c) = some cl ∧ cl.booked = true

/-- Zones that a crane holds or has booked claims on stay so. -/
def PlacedKept (c : CraneId) (s t : State) : Prop := ∀ z, (s.zone z).placed c → (t.zone z).placed c

theorem placedKept_of_zones {c : CraneId} {s t : State} (h : t.zones = s.zones) : PlacedKept c s t :=
  fun z => by rw [State.zone_of_zones h z]; exact id

theorem placedKept_editZone {c : CraneId} (s : State) (z : ZoneId) (f : ZoneDyn → ZoneDyn)
    (hf : (s.zone z).placed c → (f (s.zone z)).placed c) : PlacedKept c s (s.editZone z f) := fun y => by
  rw [State.editZone_zone]
  split
  · next e => exact e ▸ hf
  · exact id

/-- Another holding of the same crane, behind the same queue. -/
theorem ZoneDyn.placed_of_held {c : CraneId} {d : ZoneDyn} {x y : Holding} (hx : d.state = .held x)
    (hxy : y.holder = x.holder) (h : d.placed c) : ({ d with state := .held y } : ZoneDyn).placed c := by
  rcases h with ⟨w, hw, hc⟩ | h
  · rw [hx] at hw
    cases hw
    exact .inl ⟨y, rfl, hxy.trans hc⟩
  · exact .inr h

theorem placedKept_level (c : CraneId) : LevelMoves (PlacedKept c) where
  refl _ _ := id
  trans h k z := k z ∘ h z
  chosen _ := placedKept_of_zones rfl
  post _ _ _ := placedKept_of_zones (State.post_zones _ _ _)
  trip _ := placedKept_of_zones rfl
  silence _ := placedKept_of_zones rfl
  grant s z cl _ hg := placedKept_editZone s z _ fun h => by
    have free := (State.grantable_free hg).1
    rcases h with ⟨x, hx, -⟩ | ⟨cl', hf, hb⟩
    · rw [free] at hx
      cases hx
    · by_cases hc : cl.crane = c
      · exact .inl ⟨_, rfl, hc⟩
      · refine .inr ⟨cl', ?_, hb⟩
        exact (find?_dropCrane_other (fun e => hc e.symm) _).trans hf
  demand s z _ _ hh := placedKept_editZone s z _ (ZoneDyn.placed_of_held (State.holding_eq_some.1 hh) rfl)
  figures _ _ _ _ _ _ := placedKept_of_zones rfl
  judge _ _ := placedKept_of_zones (State.judgeStage_zones _ _)
  latchKeep _ _ _ _ _ _ _ _ := placedKept_of_zones rfl
  latchHalt _ _ _ _ _ _ _ := placedKept_of_zones rfl
  reclaim s z d cl level hcl := placedKept_editZone s z _ fun h => by
    have found := find?_relevelled (d := c) (State.claimOf_some hcl).2 level (s.zone z).queue
    rcases h with h | ⟨cl', hf, hb⟩
    · exact .inl h
    · by_cases hd : c = d
      · subst hd
        rw [if_pos rfl] at found
        have : cl' = cl := Option.some.inj (hf.symm.trans hcl)
        exact .inr ⟨_, found, this ▸ hb⟩
      · rw [if_neg hd] at found
        exact .inr ⟨cl', found.trans hf, hb⟩
  regrant s z _ _ hh := placedKept_editZone s z _ (ZoneDyn.placed_of_held (State.holding_eq_some.1 hh) rfl)
  suspend _ _ _ _ := placedKept_of_zones rfl

/-- A queue whose claims of crane `d` are marked booked. -/
theorem find?_booked (c d : CraneId) (q : List Claim) :
    (q.map fun cl => if cl.crane == d then { cl with booked := true } else cl).find? (·.crane == c) =
      (q.find? (·.crane == c)).map fun cl => if cl.crane == d then { cl with booked := true } else cl := by
  rw [List.find?_map]
  refine congrArg (Option.map _) (congrArg (fun p => q.find? p) (funext fun cl => ?_))
  simp only [Function.comp]
  split <;> rfl

/-- Claims renumbered are the same claims with other arrival sequences (R45). -/
theorem State.renumbered_zone_placed {c : CraneId} {z : ZoneId} {s : State} (h : (s.zone z).placed c) :
    (s.renumbered.zone z).placed c := by
  simp only [State.renumbered, State.zone, Table.entry_mapAll]
  rcases h with h | ⟨cl, hf, hb⟩
  · exact .inl h
  · refine .inr ?_
    simp only [List.find?_map]
    exact ⟨_, congrArg (Option.map _) hf, hb⟩

/-- A placement in one equation: the renumbering that may be due, and the claim in its place (R45, R51). -/
theorem State.place_eq (s : State) (z : ZoneId) (c : CraneId) (booked emergency : Bool) :
    ∃ u cl, (u = s ∨ u = s.renumbered) ∧ cl.crane = c ∧ cl.booked = booked ∧ cl.emergency = emergency ∧
      cl.arrival = u.arrivals + 1 ∧ s.place z c booked emergency =
        ({ u with arrivals := u.arrivals + 1 } : State).editZone z fun d =>
          { d with queue := insertClaim cl d.queue } := by
  by_cases h : 65535 ≤ s.arrivals
  · refine ⟨s.renumbered, Claim.mk c (s.renumbered.levelFor c z emergency) booked emergency
      (s.renumbered.arrivals + 1), .inr rfl, rfl, rfl, rfl, rfl, ?_⟩
    unfold State.place
    simp only [if_pos h]
  · refine ⟨s, Claim.mk c (s.levelFor c z emergency) booked emergency (s.arrivals + 1), .inl rfl, rfl, rfl, rfl, rfl, ?_⟩
    unfold State.place
    simp only [if_neg h]

theorem State.hasClaim_eq_false {s : State} {z : ZoneId} {c : CraneId} :
    s.hasClaim z c = false ↔ ∀ cl ∈ (s.zone z).queue, cl.crane ≠ c := by
  simp [State.hasClaim, State.claimOf]

theorem placedKept_place (c d : CraneId) (s : State) (z : ZoneId) (hn : s.hasClaim z d = false) :
    PlacedKept c s (s.place z d true false) := by
  obtain ⟨u, cl, hu, hcd, -, -, -, heq⟩ := State.place_eq s z d true false
  have hsu : PlacedKept c s u := by
    rcases hu with rfl | rfl
    · exact fun _ => id
    · exact fun _ => State.renumbered_zone_placed
  rw [heq]
  intro y hy
  have hy' := hsu y hy
  rw [State.editZone_zone]
  split
  · next e =>
    subst e
    rcases hy with h | ⟨cl', hf, hb⟩
    · rcases hy' with h' | ⟨cl', hf, hb⟩
      · exact .inl h'
      · by_cases hc : c = d
        · exact absurd (State.hasClaim_eq_false.1 hn) fun hall => by
            rcases hu with rfl | rfl
            · exact hall cl' (List.mem_of_find?_eq_some hf) (by simpa [hc] using List.find?_some hf)
            · simp only [State.renumbered, State.zone, Table.entry_mapAll, List.find?_map] at hf
              obtain ⟨x, hx, -⟩ := Option.map_eq_some_iff.1 hf
              exact hall x (List.mem_of_find?_eq_some hx) (by simpa [hc] using List.find?_some hx)
        · exact .inr ⟨cl', (find?_insertClaim_other (by rw [hcd]; exact fun e => hc e.symm) _).trans hf, hb⟩
    · have hc : c ≠ d := fun e => State.hasClaim_eq_false.1 hn cl' (List.mem_of_find?_eq_some hf)
        (by simpa [e] using List.find?_some hf)
      rcases hy' with h' | ⟨cl'', hf', hb'⟩
      · exact .inl h'
      · exact .inr ⟨cl'', (find?_insertClaim_other (by rw [hcd]; exact fun e => hc e.symm) _).trans hf', hb'⟩
  · exact hy'

end Sys2Proof.Machine

/-! ## The claims of an arming (R46, R49, R150)

An arming places every listed claim it may place: the claim limit of R46 counts what a crane holds and
claims zone by zone (`ZoneDyn.stake`), and one placement adds at most one. -/

namespace Sys2Proof.Machine

/-! ### The claim limit, zone by zone (R46) -/

/-- What one zone counts towards the claim limit of crane `c` (R46). -/
def ZoneDyn.stake (c : CraneId) (d : ZoneDyn) : Nat :=
  (d.state.holding.any (·.holder == c)).toNat + (d.queue.filter (·.crane == c)).length

theorem State.heldBy_eq_any (s : State) (z : ZoneId) (c : CraneId) :
    s.heldBy z c = (s.zone z).state.holding.any (·.holder == c) := by
  unfold State.heldBy State.holding
  cases (s.zone z).state.holding <;> rfl

theorem length_filter_eq_sum_toNat {α : Type} (p : α → Bool) (l : List α) :
    (l.filter p).length = (l.map fun x => (p x).toNat).sum := by
  induction l with
  | nil => rfl
  | cons x xs ih => cases h : p x <;> simp [h, ih, Nat.add_comm]

theorem State.zones_toList (s : State) : s.zones.toList = allZones.map s.zone := by
  refine List.ext_getElem (by simp [allZones]) fun i h1 h2 => ?_
  simp [allZones, State.zone, Table.entry]

theorem State.countOf_eq (c : CraneId) (s : State) :
    s.countOf c = (s.zones.toList.map (ZoneDyn.stake c)).sum := by
  have held : (s.heldZones c).length =
      (s.zones.toList.map fun d => (d.state.holding.any (·.holder == c)).toNat).sum := by
    rw [State.zones_toList, List.map_map]
    refine (length_filter_eq_sum_toNat _ _).trans (congrArg (fun f => (allZones.map f).sum)
      (funext fun z => ?_))
    simp [State.heldBy_eq_any]
  have queued : (s.allClaims.filter (·.crane == c)).length =
      (s.zones.toList.map fun d => (d.queue.filter (·.crane == c)).length).sum := by
    simp only [State.allClaims, List.filter_flatMap, List.length_flatMap]
  rw [State.countOf, held, queued, ← List.sum_map_add]
  rfl

theorem State.countOf_of_zones {c : CraneId} {s t : State} (h : t.zones = s.zones) :
    t.countOf c = s.countOf c := by
  rw [State.countOf_eq, State.countOf_eq, h]

/-- What an edit of one zone does to a crane's count. -/
theorem State.countOf_editZone (c : CraneId) (s : State) (z : ZoneId) (f : ZoneDyn → ZoneDyn) :
    (s.editZone z f).countOf c + (s.zone z).stake c = s.countOf c + (f (s.zone z)).stake c := by
  rw [State.countOf_eq, State.countOf_eq]
  have h := sum_map_set s.zones.toList z.val (by simp) (f (s.zone z)) (ZoneDyn.stake c)
  have h2 : s.zones.toList[z.val]'(by simp) = s.zone z := by
    simp [State.zone, Table.entry]
  rw [h2] at h
  rw [← h]
  simp [State.editZone, Table.edit, Vector.toList_set, State.zone, Table.entry]

/-- Crane `c` counts no more zones than before. -/
def CountFalls (c : CraneId) (s t : State) : Prop := t.countOf c ≤ s.countOf c

theorem countFalls_of_zones {c : CraneId} {s t : State} (h : t.zones = s.zones) : CountFalls c s t :=
  (State.countOf_of_zones h).le

theorem countFalls_editZone {c : CraneId} (s : State) (z : ZoneId) (f : ZoneDyn → ZoneDyn)
    (hf : (f (s.zone z)).stake c ≤ (s.zone z).stake c) : CountFalls c s (s.editZone z f) := by
  have := State.countOf_editZone c s z f
  unfold CountFalls
  omega

theorem length_claims_dropCrane (c d : CraneId) (q : List Claim) :
    ((dropCrane d q).filter (·.crane == c)).length =
      if c = d then 0 else (q.filter (·.crane == c)).length := by
  unfold dropCrane
  rw [List.filter_filter]
  split
  · next h =>
    subst h
    rw [List.length_eq_zero_iff, List.filter_eq_nil_iff]
    intro x _
    simp
  · next h =>
    refine congrArg (fun p => (q.filter p).length) (funext fun x => ?_)
    by_cases hx : x.crane = c
    · simp [hx, h]
    · simp [hx]

theorem length_claims_insertClaim (c : CraneId) (cl : Claim) (q : List Claim) :
    ((insertClaim cl q).filter (·.crane == c)).length =
      (cl.crane == c).toNat + (q.filter (·.crane == c)).length := by
  rw [((insertClaim_perm cl q).filter _).length_eq, List.filter_cons]
  split
  · next h => simp [h]; omega
  · next h => simp [Bool.not_eq_true _ ▸ h]

theorem length_claims_pos {c : CraneId} {cl : Claim} {q : List Claim} (h : cl ∈ q) (hc : cl.crane = c) :
    0 < (q.filter (·.crane == c)).length :=
  List.length_pos_of_mem (List.mem_filter.2 ⟨h, by simpa using hc⟩)

/-- A grant takes a claim for a holding (R46, R56). -/
theorem ZoneDyn.stake_grant {c : CraneId} {cl : Claim} {d : ZoneDyn} (hcl : cl ∈ d.queue) :
    (d.grant cl).stake c ≤ d.stake c := by
  have granted : (d.grant cl).stake c = (cl.crane == c).toNat + ((dropCrane cl.crane d.queue).filter
    (·.crane == c)).length := rfl
  rw [granted, length_claims_dropCrane, ZoneDyn.stake]
  split
  · next hc =>
    have := length_claims_pos hcl hc.symm
    have : (cl.crane == c).toNat ≤ 1 := Bool.toNat_le _
    omega
  · next hc =>
    have : (cl.crane == c) = false := by simpa using fun e => hc (Eq.symm e)
    rw [this, Bool.toNat_false]
    omega

theorem ZoneDyn.stake_held (c : CraneId) {d : ZoneDyn} {x y : Holding} (hx : d.state = .held x)
    (hxy : y.holder = x.holder) : ({ d with state := .held y } : ZoneDyn).stake c = d.stake c := by
  simp only [ZoneDyn.stake, hx, ZoneState.holding, Option.any_some, hxy]

/-- Levels, suspensions and hand-offs give no crane another claim. -/
theorem countFalls_level (c : CraneId) : LevelMoves (CountFalls c) where
  refl _ := le_refl _
  trans h k := le_trans k h
  chosen _ := countFalls_of_zones rfl
  post _ _ _ := countFalls_of_zones (State.post_zones _ _ _)
  trip _ := countFalls_of_zones rfl
  silence _ := countFalls_of_zones rfl
  grant s z _ hq _ := countFalls_editZone s z _ (ZoneDyn.stake_grant hq)
  demand s z _ _ hh := countFalls_editZone s z _ (ZoneDyn.stake_held c (State.holding_eq_some.1 hh) rfl).le
  figures _ _ _ _ _ _ := countFalls_of_zones rfl
  judge _ _ := countFalls_of_zones (State.judgeStage_zones _ _)
  latchKeep _ _ _ _ _ _ _ _ := countFalls_of_zones rfl
  latchHalt _ _ _ _ _ _ _ := countFalls_of_zones rfl
  reclaim s z d cl level hcl := countFalls_editZone s z _ <| by
    obtain ⟨hmem, hcrane⟩ := State.claimOf_some hcl
    simp only [ZoneDyn.stake, length_claims_insertClaim, length_claims_dropCrane]
    refine Nat.add_le_add_left ?_ _
    by_cases hc : c = d
    · have := length_claims_pos hmem (hcrane.trans hc.symm)
      have : (cl.crane == c).toNat ≤ 1 := Bool.toNat_le _
      rw [if_pos hc]
      omega
    · have : (cl.crane == c) = false := by simpa [hcrane] using fun e => hc (Eq.symm e)
      simp [hc, this]
  regrant s z _ _ hh := countFalls_editZone s z _ (ZoneDyn.stake_held c (State.holding_eq_some.1 hh) rfl).le
  suspend _ _ _ _ := countFalls_of_zones rfl

theorem ZoneDyn.stake_remark (c d : CraneId) (x : ZoneDyn) :
    ({ x with queue := x.queue.map fun cl => if cl.crane == d then { cl with booked := true } else cl } :
      ZoneDyn).stake c = x.stake c := by
  simp only [ZoneDyn.stake, List.filter_map, List.length_map]
  refine congrArg (fun p => _ + (x.queue.filter p).length) (funext fun cl => ?_)
  simp only [Function.comp]
  split <;> rfl

theorem State.countOf_renumbered (c : CraneId) (s : State) : s.renumbered.countOf c = s.countOf c := by
  rw [State.countOf_eq, State.countOf_eq, State.zones_toList, State.zones_toList, List.map_map, List.map_map]
  refine congrArg (fun f => (allZones.map f).sum) (funext fun z => ?_)
  simp [State.renumbered, State.zone, Table.entry_mapAll, ZoneDyn.stake, List.filter_map, Function.comp_def]

/-- A placement adds one claim (R46). -/
theorem State.countOf_place (s : State) (z : ZoneId) (c d : CraneId) (booked emergency : Bool) :
    (s.place z d booked emergency).countOf c = s.countOf c + (d == c).toNat := by
  obtain ⟨u, cl, hu, rfl, -, -, -, heq⟩ := State.place_eq s z d booked emergency
  have hs : s.countOf c = u.countOf c := by
    rcases hu with rfl | rfl
    · rfl
    · exact (State.countOf_renumbered c s).symm
  have edit := State.countOf_editZone c ({ u with arrivals := u.arrivals + 1 } : State) z fun x =>
    { x with queue := insertClaim cl x.queue }
  have stake (x : ZoneDyn) : ({ x with queue := insertClaim cl x.queue } : ZoneDyn).stake c =
      (cl.crane == c).toNat + x.stake c := by
    simp only [ZoneDyn.stake, length_claims_insertClaim]
    omega
  simp only [stake] at edit
  rw [heq, hs, ← State.countOf_of_zones (s := u) (t := { u with arrivals := u.arrivals + 1 }) rfl]
  omega

/-! ### Claims that stay placed -/

theorem ZoneDyn.placed_remark {c d : CraneId} {x : ZoneDyn} (h : x.placed c) :
    ({ x with queue := x.queue.map fun cl => if cl.crane == d then { cl with booked := true } else cl } :
      ZoneDyn).placed c := by
  rcases h with h | ⟨cl, hf, hb⟩
  · exact .inl h
  · refine .inr ⟨_, (find?_booked c d x.queue).trans (congrArg _ hf), ?_⟩
    simp only
    split
    · rfl
    · exact hb

/-- Arming and starting take no booked claim and no holding away, openings apart. -/
theorem placedKept_arm (c : CraneId) : ArmMoves (PlacedKept c) where
  toLevelMoves := placedKept_level c
  bookingEvent _ := placedKept_of_zones rfl
  booking _ _ _ := placedKept_of_zones rfl
  remark s z _ := placedKept_editZone s z _ ZoneDyn.placed_remark
  place s z d _ hn := placedKept_place c d s z hn

theorem placedKept_openZone (c : CraneId) (id : Nat) (z : ZoneId) (s : State) :
    PlacedKept c s (s.openZone id z) := by
  have opens : PlacedKept c s (s.openFor id z) := placedKept_editZone s z _ fun h => by
    rcases h with ⟨x, hx, hc⟩ | h
    · exact .inl ⟨x, by simp only [hx], hc⟩
    · exact .inr h
  have moves := placedKept_level c
  unfold State.openZone
  simp only
  split
  · exact moves.trans opens (moves.toCascadeMoves.evaluate z _)
  · exact moves.trans opens (moves.toCascadeMoves.evaluate z _)
  · exact opens
  · exact opens

/-! ### One placement (R49) -/

/-- What R49 asks for a booked placement, the claim limit apart: a footprint, and on an EXCLUDED zone a
booking of the crane that opens it. -/
def State.admits (c : CraneId) (z : ZoneId) (s : State) : Prop :=
  s.footprint z c ≠ none ∧ ((s.record z).kind = .shared ∨
    ∃ b ∈ s.bookings, b.crane = c ∧ b.opens = true ∧ z ∈ b.zones ∧ b.state.counts = true)

theorem State.admits_congr {c : CraneId} {z : ZoneId} {s t : State} (ha : t.active = s.active)
    (hb : t.bookings = s.bookings) : t.admits c z ↔ s.admits c z := by
  simp only [State.admits, State.footprint, State.record, ha, hb]

/-- A placement in its cases, where R49 admits it and the claim limit leaves room (R49, R46). -/
theorem State.placeBooked_of_admits {c : CraneId} {z : ZoneId} {s : State} (ha : s.admits c z)
    (hn : s.countOf c < 24) :
    s.placeBooked c z =
      if s.heldBy z c then (true, s.relevel c z)
      else if s.hasClaim z c then
        (true, (s.editZone z fun d =>
          { d with queue := d.queue.map fun cl =>
              if cl.crane == c then { cl with booked := true } else cl }).relevel c z)
      else (true, ((s.place z c true false).evaluate z).examine z) := by
  obtain ⟨hfoot, hkind⟩ := ha
  have kind : ((s.record z).kind == .excluded && !s.admitted c z) = false := by
    rcases hkind with h | ⟨b, hb, hc, ho, hz, hs⟩
    · simp [h]
    · have : s.admitted c z = true := by
        simp only [State.admitted, Bool.or_eq_true, List.any_eq_true]
        exact .inr ⟨b, hb, by simp [hc, ho, hz, hs]⟩
      simp [this]
  unfold State.placeBooked
  simp only [Option.isNone_iff_eq_none, hfoot, kind, Nat.not_le.2 hn, if_false, Bool.false_eq_true]

/-- A placement counts at most one claim more for its crane (R46). -/
theorem State.placeBooked_count (c : CraneId) (z : ZoneId) (s : State) :
    (s.placeBooked c z).2.countOf c ≤ s.countOf c + 1 := by
  have falls := countFalls_level c
  have moves {t : State} (h : CountFalls c s t) : t.countOf c ≤ s.countOf c + 1 :=
    Nat.le_succ_of_le h
  unfold State.placeBooked
  split
  · exact Nat.le_succ _
  split
  · exact Nat.le_succ _
  split
  · exact moves (falls.relevel c z s)
  split
  · exact moves (falls.trans (countFalls_editZone s z _ (ZoneDyn.stake_remark c c _).le) (falls.relevel c z _))
  split
  · exact Nat.le_succ _
  · have h1 := falls.trans (falls.toCascadeMoves.evaluate z (s.place z c true false))
      (falls.toCascadeMoves.examine z _)
    have h2 := State.countOf_place s z c c true false
    rw [beq_self_eq_true, Bool.toNat_true] at h2
    exact h2 ▸ h1

/-- A placement that R49 admits leaves the crane with the zone or with a booked claim on it. -/
theorem State.placeBooked_placed {c : CraneId} {z : ZoneId} {s : State} (ha : s.admits c z)
    (hn : s.countOf c < 24) : ((s.placeBooked c z).2.zone z).placed c := by
  have kept := placedKept_level c
  rw [State.placeBooked_of_admits ha hn]
  split
  · next hh => exact kept.relevel c z s z (.inl (State.heldBy_iff.1 hh))
  split
  · next hc =>
    obtain ⟨cl, hcl⟩ := Option.isSome_iff_exists.1 hc
    refine kept.relevel c z _ z (.inr ⟨{ cl with booked := true }, ?_, rfl⟩)
    rw [State.editZone_zone_same]
    refine (find?_booked c c _).trans ((congrArg _ hcl).trans (congrArg some (if_pos ?_)))
    simpa using (State.claimOf_some hcl).2
  · next hc =>
    refine kept.trans (kept.toCascadeMoves.evaluate z _) (kept.toCascadeMoves.examine z _) z ?_
    have none := State.hasClaim_eq_false.1 (Bool.not_eq_true _ ▸ hc)
    obtain ⟨u, cl, hu, hcrane, hbooked, -, -, heq⟩ := State.place_eq s z c true false
    have none' : ∀ x ∈ (u.zone z).queue, x.crane ≠ cl.crane := by
      rw [hcrane]
      rcases hu with rfl | rfl
      · exact none
      · simp only [State.renumbered, State.zone, Table.entry_mapAll]
        intro x hx
        obtain ⟨y, hy, rfl⟩ := List.mem_map.1 hx
        exact none y hy
    rw [heq, State.editZone_zone_same]
    refine .inr ⟨cl, ?_, hbooked⟩
    have := find?_insertClaim_self none'
    rwa [hcrane] at this

/-! ### The listed placements (R150 stage 2) -/

theorem State.placeListed_zones (id : Nat) (c : CraneId) (z : ZoneId) (s : State) :
    (s.placeListed id c z).zones = (s.placeBooked c z).2.zones := by
  unfold State.placeListed
  split
  · next u hu => rw [hu]
  · next u hu => rw [hu]; rfl

/-- The active records stand. -/
def RecordsStand (s t : State) : Prop := t.active = s.active

theorem recordsStand_of_handOffs {s t : State} (h : HandOffs s t) : RecordsStand s t := h.active

/-- Arming and starting leave the geometry alone. -/
theorem recordsStand_arm : ArmMoves RecordsStand where
  refl _ := rfl
  trans h k := Eq.trans k h
  chosen _ := rfl
  post s c n := recordsStand_of_handOffs (handOffs_cascade.post s c n)
  trip _ := rfl
  silence _ := rfl
  grant _ _ _ _ _ := rfl
  demand _ _ _ _ _ := rfl
  figures _ _ _ _ _ _ := rfl
  judge s c := recordsStand_of_handOffs (handOffs_cascade.judge s c)
  latchKeep _ _ _ _ _ _ _ _ := rfl
  latchHalt _ _ _ _ _ _ _ := rfl
  reclaim _ _ _ _ _ _ := rfl
  regrant _ _ _ _ _ := rfl
  suspend _ _ _ _ := rfl
  bookingEvent _ := rfl
  booking _ _ _ := rfl
  remark _ _ _ := rfl
  place s z c _ _ := by
    obtain ⟨zs, n, h⟩ := RequestMoves.place_rest s z c true false
    rw [h]
    rfl

/-- A listed placement takes no booking's openings away. -/
theorem State.placeListed_admits {id : Nat} {c d : CraneId} {z y : ZoneId} {s : State} (h : s.admits d y) :
    (s.placeListed id c z).admits d y := by
  have active : (s.placeBooked c z).2.active = s.active := recordsStand_arm.placeBooked c z s
  have stands := bookingsStand_zone.placeBooked c z s
  have h2 := (State.admits_congr active stands.bookings).2 h
  unfold State.placeListed
  split
  · next u hu => rwa [hu] at h2
  · next u hu =>
    rw [hu] at h2
    refine ⟨h2.1, h2.2.imp_right fun ⟨b, hb, hc⟩ => ?_⟩
    refine ⟨_, List.mem_map.2 ⟨b, hb, rfl⟩, ?_⟩
    split <;> exact hc

/-- The listed placements leave the crane with each admitted zone or a booked claim on it, where the claim
limit leaves room for all of them (R49, R46). -/
theorem State.each_placeListed_placed {id : Nat} {c : CraneId} {zs : List ZoneId} {s : State}
    (hn : s.countOf c + zs.length ≤ 24) {z : ZoneId} (hz : z ∈ zs) (ha : s.admits c z) :
    ((s.each zs (State.placeListed id c)).zone z).placed c := by
  induction zs generalizing s with
  | nil => cases hz
  | cons y ys ih =>
    rw [List.length_cons] at hn
    have room : (s.placeListed id c y).countOf c + ys.length ≤ 24 := by
      have := State.placeBooked_count c y s
      rw [State.countOf_of_zones (State.placeListed_zones id c y s)]
      omega
    have rest : PlacedKept c (s.placeListed id c y) ((s.placeListed id c y).each ys (State.placeListed id c)) :=
      (placedKept_arm c).toCascadeMoves.each _ _ (fun z _ s => (placedKept_arm c).placeListed id c z s) _
    by_cases hy : z ∈ ys
    · exact ih room hy (State.placeListed_admits ha)
    · have hzy := (List.mem_cons.1 hz).resolve_right hy
      subst hzy
      refine rest z ?_
      rw [State.zone_of_zones (State.placeListed_zones id c z s)]
      exact State.placeBooked_placed ha (by omega)

/-! ### Arming and starting in one equation each -/

/-- An arming leaves its crane with every listed zone it is admitted to, or a booked claim on it (R49,
R150). -/
theorem State.armBooking_placed {s : State} {id : Nat} {b : Booking} (cause : BookingCause)
    (hb : s.bookingById id = some b) (hn : s.countOf b.crane + b.zones.length ≤ 24) {z : ZoneId}
    (hz : z ∈ b.zones) (hfoot : s.footprint z b.crane ≠ none)
    (hkind : (s.record z).kind = .shared ∨ b.opens = true) :
    ((s.armBooking id cause).zone z).placed b.crane := by
  have kept := placedKept_arm b.crane
  unfold State.armBooking
  rw [hb]
  simp only
  refine kept.trans (kept.toLevelMoves.relevelAll b.crane b.zones _)
    (LevelMoves.postBooking kept.toCascadeMoves id .booked cause _) z
    (State.each_placeListed_placed (s := s.editBooking id _) hn hz ⟨hfoot, hkind.imp_right fun ho => ?_⟩)
  refine ⟨{ b with state := .armed, short := false, notPlaced := 0 }, List.mem_map.2 ⟨b, ?_, ?_⟩, rfl, ho, hz, rfl⟩
  · exact List.mem_of_find?_eq_some hb
  · exact if_pos (List.find?_some hb)

/-- A start takes no booked claim and no holding away. -/
theorem State.startBooking_placed {s : State} {id : Nat} {b : Booking} (left : Nat) (cause : BookingCause)
    (hb : s.bookingById id = some b) (c : CraneId) : PlacedKept c s (s.startBooking id left cause) := by
  have kept := placedKept_arm c
  obtain ⟨u, before, after⟩ := State.startBooking_eq left cause hb
  refine kept.trans (before _ kept) (kept.trans ?_ (after _ kept))
  split
  · exact kept.toCascadeMoves.eachOpen _ _ _ (fun z _ s => placedKept_openZone c id z s) _
  · exact kept.refl _

end Sys2Proof.Machine

/-! ## A booking taken (R144 to R147)

The slot, the id and the entry of a taken BOOK (`State.addBooking_eq`, `State.freeId_eq`), and what the
judgement of a BOOKED booking does to zones and claims (`State.jumpBooking_opens`,
`State.jumpBooking_placed`). -/

namespace Sys2Proof.Machine

/-! ### The id (R144) -/

/-- The first free id from the next-id counter on; behind 255 ids the ids repeat. -/
theorem State.freeId_eq {s : State} {d id : Nat} (hn : 1 ≤ s.nextId)
    (hid : id = (s.nextId + d - 1) % 255 + 1) (hfree : ∀ o ∈ s.bookings, o.id ≠ id)
    (hfirst : ∀ e, e < d → ∃ o ∈ s.bookings, o.id = (s.nextId + e - 1) % 255 + 1) : s.freeId = id := by
  have hd : d < 255 := by
    refine Nat.lt_of_not_le fun h => ?_
    obtain ⟨o, ho, he⟩ := hfirst (d - 255) (by omega)
    exact hfree o ho (he.trans (by omega))
  have found : (List.range 255).find? ((fun n => !(s.bookings.any (·.id == n))) ∘
      fun k => (s.nextId + k - 1) % 255 + 1) = some d := by
    refine List.find?_range_eq_some.2 ⟨?_, List.mem_range.2 hd, fun e he => ?_⟩
    · simpa [← hid] using hfree
    · obtain ⟨o, ho, heq⟩ := hfirst e he
      simpa using ⟨o, ho, heq⟩
  rw [State.freeId, List.find?_map, found, hid]
  rfl

/-! ### The slot (R144) -/

/-- The terminal entry with the lowest terminal order. -/
theorem State.oldestTerminal_eq {s : State} {v : Booking} (hv : v ∈ s.bookings) (ht : v.state.terminal = true)
    (hmin : ∀ o ∈ s.bookings, o.state.terminal = true → o = v ∨ v.terminalOrder < o.terminalOrder) :
    s.oldestTerminal = some v := by
  have mem (o : Booking) := List.mem_insertionSort (fun a b : Booking => a.terminalOrder ≤ b.terminalOrder)
    (l := s.bookings.filter (·.state.terminal)) (x := o)
  have total : Std.Total fun a b : Booking => a.terminalOrder ≤ b.terminalOrder :=
    ⟨fun a b => Nat.le_total _ _⟩
  have transitive : IsTrans Booking fun a b => a.terminalOrder ≤ b.terminalOrder :=
    ⟨fun _ _ _ => Nat.le_trans⟩
  have sorted := List.pairwise_insertionSort (fun a b : Booking => a.terminalOrder ≤ b.terminalOrder)
    (s.bookings.filter (·.state.terminal))
  unfold State.oldestTerminal
  have hmem := (mem v).2 (List.mem_filter.2 ⟨hv, ht⟩)
  cases hl : (s.bookings.filter (·.state.terminal)).insertionSort fun a b => a.terminalOrder ≤ b.terminalOrder with
  | nil => rw [hl] at hmem; cases hmem
  | cons x xs =>
    rw [hl] at hmem sorted
    obtain ⟨hx, hterm⟩ := List.mem_filter.1 ((mem x).1 (by rw [hl]; exact List.mem_cons_self))
    rcases hmin x hx hterm with rfl | hlt
    · rfl
    · rcases List.mem_cons.1 hmem with rfl | hxs
      · rfl
      · exact absurd (List.rel_of_pairwise_cons sorted hxs) (by omega)

/-- `kept` is the table with a slot made free: the table itself while it has an empty one, else without the
terminal entry of the lowest terminal order (R144). -/
def State.slotLeaves (s : State) (kept : List Booking) : Prop :=
  (s.bookings.length < 32 ∧ kept = s.bookings) ∨
    (32 ≤ s.bookings.length ∧ ∃ v ∈ s.bookings, v.state.terminal = true ∧
      (∀ o ∈ s.bookings, o.state.terminal = true → o = v ∨ v.terminalOrder < o.terminalOrder) ∧
      kept = s.bookings.filter (·.id != v.id))

theorem State.slotLeaves.hasSlot {s : State} {kept : List Booking} (h : s.slotLeaves kept) :
    s.hasSlot = true := by
  rcases h with ⟨hl, -⟩ | ⟨-, v, hv, ht, hmin, -⟩
  · simp [State.hasSlot, hl]
  · simp [State.hasSlot, State.oldestTerminal_eq hv ht hmin]

theorem State.slotLeaves.subset {s : State} {kept : List Booking} (h : s.slotLeaves kept) :
    kept ⊆ s.bookings := by
  rcases h with ⟨-, rfl⟩ | ⟨-, v, -, -, -, rfl⟩
  · exact List.Subset.refl _
  · exact (List.filter_sublist).subset

theorem State.slotLeaves.makeSlot {s : State} {kept : List Booking} (h : s.slotLeaves kept) :
    s.makeSlot = { s with bookings := kept } := by
  rcases h with ⟨hl, rfl⟩ | ⟨hl, v, hv, ht, hmin, rfl⟩
  · exact if_pos hl
  · refine (if_neg (Nat.not_lt.2 hl)).trans ?_
    rw [State.oldestTerminal_eq hv ht hmin]

/-- A new entry in its slot (R144). -/
theorem State.addBooking_eq {s : State} {kept : List Booking} (h : s.slotLeaves kept) {entry : Booking}
    (hid : entry.id ≤ 255) :
    s.addBooking entry =
      { s with bookings := kept ++ [entry], nextId := if entry.id = 255 then 1 else entry.id + 1 } := by
  have next : idAfter entry.id = if entry.id = 255 then 1 else entry.id + 1 := by
    unfold idAfter
    split <;> split <;> omega
  unfold State.addBooking
  rw [h.makeSlot, next]

/-- An entry with a fresh id is found behind the others. -/
theorem find?_append_fresh {kept : List Booking} {entry : Booking} (h : ∀ o ∈ kept, o.id ≠ entry.id) :
    (kept ++ [entry]).find? (·.id == entry.id) = some entry := by
  rw [List.find?_append, List.find?_eq_none.2 (by simpa using h)]
  simp

/-- An edit of a fresh id touches the new entry alone. -/
theorem map_edit_append_fresh {kept : List Booking} {entry : Booking} (h : ∀ o ∈ kept, o.id ≠ entry.id)
    (f : Booking → Booking) :
    (kept ++ [entry]).map (fun b => if b.id == entry.id then f b else b) = kept ++ [f entry] := by
  have kept' : kept.map (fun b => if b.id == entry.id then f b else b) = kept :=
    (List.map_congr_left fun o ho => if_neg (by simpa using h o ho)).trans (List.map_id' kept)
  rw [List.map_append, kept']
  simp

/-! ### Zones and claims at the judgement of a BOOKED booking (R158) -/

/-- What the start of a booking does to a zone: openings alone (R8, R151). -/
theorem State.startBooking_zone {s : State} {id : Nat} {b : Booking} (left : Nat) (cause : BookingCause)
    (hb : s.bookingById id = some b) (z : ZoneId) :
    let opened := b.opens = true ∧ z ∈ b.zones ∧ (s.record z).kind = .excluded
    let t := s.startBooking id left cause
    (s.zone z).OpensFor id (t.zone z) ∧ (opened → (t.zone z).openedFor = some id ∧ (t.zone z).state ≠ .closed) ∧
      (¬opened → (t.zone z).openedFor = (s.zone z).openedFor) := by
  intro opened t
  obtain ⟨u, before, after⟩ := State.startBooking_eq left cause hb
  have hsu := before _ zonesStand_arm z
  have excluded : z ∈ u.excludedAmong b.zones ↔ z ∈ b.zones ∧ (s.record z).kind = .excluded := by
    have active : u.active = s.active := before _ recordsStand_arm
    simp [State.excludedAmong, State.record, active]
  obtain ⟨h1, h2, h3⟩ := State.eachOpen_openZone_zone id (u.excludedAmong b.zones) z u
  have last := after _ zonesStand_arm z
  by_cases ho : b.opens = true
  · rw [if_pos ho] at last
    refine ⟨((hsu.opensFor id).trans h1).trans (last.opensFor id), fun h => ?_, fun h => ?_⟩
    · obtain ⟨hopen, hclosed⟩ := h2 (excluded.2 h.2)
      exact ⟨last.openedFor.trans hopen, mt last.closed.1 hclosed⟩
    · exact last.openedFor.trans ((h3 fun hz => h ⟨ho, excluded.1 hz⟩).trans hsu.openedFor)
  · rw [if_neg ho] at last
    exact ⟨(hsu.trans last).opensFor id, fun h => absurd h.1 ho, fun _ => last.openedFor.trans hsu.openedFor⟩

/-- The two steps of the judgement of a BOOKED booking: it is armed in its window or its arm window, and
started in its window (R158). -/
theorem State.jumpBooking_booked {s : State} {id : Nat} {b : Booking} (cause : BookingCause) (w m : Nat)
    (hb : s.bookingById id = some b) (hs : b.state = .booked) :
    (b.spans w m ∧ s.jumpBooking cause w m id =
        (s.armBooking id cause).startBooking id (b.start + b.duration - m) cause) ∨
      (¬b.spans w m ∧ b.awaits s.leadTime w m ∧ s.jumpBooking cause w m id = s.armBooking id cause) ∨
      (¬b.spans w m ∧ ¬b.awaits s.leadTime w m ∧ s.jumpBooking cause w m id = s) := by
  unfold State.jumpBooking
  simp only [hb, hs]
  by_cases hw : b.spans w m
  · exact .inl ⟨hw, if_pos (Booking.inWindow_iff.2 hw)⟩
  · refine .inr ?_
    rw [if_neg (mt Booking.inWindow_iff.1 hw)]
    by_cases ha : b.awaits s.leadTime w m
    · exact .inl ⟨hw, ha, if_pos (Booking.inArmWindow_iff.2 ha)⟩
    · exact .inr ⟨hw, ha, if_neg (mt Booking.inArmWindow_iff.1 ha)⟩

/-- What the judgement of a BOOKED booking does to a zone: the openings of its start (R8, R158). -/
theorem State.jumpBooking_opens {s : State} {id : Nat} {b : Booking} (cause : BookingCause) (w m : Nat)
    (hb : s.bookingById id = some b) (hs : b.state = .booked) (z : ZoneId) :
    let opened := b.spans w m ∧ b.opens = true ∧ z ∈ b.zones ∧ (s.record z).kind = .excluded
    let t := s.jumpBooking cause w m id
    (s.zone z).OpensFor id (t.zone z) ∧ (opened → (t.zone z).openedFor = some id ∧ (t.zone z).state ≠ .closed) ∧
      (¬opened → (t.zone z).openedFor = (s.zone z).openedFor) := by
  intro opened t
  have arm := zonesStand_arm.armBooking id cause s z
  rcases State.jumpBooking_booked cause w m hb hs with ⟨hw, ht⟩ | ⟨hw, -, ht⟩ | ⟨hw, -, ht⟩
  · obtain ⟨n, -, hbs, -, -⟩ := State.armBooking_bookings cause hb
    have hfound : (s.armBooking id cause).bookingById id = some (b.armedWith n) :=
      State.bookingById_of_edit hbs (fun _ => rfl) hb
    obtain ⟨h1, h2, h3⟩ := State.startBooking_zone (b.start + b.duration - m) cause hfound z
    have kind : ((s.armBooking id cause).record z).kind = (s.record z).kind := by
      have active : (s.armBooking id cause).active = s.active := recordsStand_arm.armBooking id cause s
      simp only [State.record, active]
    simp only [kind, ← ht] at h1 h2 h3
    exact ⟨(arm.opensFor id).trans h1, fun h => h2 h.2,
      fun h => (h3 fun hz => h ⟨hw, hz⟩).trans arm.openedFor⟩
  · simp only [← ht] at arm
    exact ⟨arm.opensFor id, fun h => absurd h.1 hw, fun _ => arm.openedFor⟩
  · have same : ZoneDyn.Stands (s.zone z) (t.zone z) := by
      simp only [t, ht]
      exact .refl _
    exact ⟨same.opensFor id, fun h => absurd h.1 hw, fun _ => same.openedFor⟩

/-- A BOOKED booking that its judgement arms leaves its crane with every listed zone it is admitted to, or a
booked claim on it (R49, R158). -/
theorem State.jumpBooking_placed {s : State} {id : Nat} {b : Booking} (cause : BookingCause) {w m : Nat}
    (hb : s.bookingById id = some b) (hs : b.state = .booked) (hw : b.spans w m ∨ b.awaits s.leadTime w m)
    (hn : s.countOf b.crane + b.zones.length ≤ 24) {z : ZoneId} (hz : z ∈ b.zones)
    (hfoot : s.footprint z b.crane ≠ none) (hkind : (s.record z).kind = .shared ∨ b.opens = true) :
    ((s.jumpBooking cause w m id).zone z).placed b.crane := by
  have arm := State.armBooking_placed cause hb hn hz hfoot hkind
  rcases State.jumpBooking_booked cause w m hb hs with ⟨-, ht⟩ | ⟨-, -, ht⟩ | ⟨h1, h2, -⟩
  · obtain ⟨n, -, hbs, -, -⟩ := State.armBooking_bookings cause hb
    have hfound : (s.armBooking id cause).bookingById id = some (b.armedWith n) :=
      State.bookingById_of_edit hbs (fun _ => rfl) hb
    rw [ht]
    exact State.startBooking_placed _ cause hfound b.crane z arm
  · rwa [ht]
  · exact absurd hw (by simp [h1, h2])

/-- A booking that its judgement leaves in another state than BOOKED is in its window or its arm window. -/
theorem BookingJumped.judged {lead w m : Nat} {x : Wind} {e : Bool} {b b' : Booking}
    (h : BookingJumped lead w m x e b b') (hs : b.state = .booked) (hs' : b'.state ≠ .booked) :
    b.spans w m ∨ b.awaits lead w m := by
  by_contra hc
  obtain ⟨h1, h2⟩ := not_or.1 hc
  rw [h.waits hs h1 h2] at hs'
  exact hs' hs

/-- The entry of a taken BOOK at its judgement: what is shown of the state after it (R147, R158). -/
theorem State.admitted_outcome {s : State} {kept : List Booking} {entry : Booking} (w m : Nat)
    (hbook : s.bookings = kept ++ [entry]) (hfresh : ∀ o ∈ kept, o.id ≠ entry.id)
    (hs : entry.state = .booked) (hfoot : ∀ z ∈ entry.zones, s.footprint z entry.crane ≠ none) :
    let t := s.jumpBooking .admission w m entry.id
    ∃ e, t.bookingById entry.id = some e ∧ t.bookings = kept ++ [e] ∧ t.nextId = s.nextId ∧
      t.terminals = s.terminals ∧
      BookingJumped s.leadTime w m (s.wind entry.crane) (t.event .booking) entry e ∧
      (e.state ≠ .booked → s.countOf entry.crane + entry.zones.length ≤ 24 →
        ∀ z ∈ entry.zones, (s.record z).kind = .shared ∨ entry.opens = true →
          t.heldBy z entry.crane = true ∨ ∃ cl, t.claimOf z entry.crane = some cl ∧ cl.booked = true) := by
  intro t
  have hfound : s.bookingById entry.id = some entry := by
    rw [State.bookingById, hbook]
    exact find?_append_fresh hfresh
  obtain ⟨f, hf, stands, jumped⟩ := State.jumpBooking_judged .admission w m hfound hs
  have table : t.bookings = kept ++ [f entry] := by
    rw [stands.bookings, State.editBooking_bookings, hbook]
    exact map_edit_append_fresh hfresh f
  refine ⟨f entry, ?_, table, stands.nextId, stands.terminals, jumped, fun he hn z hz hkind => ?_⟩
  · have := find?_append_fresh (kept := kept) (entry := f entry) (by rwa [hf.id_eq])
    rw [hf.id_eq] at this
    rwa [State.bookingById, table]
  · rcases State.jumpBooking_placed .admission hfound hs (jumped.judged hs he) hn hz (hfoot z hz) hkind with h | h
    · exact .inl (State.heldBy_iff.2 h)
    · exact .inr h

end Sys2Proof.Machine

namespace Sys2Proof.Proofs

open Sys2Proof.Machine

/-- A BOOK that none of R145 refuses is entered, and answered with its id and state. -/
theorem serveBook_taken {body : List Byte} {f : BookFields} {p : Permit} {s t : State} {kept : List Booking}
    {id : Nat} {e : Booking} (hf : bookOf body = some f) (hp : s.permit f.crane = some p)
    (h1 : 1 ≤ f.duration) (h2 : f.duration ≤ 240) (h3 : f.start + f.duration ≤ 1440)
    (hfoot : ∀ z ∈ f.zones, s.footprint z f.crane ≠ none)
    (hfit : ∀ o ∈ s.bookings, o.state.terminal = true ∨
      (o.crane ≠ f.crane ∧ ∀ z ∈ f.zones, z ∉ o.zones) ∨
      (∃ d e, o.weekday = some d ∧ f.weekday = some e ∧ d ≠ e) ∨
      o.start + o.duration ≤ f.start ∨ f.start + f.duration ≤ o.start) (hslot : s.slotLeaves kept)
    (entered : s.enterBooking (f.booking p.config.stop) = (id, t)) (found : t.bookingById id = some e) :
    serveBook body s = ({ result := .ok, body := byte id ++ byte e.state.code }, t) := by
  have stop : s.stopThreshold f.crane = p.config.stop := by simp [State.stopThreshold, hp]
  have window : ¬(f.duration < 1 ∨ 240 < f.duration ∨ 1440 < f.start + f.duration) := by omega
  have feet : (f.zones.any fun z => (s.footprint z f.crane).isNone) = false := by
    simpa [List.any_eq_false, Option.isNone_iff_eq_none] using hfoot
  have fits : (s.bookings.any fun x => !x.state.terminal && (f.booking p.config.stop).conflicts x) = false := by
    rw [List.any_eq_false]
    intro o ho
    rcases hfit o ho with h | ⟨hc, hz⟩ | ⟨d, e, hd, he, hne⟩ | hdis
    · simp [h]
    · have : (f.crane == o.crane) = false := by simpa using fun e => hc (Eq.symm e)
      have : (f.zones.any o.zones.contains) = false := by simpa [List.any_eq_false] using hz
      simp [Booking.conflicts, BookFields.booking, *]
    · have : (f.booking p.config.stop).sharesDay o = false := by
        simpa [Booking.sharesDay, BookFields.booking, hd, he] using fun h => hne (Eq.symm h)
      simp [Booking.conflicts, this]
    · have : (f.booking p.config.stop).overlaps o = false := by
        refine Bool.eq_false_iff.2 fun h => ?_
        simp only [Booking.overlaps, Bool.and_eq_true, decide_eq_true_eq] at h
        have : f.start < o.start + o.duration ∧ o.start < f.start + f.duration := h
        omega
      simp [Booking.conflicts, this]
  unfold serveBook
  simp only [hf, stop, Option.isNone_iff_eq_none, hp, reduceCtorEq, window, feet, fits, hslot.hasSlot,
    entered, found, not_true_eq_false, if_false, Bool.false_eq_true]

/-- Settles O36: `State.addBooking_eq` for the slot, and `State.admitted_outcome` with
`State.jumpBooking_opens` for the judgement. -/
theorem bookTaken : Obligations.BookTaken := by
  intro tag b s f p id kept hr hb hf hp hd1 hd2 hd3 hfoot hfit hslot hn1 hn2 hid entry add
  obtain ⟨d, hid, hfresh, hfirst⟩ := hid
  have hid255 : id ≤ 255 := by omega
  have slot : (s.underway .planner).slotLeaves kept := hslot
  have fresh : ∀ o ∈ kept, o.id ≠ entry.id := fun o ho => hfresh o (slot.subset ho)
  have free : (s.underway .planner).freeId = id :=
    State.freeId_eq (s := s.underway .planner) hn1 hid hfresh hfirst
  have added : (s.underway .planner).addBooking entry = add (s.underway .planner) :=
    State.addBooking_eq slot hid255
  have found : (add (s.underway .planner)).bookingById id = some entry := find?_append_fresh fresh
  have enter : (s.underway .planner).enterBooking (f.booking p.config.stop) =
      match s.clock.mode with
      | .invalid => (id, add (s.underway .planner))
      | .running | .held =>
        (id, (add (s.underway .planner)).jumpBooking .admission s.clock.weekday s.clock.minute id) := by
    unfold State.enterBooking
    simp only [free]
    rw [show ({ f.booking p.config.stop with
      id := id, state := .booked, remaining := 0, short := false, notPlaced := 0,
      terminalOrder := 0 } : Booking) = entry from rfl, added]
    rfl
  refine ⟨fun hinv => ?_, fun hinv => ?_⟩
  · rw [hinv] at enter
    exact takenAs_planner .book rfl hr hb (serveBook_taken (s := s.underway .planner) hf hp hd1 hd2 hd3 hfoot
      hfit slot enter found) rfl (fun _ _ => rfl) rfl
  · obtain ⟨e, hfound, table, next, terminals, jumped, placed⟩ :=
      State.admitted_outcome (s := add (s.underway .planner)) (entry := entry) s.clock.weekday s.clock.minute
        rfl fresh rfl hfoot
    have opens := State.jumpBooking_opens (s := add (s.underway .planner)) (b := entry) .admission
      s.clock.weekday s.clock.minute found rfl
    have judged : (s.underway .planner).enterBooking (f.booking p.config.stop) =
        (id, (add (s.underway .planner)).jumpBooking .admission s.clock.weekday s.clock.minute id) := by
      rw [enter]
      cases hm : s.clock.mode with
      | invalid => exact absurd hm hinv
      | running => rfl
      | held => rfl
    have frame := calendarFrame_site.jumpBooking .admission s.clock.weekday s.clock.minute id
      (add (s.underway .planner))
    generalize hv : (add (s.underway .planner)).jumpBooking .admission s.clock.weekday s.clock.minute id = v at *
    have hfound' : v.bookingById id = some e := hfound
    refine ⟨_, e, servedAs_planner .book rfl hr hb (serveBook_taken (s := s.underway .planner) hf hp hd1 hd2
      hd3 hfoot hfit slot judged hfound') rfl frame, ?_⟩
    generalize hw : v.answeredWith .planner _ = w
    have reads : w.bookings = v.bookings ∧ w.nextId = v.nextId ∧ w.terminals = v.terminals ∧
        w.event .booking = v.event .booking ∧ ∀ z, w.zone z = v.zone z := by
      subst hw
      exact ⟨State.editLink_bookings _ _ _, State.editLink_nextId _ _ _, State.editLink_terminals _ _ _,
        State.editLink_event _ _ _ _, State.editLink_zone _ _ _⟩
    obtain ⟨rbookings, rnext, rterminals, revent, rzone⟩ := reads
    simp only [State.bookingById, State.claimOf, State.heldBy_iff, rbookings, rnext, rterminals, revent, rzone]
    refine ⟨hfound', table, next, terminals, jumped, fun he hn z hz hkind => ?_, fun z => ?_⟩
    · exact (placed he hn z hz hkind).imp_left State.heldBy_iff.1
    · obtain ⟨h1, h2, h3⟩ := opens z
      exact ⟨h2, h3, fun h hh => h1.held h (State.holding_eq_some.1 hh), h1.handover⟩

end Sys2Proof.Proofs

/-! ## Zones through the end of a booking (R9, R48, R58, R153)

Withdrawing claims, recomputing levels and closing zones each act on one zone (`State.each_local`): they
leave its state as the equations below say, the yield demand apart (`ZoneDyn.sans`). -/

namespace Sys2Proof.Machine

/-! ### A zone apart from its demand -/

/-- A zone's state without the yield demand of its holding. -/
def ZoneState.sans : ZoneState → ZoneState
  | .held h => .held { h with demand := none }
  | .free => .free
  | .closed => .closed
  | .handover left => .handover left

/-- A zone without the yield demand of its holding. -/
def ZoneDyn.sans (d : ZoneDyn) : ZoneDyn := { d with state := d.state.sans }

theorem ZoneState.sans_held {x : ZoneState} {h : Holding} (hx : x.sans = .held h) :
    ∃ d, x = .held { h with demand := d } := by
  cases x with
  | held w => cases hx; exact ⟨w.demand, rfl⟩
  | _ => cases hx

theorem ZoneState.sans_eq_free {x : ZoneState} : x.sans = .free ↔ x = .free := by
  cases x <;> simp [ZoneState.sans]

theorem ZoneState.sans_eq_closed {x : ZoneState} : x.sans = .closed ↔ x = .closed := by
  cases x <;> simp [ZoneState.sans]

theorem ZoneDyn.sans_state {a b : ZoneDyn} (h : a.sans = b.sans) : a.state.sans = b.state.sans :=
  show a.sans.state = b.sans.state from congrArg _ h

/-! ### Operations on one zone -/

/-- The booking table and the permits stand. -/
structure TableStands (s t : State) : Prop where
  bookings : t.bookings = s.bookings
  permits : t.permits = s.permits

theorem TableStands.refl (s : State) : TableStands s s := ⟨rfl, rfl⟩

theorem TableStands.trans {s t u : State} (h : TableStands s t) (k : TableStands t u) : TableStands s u :=
  ⟨k.1.trans h.1, k.2.trans h.2⟩

theorem TableStands.post (s : State) (c : CraneId) (n : Notice) : TableStands s (s.post c n) :=
  ⟨State.post_bookings s c n, State.post_permits s c n⟩

/-- The step from `s` to `t` acts on zone `z` alone, with the effect `G`, and leaves bookings and permits. -/
structure ActsOn (z : ZoneId) (G : ZoneDyn → ZoneDyn → Prop) (s t : State) : Prop where
  table : TableStands s t
  here : G (s.zone z) (t.zone z)
  other : ∀ y, y ≠ z → t.zone y = s.zone y

/-- One action after the other over zones: each listed zone shows the effect, and no other is touched. -/
theorem State.each_local {P : State → Prop} {G : ZoneId → ZoneDyn → ZoneDyn → Prop}
    {f : ZoneId → State → State} (hG : ∀ z a b c, G z a b → G z b c → G z a c)
    (hf : ∀ z s, P s → ActsOn z (G z) s (f z s)) (hP : ∀ z s, P s → P (f z s)) (zs : List ZoneId)
    {s : State} (hs : P s) :
    P (s.each zs f) ∧ TableStands s (s.each zs f) ∧
      ∀ y, (y ∈ zs → G y (s.zone y) ((s.each zs f).zone y)) ∧ (y ∉ zs → (s.each zs f).zone y = s.zone y) := by
  induction zs generalizing s with
  | nil => exact ⟨hs, .refl s, fun y => ⟨fun h => (by cases h), fun _ => rfl⟩⟩
  | cons z zs ih =>
    have step := hf z s hs
    obtain ⟨h1, h2, h3⟩ := ih (hP z s hs)
    refine ⟨h1, step.table.trans h2, fun y => ?_⟩
    obtain ⟨hin, hout⟩ := h3 y
    rw [List.mem_cons]
    by_cases hz : y = z
    · subst hz
      refine ⟨fun _ => ?_, fun h => absurd (.inl rfl) h⟩
      by_cases hy : y ∈ zs
      · exact hG y _ _ _ step.here (hin hy)
      · exact (hout hy) ▸ step.here
    · rw [step.other y hz] at hin hout
      exact ⟨fun h => hin (h.resolve_left hz), fun h => hout fun hy => h (.inr hy)⟩

theorem State.eachOpen_local {P : State → Prop} {G : ZoneId → ZoneDyn → ZoneDyn → Prop}
    {f : ZoneId → State → State} (hG : ∀ z a b c, G z a b → G z b c → G z a c)
    (hf : ∀ z s, P s → ActsOn z (G z) s (f z s)) (hP : ∀ z s, P s → P (f z s)) (zs : List ZoneId)
    {s : State} (hs : P s.chosen) :
    P (s.eachOpen Fin.val zs f) ∧ TableStands s (s.eachOpen Fin.val zs f) ∧
      ∀ y, (y ∈ zs → G y (s.zone y) ((s.eachOpen Fin.val zs f).zone y)) ∧
        (y ∉ zs → (s.eachOpen Fin.val zs f).zone y = s.zone y) := by
  obtain ⟨h1, h2, h3⟩ := State.each_local hG hf hP (s.arranged Fin.val zs) hs
  simp only [State.mem_arranged, State.chosen_zone] at h3
  exact ⟨h1, ⟨h2.bookings, h2.permits⟩, h3⟩

/-! ### Examination -/

theorem State.setDemand_sans (s : State) (z : ZoneId) {h : Holding} (d : Option Demand)
    (hh : s.holding z = some h) : ((s.setDemand z h d).zone z).sans = (s.zone z).sans := by
  have hst := State.holding_eq_some.1 hh
  simp only [State.setDemand, State.editZone_zone_same, ZoneDyn.sans, hst, ZoneState.sans]

/-- An examination changes the demand of its zone alone (R68). -/
theorem State.examine_acts (z : ZoneId) (s : State) :
    ActsOn z (fun a b => b.sans = a.sans) s (s.examine z) := by
  have other (y : ZoneId) (hy : y ≠ z) := State.examine_zone_other s hy
  suffices h : TableStands s (s.examine z) ∧ ((s.examine z).zone z).sans = (s.zone z).sans from
    ⟨h.1, h.2, other⟩
  unfold State.examine
  split
  · exact ⟨.refl s, rfl⟩
  · next h hh =>
    split
    · exact ⟨.trans (t := s.setDemand z h _) ⟨rfl, rfl⟩ (.post _ _ _),
        (congrArg ZoneDyn.sans (State.post_zone _ _ _ _)).trans (s.setDemand_sans z _ hh)⟩
    · exact ⟨⟨rfl, rfl⟩, s.setDemand_sans z _ hh⟩
    · exact ⟨.trans (t := s.setDemand z h _) ⟨rfl, rfl⟩ (.post _ _ _),
        (congrArg ZoneDyn.sans (State.post_zone _ _ _ _)).trans (s.setDemand_sans z _ hh)⟩
    · exact ⟨.refl s, rfl⟩

/-- An action on a zone that is examined behind it. -/
theorem ActsOn.examine {z : ZoneId} {s t : State} {f : ZoneDyn → ZoneDyn}
    (h : ActsOn z (fun a b => b.sans = (f a).sans) s t) :
    ActsOn z (fun a b => b.sans = (f a).sans) s (t.examine z) := by
  have e := State.examine_acts z t
  exact ⟨h.table.trans e.table, e.here.trans h.here, fun y hy => (e.other y hy).trans (h.other y hy)⟩

theorem ActsOn.editZone (s : State) (z : ZoneId) (f : ZoneDyn → ZoneDyn) :
    ActsOn z (fun a b => b.sans = (f a).sans) s (s.editZone z f) :=
  ⟨⟨rfl, rfl⟩, by rw [State.editZone_zone_same], fun _ hy => State.editZone_zone_other s f hy⟩

/-! ### Claims removed (R58) -/

theorem State.each_post_zone (gone : List Claim) (z : ZoneId) (reason : DropReason) (s : State) (y : ZoneId) :
    (s.each gone fun cl s => s.post cl.crane (.claimDropped z reason)).zone y = s.zone y ∧
      TableStands s (s.each gone fun cl s => s.post cl.crane (.claimDropped z reason)) := by
  induction gone generalizing s with
  | nil => exact ⟨rfl, .refl s⟩
  | cons cl gone ih =>
    obtain ⟨h1, h2⟩ := ih (s.post cl.crane (.claimDropped z reason))
    exact ⟨h1.trans (State.post_zone _ _ _ _), (TableStands.post _ _ _).trans h2⟩

/-- The removal of claims acts on its zone alone: the other claims stay in their order (R58). -/
theorem State.dropClaims_acts (z : ZoneId) (drop : Claim → Bool) (reason : DropReason) (s : State) :
    ActsOn z (fun a b => b.sans = ({ a with queue := a.queue.filter fun cl => !drop cl } : ZoneDyn).sans) s
      (s.dropClaims z drop reason) := by
  unfold State.dropClaims
  simp only
  split
  · next he =>
    refine ⟨.refl s, ?_, fun _ _ => rfl⟩
    have : (s.zone z).queue.filter (fun cl => !drop cl) = (s.zone z).queue := by
      rw [List.filter_eq_self]
      intro cl hcl
      have := List.filter_eq_nil_iff.1 (List.isEmpty_iff.1 he) cl hcl
      simpa using this
    rw [this]
  · refine ActsOn.examine (f := fun a => { a with queue := a.queue.filter fun cl => !drop cl }) ?_
    have edit := ActsOn.editZone s z fun d => { d with queue := d.queue.filter fun cl => !drop cl }
    have posts := State.each_post_zone ((s.zone z).queue.filter drop) z reason
      (s.editZone z fun d => { d with queue := d.queue.filter fun cl => !drop cl })
    exact ⟨edit.table.trans (posts z).2, (congrArg ZoneDyn.sans (posts z).1).trans edit.here,
      fun y hy => (posts y).1.trans (edit.other y hy)⟩

/-- The withdrawal of a booked claim (R58): where no other running booking of the crane lists the zone. -/
theorem State.withdrawBooked_acts (id : Nat) (c : CraneId) (z : ZoneId) (s : State) :
    ActsOn z (fun a b => b.sans = (if s.listedElsewhere id c z then a
      else { a with queue := a.queue.filter fun cl => !(cl.crane == c && cl.booked) } : ZoneDyn).sans) s
      (s.withdrawBooked id c z) := by
  unfold State.withdrawBooked
  split
  · exact ⟨.refl s, rfl, fun _ _ => rfl⟩
  · exact State.dropClaims_acts z _ _ s

/-! ### Levels recomputed (R48) -/

/-- A queue whose claim of crane `c` stands at its level by `level`, told of an emergency. -/
def relevelledQueue (c : CraneId) (level : Bool → Nat) (q : List Claim) : List Claim :=
  match q.find? (·.crane == c) with
  | none => q
  | some cl => insertClaim { cl with level := level cl.emergency } (dropCrane c q)

theorem relevelledQueue_none {c : CraneId} {level : Bool → Nat} {q : List Claim}
    (h : q.find? (·.crane == c) = none) : relevelledQueue c level q = q := by
  simp only [relevelledQueue, h]

theorem relevelledQueue_some {c : CraneId} {level : Bool → Nat} {q : List Claim} {cl : Claim}
    (h : q.find? (·.crane == c) = some cl) :
    relevelledQueue c level q = insertClaim { cl with level := level cl.emergency } (dropCrane c q) := by
  simp only [relevelledQueue, h]

/-- A zone's state whose grant to crane `c` stands at its level by `level`, told of an emergency. -/
def ZoneState.relevelled (c : CraneId) (level : Bool → Nat) : ZoneState → ZoneState
  | .held h => if h.holder = c then .held { h with level := level h.emergency } else .held h
  | .free => .free
  | .closed => .closed
  | .handover left => .handover left

theorem ZoneState.relevelled_not_held {c : CraneId} {level : Bool → Nat} {x : ZoneState}
    (h : x.holding = none) : x.relevelled c level = x := by
  cases x with
  | held y => cases h
  | _ => rfl

/-- A zone whose claim and grant of crane `c` stand at their levels by `level`. -/
def ZoneDyn.relevelled (c : CraneId) (level : Bool → Nat) (d : ZoneDyn) : ZoneDyn :=
  { d with queue := relevelledQueue c level d.queue, state := d.state.relevelled c level }

theorem State.relevelClaim_of_none {s : State} {z : ZoneId} {c : CraneId} (h : s.claimOf z c = none) :
    s.relevelClaim c z = s := by
  simp only [State.relevelClaim, h]

theorem State.relevelClaim_of_some {s : State} {z : ZoneId} {c : CraneId} {cl : Claim}
    (h : s.claimOf z c = some cl) :
    s.relevelClaim c z = s.editZone z fun d =>
      { d with queue := insertClaim { cl with level := s.levelFor c z cl.emergency } (dropCrane c d.queue) } := by
  simp only [State.relevelClaim, h]

theorem State.relevelGrant_of_none {s : State} {z : ZoneId} {c : CraneId} (h : s.holding z = none) :
    s.relevelGrant c z = s := by
  simp only [State.relevelGrant, h]

theorem State.relevelGrant_of_some {s : State} {z : ZoneId} {c : CraneId} {x : Holding}
    (h : s.holding z = some x) :
    s.relevelGrant c z = if x.holder == c then s.editZone z fun d =>
      { d with state := .held { x with level := s.levelFor c z x.emergency } } else s := by
  simp only [State.relevelGrant, h]

theorem State.relevelClaim_zone (c : CraneId) (z : ZoneId) (s : State) :
    TableStands s (s.relevelClaim c z) ∧
    (s.relevelClaim c z).zone z =
      { s.zone z with queue := relevelledQueue c (s.levelFor c z) (s.zone z).queue } ∧
    ∀ y, y ≠ z → (s.relevelClaim c z).zone y = s.zone y := by
  cases h : s.claimOf z c with
  | none =>
    rw [State.relevelClaim_of_none h, relevelledQueue_none h]
    exact ⟨.refl s, rfl, fun _ _ => rfl⟩
  | some cl =>
    rw [State.relevelClaim_of_some h, relevelledQueue_some h]
    exact ⟨⟨rfl, rfl⟩, State.editZone_zone_same s z _, fun _ hy => State.editZone_zone_other s _ hy⟩

theorem State.relevelGrant_zone (c : CraneId) (z : ZoneId) (s : State) :
    TableStands s (s.relevelGrant c z) ∧
    (s.relevelGrant c z).zone z =
      { s.zone z with state := (s.zone z).state.relevelled c (s.levelFor c z) } ∧
    ∀ y, y ≠ z → (s.relevelGrant c z).zone y = s.zone y := by
  cases h : s.holding z with
  | none =>
    rw [State.relevelGrant_of_none h, ZoneState.relevelled_not_held h]
    exact ⟨.refl s, rfl, fun _ _ => rfl⟩
  | some x =>
    have hst := State.holding_eq_some.1 h
    rw [State.relevelGrant_of_some h]
    simp only [hst, ZoneState.relevelled, beq_iff_eq]
    split
    · exact ⟨⟨rfl, rfl⟩, State.editZone_zone_same s z _, fun _ hy => State.editZone_zone_other s _ hy⟩
    · refine ⟨.refl s, ?_, fun _ _ => rfl⟩
      rw [← hst]

theorem State.levelFor_congr {s t : State} (h : TableStands s t) (c : CraneId) (z : ZoneId) (e : Bool) :
    t.levelFor c z e = s.levelFor c z e := by
  simp only [State.levelFor, State.baseLevel, State.bookingLevel, State.permit, h.bookings, h.permits]

/-- The recomputation of a crane's levels on a zone acts on that zone alone (R48). -/
theorem State.relevel_acts (c : CraneId) (z : ZoneId) (s : State) :
    ActsOn z (fun a b => b.sans = (a.relevelled c (s.levelFor c z)).sans) s (s.relevel c z) := by
  obtain ⟨t1, h1, o1⟩ := s.relevelClaim_zone c z
  obtain ⟨t2, h2, o2⟩ := (s.relevelClaim c z).relevelGrant_zone c z
  have both : ActsOn z (fun a b => b.sans = (a.relevelled c (s.levelFor c z)).sans) s
      ((s.relevelClaim c z).relevelGrant c z) := by
    refine ⟨t1.trans t2, congrArg ZoneDyn.sans ?_, fun y hy => (o2 y hy).trans (o1 y hy)⟩
    rw [h2, h1]
    simp only [State.levelFor_congr t1, ZoneDyn.relevelled]
  unfold State.relevel
  simp only
  split
  · exact both.examine
  · exact both

end Sys2Proof.Machine

/-! ## The end of a booking (R144, R153)

The table after an end (`State.recordEnd_eq`), the zones it closes (`State.closeZone_acts`), and what its
stages leave of the claims and levels of its crane. -/

namespace Sys2Proof.Machine

/-! ### The terminal order (R144) -/

/-- An entry as the counting of a terminal order leaves it: at 65535 the terminal ones are renumbered. -/
def State.recounted (s : State) (o : Booking) : Booking :=
  if 65535 ≤ s.terminals ∧ o.state.terminal = true then
    { o with terminalOrder :=
        (s.bookings.filter fun x => x.state.terminal && decide (x.terminalOrder ≤ o.terminalOrder)).length }
  else o

/-- The terminal order given last, after the renumbering that may be due. -/
def State.lastOrder (s : State) : Nat :=
  if 65535 ≤ s.terminals then (s.bookings.filter (·.state.terminal)).length else s.terminals

theorem State.recounted_eq (s : State) (o : Booking) :
    s.recounted o = { o with terminalOrder := (s.recounted o).terminalOrder } := by
  unfold State.recounted
  split <;> rfl

theorem State.countTerminal_eq (s : State) :
    s.countTerminal = { s with bookings := s.bookings.map s.recounted, terminals := s.lastOrder + 1 } := by
  unfold State.countTerminal
  by_cases h : 65535 ≤ s.terminals
  · have recount : s.recounted = fun b => if b.state.terminal then
        { b with terminalOrder := (((s.bookings.filter (·.state.terminal)).map (·.terminalOrder)).filter
          (· ≤ b.terminalOrder)).length } else b := by
      funext o
      simp only [State.recounted, h, true_and, List.filter_map, List.filter_filter, List.length_map,
        Function.comp_def, Bool.and_comm]
    simp only [if_pos h, State.lastOrder, recount, State.renumberTerminals, List.length_map]
  · have recount : s.recounted = id := by
      funext o
      simp [State.recounted, h]
    simp only [if_neg h, State.lastOrder, recount, List.map_id]

/-- An entry of the table after the end of the booking `id` in a terminal state. -/
def State.ended (s : State) (id : Nat) (new : BookingState) (o : Booking) : Booking :=
  if o.id = id then { s.recounted o with state := new, remaining := 0, terminalOrder := s.lastOrder + 1 }
  else s.recounted o

theorem State.recordEnd_eq (s : State) (id : Nat) {new : BookingState} (h : new.terminal = true) :
    s.recordEnd id new =
      { s with bookings := s.bookings.map (s.ended id new), terminals := s.lastOrder + 1 } := by
  unfold State.recordEnd
  rw [if_pos h, State.countTerminal_eq]
  refine congrArg (fun bs => ({ s with bookings := bs, terminals := s.lastOrder + 1 } : State)) ?_
  rw [List.map_map]
  refine List.map_congr_left fun o _ => ?_
  have hid : (s.recounted o).id = o.id := by rw [s.recounted_eq o]
  simp [State.ended, Function.comp_apply, hid]

/-- The ended booking is found in the table as the end leaves it. -/
theorem State.recordEnd_found {s : State} {id : Nat} {new : BookingState} {b : Booking}
    (h : new.terminal = true) (hb : s.bookingById id = some b) :
    (s.recordEnd id new).bookingById id = some (s.ended id new b) := by
  have hid (o : Booking) : (s.ended id new o).id = o.id := by
    unfold State.ended
    rw [s.recounted_eq o]
    split <;> rfl
  rw [State.recordEnd_eq s id h]
  simp only [State.bookingById, List.find?_map, Function.comp_def, hid]
  exact congrArg _ hb

/-- A booking that was not terminal keeps its other fields. -/
theorem State.ended_eq {s : State} {id : Nat} {new : BookingState} {b : Booking} (hid : b.id = id)
    (hs : b.state.terminal = false) :
    s.ended id new b = { b with state := new, remaining := 0, terminalOrder := s.lastOrder + 1 } := by
  simp [State.ended, State.recounted, hid, hs]

/-- The terminal order of an ended booking, and the renumbering that may precede it (R144). -/
theorem terminalOrderGiven {s t : State} {id : Nat} {new : BookingState} {b : Booking} (hid : b.id = id)
    (hs : b.state.terminal = false) (hb : t.bookings = s.bookings.map (s.ended id new))
    (ht : t.terminals = s.lastOrder + 1) : TerminalOrderGiven s t b (s.ended id new b) := by
  have order : (s.ended id new b).terminalOrder = s.lastOrder + 1 := by rw [State.ended_eq hid hs]
  have others (o : Booking) (ho : o ∈ s.bookings) (hne : o.id ≠ b.id) : s.recounted o ∈ t.bookings := by
    rw [hb]
    refine List.mem_map.2 ⟨o, ho, ?_⟩
    rw [State.ended, if_neg (by rwa [← hid])]
  refine ⟨fun h => ?_, fun h o ho hne => ?_, fun h _ => ?_⟩
  · rw [order, ht, State.lastOrder, if_neg (Nat.not_le.2 h)]
    exact ⟨rfl, rfl⟩
  · have := others o ho hne
    rwa [State.recounted, if_neg (fun hc => absurd hc.1 (Nat.not_le.2 h))] at this
  · rw [order, ht, State.lastOrder, if_pos h]
    refine ⟨rfl, rfl, fun o ho hne hterm => ?_⟩
    have := others o ho hne
    rwa [State.recounted, if_pos ⟨h, hterm⟩] at this

/-! ### Levels without the booking (R47) -/

theorem foldl_max_eq (l : List Nat) (a : Nat) : l.foldl max a = max a (l.foldr max 0) := by
  induction l generalizing a with
  | nil => simp
  | cons x xs ih => rw [List.foldl_cons, List.foldr_cons, ih, max_assoc]

theorem foldr_max_eq (l : List Nat) (a : Nat) : l.foldr max a = max a (l.foldr max 0) := by
  induction l with
  | nil => simp
  | cons x xs ih => rw [List.foldr_cons, List.foldr_cons, ih, max_left_comm]

theorem State.ended_lists {s : State} {id : Nat} {new : BookingState} (h : new.terminal = true) (o : Booking)
    (c : CraneId) (z : ZoneId) :
    ((s.ended id new o).crane == c && (s.ended id new o).state.counts && (s.ended id new o).zones.contains z) =
        (o.id != id && o.crane == c && o.state.counts && o.zones.contains z) ∧
      (s.ended id new o).id = o.id ∧ (o.id ≠ id → (s.ended id new o).level = o.level) := by
  have counts : new.counts = false := by
    cases new <;> simp_all [BookingState.terminal, BookingState.counts]
  unfold State.ended
  rw [s.recounted_eq o]
  split
  · next hid => simp [hid, counts]
  · next hid =>
    have other : (o.id != id) = true := by simpa using hid
    simp [other]

/-- After the end of a booking the levels of its crane are those without it (R47, R48). -/
theorem State.levelFor_ended {s : State} {b : Booking} {new : BookingState} (h : new.terminal = true)
    (z : ZoneId) (e : Bool) :
    (s.recordEnd b.id new).levelFor b.crane z e = s.levelWithout b z e := by
  have levels : ((s.bookings.map (s.ended b.id new)).filter fun o =>
        o.crane == b.crane && o.state.counts && o.zones.contains z).map (·.level) =
      (s.bookings.filter fun o =>
        o.id != b.id && o.crane == b.crane && o.state.counts && o.zones.contains z).map (·.level) := by
    rw [List.filter_map, List.map_map]
    have filters : s.bookings.filter ((fun o => o.crane == b.crane && o.state.counts && o.zones.contains z) ∘
        s.ended b.id new) = s.bookings.filter fun o =>
          o.id != b.id && o.crane == b.crane && o.state.counts && o.zones.contains z :=
      List.filter_congr fun o _ => (State.ended_lists h o b.crane z).1
    rw [filters]
    refine List.map_congr_left fun o ho => (State.ended_lists h o b.crane z).2.2 ?_
    have := (List.mem_filter.1 ho).2
    simp only [Bool.and_eq_true, bne_iff_ne] at this
    exact this.1.1.1
  rw [State.recordEnd_eq s b.id h]
  simp only [State.levelFor, State.bookingLevel, levels, State.levelWithout]
  rw [foldl_max_eq, foldr_max_eq _ (if e = true then _ else _)]
  have base : ({ s with bookings := s.bookings.map (s.ended b.id new), terminals := s.lastOrder + 1 } :
    State).baseLevel b.crane = s.baseLevel b.crane := rfl
  rw [base]
  split <;> omega

theorem State.listedElsewhere_ended {s : State} {b : Booking} {new : BookingState} (h : new.terminal = true)
    (z : ZoneId) : (s.recordEnd b.id new).listedElsewhere b.id b.crane z = true ↔ s.listedBeside b z := by
  rw [State.recordEnd_eq s b.id h]
  simp only [State.listedElsewhere, List.any_map, List.any_eq_true, Function.comp_apply]
  refine exists_congr fun o => and_congr_right fun _ => ?_
  obtain ⟨lists, hid, -⟩ := State.ended_lists (s := s) (id := b.id) h o b.crane z
  rw [hid, Bool.and_assoc, Bool.and_assoc, ← Bool.and_assoc (_ == _), lists]
  have counts : o.state.counts = true ↔ o.state = .armed ∨ o.state = .active ∨ o.state = .suspended := by
    cases o.state <;> simp [BookingState.counts]
  simp only [Bool.and_eq_true, bne_iff_ne, beq_iff_eq, counts, List.contains_iff_mem]
  tauto

/-! ### Zones closed (R9) -/

/-- The zone as the end of the booking `id` closes it: CLOSED from FREE and HANDOVER, under its holder from
HELD (R9, R10). -/
def ZoneDyn.shutFor (id : Nat) (d : ZoneDyn) : ZoneDyn :=
  if d.openedFor = some id then
    { d with
      openedFor := none
      state := match d.state with
        | .free => .closed
        | .handover _ => .closed
        | .held h => .held h
        | .closed => .closed }
  else d

theorem ZoneDyn.sans_shutFor (id : Nat) (d : ZoneDyn) : (d.shutFor id).sans = d.sans.shutFor id := by
  unfold ZoneDyn.shutFor ZoneDyn.sans
  split
  · cases d.state <;> rfl
  · rfl

theorem ZoneDyn.shutFor_openedFor (id : Nat) (d : ZoneDyn) : (d.shutFor id).openedFor ≠ some id := by
  unfold ZoneDyn.shutFor
  split
  · simp
  · assumption

theorem ZoneDyn.shutFor_of_ne {id : Nat} {d : ZoneDyn} (h : d.openedFor ≠ some id) : d.shutFor id = d :=
  if_neg h

/-- What the end of the booking `id` makes of a zone, its queue and demand apart. -/
def ZoneDyn.ShutInto (id : Nat) (a b : ZoneDyn) : Prop :=
  ∃ q, b.sans = { a.sans.shutFor id with queue := q }

theorem ZoneDyn.ShutInto.trans {id : Nat} {a b c : ZoneDyn} (h : a.ShutInto id b) (k : b.ShutInto id c) :
    a.ShutInto id c := by
  obtain ⟨q, hq⟩ := h
  obtain ⟨r, hr⟩ := k
  have shut : ({ a.sans.shutFor id with queue := q } : ZoneDyn).openedFor ≠ some id :=
    a.sans.shutFor_openedFor id
  refine ⟨r, hr.trans ?_⟩
  rw [hq, ZoneDyn.shutFor_of_ne shut]

theorem State.dropUnadmitted_acts (z : ZoneId) (s : State) :
    ActsOn z (fun a b => ∃ q, b.sans = { a.sans with queue := q }) s (s.dropUnadmitted z) := by
  unfold State.dropUnadmitted
  split
  · have h := State.dropClaims_acts z (fun cl => !s.admitted cl.crane z) .admission s
    exact ⟨h.table, ⟨_, h.here⟩, h.other⟩
  · exact ⟨.refl s, ⟨_, rfl⟩, fun _ _ => rfl⟩

/-- The closing of an unmarked zone acts on that zone alone (R9). -/
theorem State.closeZone_acts (id : Nat) (z : ZoneId) {s : State} (hm : (s.zone z).mark = false) :
    ActsOn z (ZoneDyn.ShutInto id) s (s.closeZone id z) := by
  unfold State.closeZone
  split
  · next ho =>
    generalize hf : (fun d : ZoneDyn => ({ d with openedFor := none, state := _ } : ZoneDyn)) = f
    have shut : f (s.zone z) = (s.zone z).shutFor id := by
      subst hf
      exact (if_pos ho).symm
    have edit := ActsOn.editZone s z f
    have drop := State.dropUnadmitted_acts z (s.editZone z f)
    have here : (s.zone z).ShutInto id (((s.editZone z f).dropUnadmitted z).zone z) := by
      obtain ⟨q, hq⟩ := drop.here
      refine ⟨q, hq.trans ?_⟩
      rw [edit.here, shut, ZoneDyn.sans_shutFor]
    have unmarked : (((s.editZone z f).dropUnadmitted z).zone z).mark = false := by
      obtain ⟨q, hq⟩ := here
      have mark : (((s.editZone z f).dropUnadmitted z).zone z).mark = ((s.zone z).sans.shutFor id).mark :=
        show (ZoneDyn.sans _).mark = _ by rw [hq]
      rw [mark, ZoneDyn.shutFor]
      split <;> exact hm
    rw [State.completionTest_of_unmarked unmarked]
    exact ⟨edit.table.trans drop.table, here, fun y hy => (drop.other y hy).trans (edit.other y hy)⟩
  · next ho =>
    have drop := State.dropUnadmitted_acts z s
    obtain ⟨q, hq⟩ := drop.here
    refine ⟨drop.table, ⟨q, ?_⟩, drop.other⟩
    rwa [ZoneDyn.shutFor_of_ne (d := (s.zone z).sans) ho]

/-- With no apply pending the closings touch the listed zones alone (R9). -/
theorem State.eachOpen_closeZone (id : Nat) (zs : List ZoneId) {s : State} (hm : ∀ z, (s.zone z).mark = false) :
    ∀ y, (y ∈ zs → (s.zone y).ShutInto id ((s.eachOpen Fin.val zs (State.closeZone id)).zone y)) ∧
      (y ∉ zs → (s.eachOpen Fin.val zs (State.closeZone id)).zone y = s.zone y) := by
  refine (State.eachOpen_local (P := fun s => ∀ z, (s.zone z).mark = false) (G := fun _ => ZoneDyn.ShutInto id)
    (fun _ _ _ _ => .trans) (fun z s hs => State.closeZone_acts id z (hs z)) (fun z s hs y => ?_) zs hm).2.2
  have acts := State.closeZone_acts id z (hs z)
  by_cases hy : y = z
  · subst hy
    obtain ⟨q, hq⟩ := acts.here
    have mark : ((s.closeZone id y).zone y).mark = ((s.zone y).sans.shutFor id).mark :=
      show (ZoneDyn.sans _).mark = _ by rw [hq]
    rw [mark, ZoneDyn.shutFor]
    split <;> exact hs y
  · rw [acts.other y hy]
    exact hs y

/-! ### Claims withdrawn (R58) -/

/-- A zone after the withdrawal of the booked claims of crane `c`, unless `keeps`. -/
def ZoneDyn.withdrawn (c : CraneId) (keeps : Bool) (d : ZoneDyn) : ZoneDyn :=
  if keeps then d else { d with queue := d.queue.filter fun cl => !(cl.crane == c && cl.booked) }

theorem ZoneDyn.sans_withdrawn (c : CraneId) (keeps : Bool) (d : ZoneDyn) :
    (d.withdrawn c keeps).sans = d.sans.withdrawn c keeps := by
  cases keeps <;> rfl

theorem ZoneDyn.withdrawn_withdrawn (c : CraneId) (keeps : Bool) (d : ZoneDyn) :
    (d.withdrawn c keeps).withdrawn c keeps = d.withdrawn c keeps := by
  cases keeps <;> simp [ZoneDyn.withdrawn]

theorem State.eachOpen_withdrawBooked (id : Nat) (c : CraneId) (zs : List ZoneId) (s : State) :
    TableStands s (s.eachOpen Fin.val zs (State.withdrawBooked id c)) ∧
    ∀ y, (y ∈ zs → ((s.eachOpen Fin.val zs (State.withdrawBooked id c)).zone y).sans =
        (s.zone y).sans.withdrawn c (s.listedElsewhere id c y)) ∧
      (y ∉ zs → (s.eachOpen Fin.val zs (State.withdrawBooked id c)).zone y = s.zone y) := by
  refine (State.eachOpen_local (P := fun t => t.bookings = s.bookings)
    (G := fun z a b => b.sans = a.sans.withdrawn c (s.listedElsewhere id c z))
    (fun z a b d h k => ?_) (fun z t ht => ?_) (fun z t ht => ?_) zs rfl).2
  · rw [k, h, ZoneDyn.withdrawn_withdrawn]
  · have acts := State.withdrawBooked_acts id c z t
    have listed : t.listedElsewhere id c z = s.listedElsewhere id c z := by
      simp only [State.listedElsewhere, ht]
    rw [listed] at acts
    exact ⟨acts.table, acts.here.trans (ZoneDyn.sans_withdrawn _ _ _), acts.other⟩
  · exact (State.withdrawBooked_acts id c z t).table.bookings.trans ht

/-! ### Levels recomputed (R48) -/

theorem dropCrane_insertClaim {c : CraneId} {cl : Claim} (h : cl.crane = c) (q : List Claim) :
    dropCrane c (insertClaim cl q) = dropCrane c q := by
  unfold dropCrane
  induction q with
  | nil => simp [insertClaim, h]
  | cons x xs ih =>
    unfold insertClaim
    split
    · simp [h]
    · rw [List.filter_cons, List.filter_cons, ih]

theorem dropCrane_dropCrane (c : CraneId) (q : List Claim) : dropCrane c (dropCrane c q) = dropCrane c q := by
  simp [dropCrane]

theorem ZoneState.sans_relevelled (c : CraneId) (level : Bool → Nat) (x : ZoneState) :
    (x.relevelled c level).sans = x.sans.relevelled c level := by
  cases x with
  | held h => by_cases hc : h.holder = c <;> simp [ZoneState.relevelled, ZoneState.sans, hc]
  | _ => rfl

theorem ZoneState.relevelled_relevelled (c : CraneId) (level : Bool → Nat) (x : ZoneState) :
    (x.relevelled c level).relevelled c level = x.relevelled c level := by
  cases x with
  | held h => by_cases hc : h.holder = c <;> simp [ZoneState.relevelled, hc]
  | _ => rfl

theorem ZoneDyn.sans_relevelled (c : CraneId) (level : Bool → Nat) (d : ZoneDyn) :
    (d.relevelled c level).sans = d.sans.relevelled c level := by
  simp only [ZoneDyn.sans, ZoneDyn.relevelled, ZoneState.sans_relevelled]

theorem crane_of_find? {c : CraneId} {q : List Claim} {cl : Claim} (h : q.find? (·.crane == c) = some cl) :
    cl.crane = c := by
  simpa using List.find?_some h

theorem find?_relevelledQueue (c : CraneId) (level : Bool → Nat) (q : List Claim) :
    (relevelledQueue c level q).find? (·.crane == c) =
      (q.find? (·.crane == c)).map fun cl => { cl with level := level cl.emergency } := by
  cases hq : q.find? (·.crane == c) with
  | none => rw [relevelledQueue_none hq, hq]; rfl
  | some cl =>
    rw [relevelledQueue_some hq, find?_relevelled (crane_of_find? hq), if_pos rfl]
    rfl

theorem dropCrane_relevelledQueue (c : CraneId) (level : Bool → Nat) (q : List Claim) :
    dropCrane c (relevelledQueue c level q) = dropCrane c q := by
  cases hq : q.find? (·.crane == c) with
  | none => rw [relevelledQueue_none hq]
  | some cl =>
    have crane : ({ cl with level := level cl.emergency } : Claim).crane = c := crane_of_find? (cl := cl) hq
    rw [relevelledQueue_some hq, dropCrane_insertClaim crane, dropCrane_dropCrane]

theorem relevelledQueue_relevelledQueue (c : CraneId) (level : Bool → Nat) (q : List Claim) :
    relevelledQueue c level (relevelledQueue c level q) = relevelledQueue c level q := by
  have claim := find?_relevelledQueue c level q
  cases hq : q.find? (·.crane == c) with
  | none => exact relevelledQueue_none (by rw [claim, hq]; rfl)
  | some cl =>
    rw [hq] at claim
    rw [relevelledQueue_some claim, dropCrane_relevelledQueue, relevelledQueue_some hq]

theorem ZoneDyn.relevelled_relevelled (c : CraneId) (level : Bool → Nat) (d : ZoneDyn) :
    (d.relevelled c level).relevelled c level = d.relevelled c level := by
  simp only [ZoneDyn.relevelled, relevelledQueue_relevelledQueue, ZoneState.relevelled_relevelled]

theorem State.relevelAll_acts (c : CraneId) (zs : List ZoneId) (s : State) :
    TableStands s (s.relevelAll c zs) ∧
    ∀ y, (y ∈ zs → ((s.relevelAll c zs).zone y).sans = (s.zone y).sans.relevelled c (s.levelFor c y)) ∧
      (y ∉ zs → (s.relevelAll c zs).zone y = s.zone y) := by
  refine (State.eachOpen_local (P := TableStands s)
    (G := fun z a b => b.sans = a.sans.relevelled c (s.levelFor c z))
    (fun z a b d h k => ?_) (fun z t ht => ?_) (fun z t ht => ?_) zs ⟨rfl, rfl⟩).2
  · rw [k, h, ZoneDyn.relevelled_relevelled]
  · have acts := State.relevel_acts c z t
    have level : t.levelFor c z = s.levelFor c z := funext fun e => State.levelFor_congr ht c z e
    rw [level] at acts
    exact ⟨acts.table, acts.here.trans (ZoneDyn.sans_relevelled _ _ _), acts.other⟩
  · exact ht.trans (State.relevel_acts c z t).table

end Sys2Proof.Machine

/-! ## A booking cancelled (R157) -/

namespace Sys2Proof.Machine

/-! ### No claim comes from an end -/

/-- The single moves behind stage 1 of the end of a booking (R153). -/
structure EndMoves (R : State → State → Prop) : Prop extends LevelMoves R, ApplyMoves R where
  adopt : ∀ s z, R s (s.adopt z)

theorem EndMoves.completionTest {R : State → State → Prop} (h : EndMoves R) (z : ZoneId) (s : State) :
    R s (s.completionTest z) := by
  unfold State.completionTest
  split
  · exact h.trans (h.toCascadeMoves.each _ State.adopt (fun z _ s => h.adopt s z) s)
      (h.toApplyMoves.completeApply _ s)
  · exact h.refl s

theorem EndMoves.closeZone {R : State → State → Prop} (h : EndMoves R) (id : Nat) (z : ZoneId) (s : State) :
    R s (s.closeZone id z) := by
  unfold State.closeZone
  split
  · refine h.trans (h.trans (h.rezone s z _ ?_ ?_) (h.toApplyMoves.dropUnadmitted z _)) (h.completionTest z _)
    · rintro ⟨st, q, o, m⟩
      refine ⟨rfl, ?_⟩
      cases st <;> simp [ZoneState.holding]
    · exact fun _ => rfl
  · exact h.toApplyMoves.dropUnadmitted z s

/-- Each claim behind `t` is, by crane and booked field, one of `s` on the same zone. -/
def ClaimsFrom (s t : State) : Prop :=
  ∀ z, ∀ cl ∈ (t.zone z).queue, ∃ x ∈ (s.zone z).queue, x.crane = cl.crane ∧ x.booked = cl.booked

theorem claimsFrom_of_zones {s t : State} (h : t.zones = s.zones) : ClaimsFrom s t := fun z cl hcl =>
  ⟨cl, by rwa [State.zone_of_zones h z] at hcl, rfl, rfl⟩

theorem claimsFrom_editZone (s : State) (z : ZoneId) (f : ZoneDyn → ZoneDyn)
    (hf : ∀ cl ∈ (f (s.zone z)).queue, ∃ x ∈ (s.zone z).queue, x.crane = cl.crane ∧ x.booked = cl.booked) :
    ClaimsFrom s (s.editZone z f) := fun y cl hcl => by
  rw [State.editZone_zone] at hcl
  split at hcl
  · next e =>
    subst e
    exact hf cl hcl
  · exact ⟨cl, hcl, rfl, rfl⟩

/-- The end of a booking places no claim and books none. -/
theorem claimsFrom_end : EndMoves ClaimsFrom where
  refl _ := claimsFrom_of_zones rfl
  trans h k z cl hcl := by
    obtain ⟨x, hx, hc, hb⟩ := k z cl hcl
    obtain ⟨y, hy, hyc, hyb⟩ := h z x hx
    exact ⟨y, hy, hyc.trans hc, hyb.trans hb⟩
  chosen _ := claimsFrom_of_zones rfl
  post _ _ _ := claimsFrom_of_zones (State.post_zones _ _ _)
  trip _ := claimsFrom_of_zones rfl
  silence _ := claimsFrom_of_zones rfl
  grant s z _ _ _ := claimsFrom_editZone s z _ fun x hx => ⟨x, List.mem_of_mem_filter hx, rfl, rfl⟩
  demand s z _ _ _ := claimsFrom_editZone s z _ fun x hx => ⟨x, hx, rfl, rfl⟩
  figures _ _ _ _ _ _ := claimsFrom_of_zones rfl
  judge _ _ := claimsFrom_of_zones (State.judgeStage_zones _ _)
  latchKeep _ _ _ _ _ _ _ _ := claimsFrom_of_zones rfl
  latchHalt _ _ _ _ _ _ _ := claimsFrom_of_zones rfl
  reclaim s z _ cl _ hcl := claimsFrom_editZone s z _ fun x hx => by
    rcases mem_insertClaim.1 hx with rfl | hx
    · exact ⟨cl, (State.claimOf_some hcl).1, rfl, rfl⟩
    · exact ⟨x, (mem_dropCrane.1 hx).1, rfl, rfl⟩
  regrant s z _ _ _ := claimsFrom_editZone s z _ fun x hx => ⟨x, hx, rfl, rfl⟩
  suspend _ _ _ _ := claimsFrom_of_zones rfl
  applyDone _ := claimsFrom_of_zones rfl
  rezone s z f hf _ := claimsFrom_editZone s z f fun x hx => ⟨x, (hf (s.zone z)).1 ▸ hx, rfl, rfl⟩
  drop s z _ := claimsFrom_editZone s z _ fun x hx => ⟨x, List.mem_of_mem_filter hx, rfl, rfl⟩
  adopt s z y cl hcl := by
    rw [State.adopt_zone] at hcl
    split at hcl <;> exact ⟨cl, hcl, rfl, rfl⟩

/-! ### The end of a suspension (R132) -/

/-- Grant evaluation of zones with no eligible claim does nothing. -/
theorem settle_evaluates_of_none (zs : List ZoneId) {s : State} (h : ∀ z ∈ zs, s.firstEligible z = none) :
    s.settle (zs.map .evaluate) = s := by
  induction zs with
  | nil => exact settle_nil s
  | cons z zs ih =>
    rw [List.map_cons, settle_cons]
    simp only [doTask, h z (by simp)]
    exact ih fun y hy => h y (by simp [hy])

/-- The suspension mark of a crane whose claims wait on zones that are not FREE touches no zone. -/
theorem State.refreshSuspension_zones {s : State} {c : CraneId}
    (h : ∀ z, s.hasClaim z c = true → (s.zone z).state ≠ .free) : (s.refreshSuspension c).zones = s.zones := by
  unfold State.refreshSuspension
  split
  · rfl
  · split
    · rfl
    · unfold State.replacePermit
      simp only
      split
      · rfl
      · unfold State.evaluateClaims State.claimTasks
        rw [settle_evaluates_of_none]
        · rfl
        · intro z hz
          rw [State.mem_arranged, State.claimZones, List.mem_filter] at hz
          exact State.firstEligible_of_not_free (h z hz.2)

/-! ### The stages of an end (R153) -/

/-- The state behind the withdrawals of an end. -/
def State.endWithdrawn (b : Booking) (new : BookingState) (s : State) : State :=
  (s.recordEnd b.id new).eachOpen Fin.val b.zones (State.withdrawBooked b.id b.crane)

/-- The state behind the closings of an end. -/
def State.endClosed (b : Booking) (new : BookingState) (s : State) : State :=
  (s.endWithdrawn b new).eachOpen Fin.val ((s.endWithdrawn b new).zonesToClose b) (State.closeZone b.id)

/-- The state behind the levels of an end. -/
def State.endLevelled (b : Booking) (new : BookingState) (s : State) : State :=
  (s.endClosed b new).relevelAll b.crane b.zones

theorem State.bookingById_id {s : State} {id : Nat} {b : Booking} (h : s.bookingById id = some b) :
    b.id = id := by
  simpa using List.find?_some h

theorem State.endBooking_eq {s : State} {b : Booking} (new : BookingState) (cause : BookingCause)
    (hb : s.bookingById b.id = some b) :
    s.endBooking b.id new cause =
      (if b.state = .suspended then (s.endLevelled b new).refreshSuspension b.crane
        else s.endLevelled b new).postBooking b.id b.state cause := by
  unfold State.endBooking
  rw [hb]
  rfl

/-- Behind stage 1 an end touches the table no more. -/
theorem State.endBooking_table {s : State} {b : Booking} (new : BookingState) (cause : BookingCause)
    (hb : s.bookingById b.id = some b) : BookingsStand (s.recordEnd b.id new) (s.endBooking b.id new cause) := by
  have h := bookingsStand_zone
  have levelled : BookingsStand (s.recordEnd b.id new) (s.endLevelled b new) :=
    h.trans (h.trans (h.eachOpen Fin.val b.zones _ (fun z _ s => by
        unfold State.withdrawBooked
        split
        · exact h.refl s
        · exact h.dropClaims _ _ _ _) _)
      (h.eachOpen Fin.val _ _ (fun z _ s => h.closeZone b.id z s) _)) (h.toLevelMoves.relevelAll _ _ _)
  rw [State.endBooking_eq new cause hb]
  refine h.trans (h.trans levelled ?_) (h.postBooking _ _ _ _)
  split
  · exact h.toLevelMoves.refreshSuspension _ _
  · exact h.refl _

theorem State.recordEnd_zone (s : State) (id : Nat) (new : BookingState) (z : ZoneId) :
    (s.recordEnd id new).zone z = s.zone z := by
  unfold State.recordEnd State.countTerminal State.renumberTerminals
  split
  · simp only
    split <;> rfl
  · rfl

/-- Each zone behind the withdrawals of an end (R58). -/
theorem State.endWithdrawn_zone {b : Booking} {new : BookingState} (h : new.terminal = true) (s : State)
    (z : ZoneId) :
    (z ∈ b.zones → ∃ keeps : Bool, (keeps = true ↔ s.listedBeside b z) ∧
      ((s.endWithdrawn b new).zone z).sans = (s.zone z).sans.withdrawn b.crane keeps) ∧
    (z ∉ b.zones → (s.endWithdrawn b new).zone z = s.zone z) := by
  obtain ⟨-, acts⟩ := (s.recordEnd b.id new).eachOpen_withdrawBooked b.id b.crane b.zones
  obtain ⟨hin, hout⟩ := acts z
  rw [State.recordEnd_zone] at hin hout
  exact ⟨fun hz => ⟨_, State.listedElsewhere_ended h z, hin hz⟩, hout⟩

/-- The withdrawals leave a zone's state, opened-for and mark, the demand apart. -/
theorem State.endWithdrawn_stands {b : Booking} {new : BookingState} (h : new.terminal = true) (s : State)
    (z : ZoneId) :
    ∃ q, ((s.endWithdrawn b new).zone z).sans = { (s.zone z).sans with queue := q } := by
  obtain ⟨hin, hout⟩ := s.endWithdrawn_zone (b := b) h z
  by_cases hz : z ∈ b.zones
  · obtain ⟨keeps, -, hs⟩ := hin hz
    cases keeps
    · exact ⟨_, hs⟩
    · exact ⟨_, hs⟩
  · rw [hout hz]
    exact ⟨_, rfl⟩

theorem State.endWithdrawn_reads {b : Booking} {new : BookingState} (h : new.terminal = true) (s : State)
    (z : ZoneId) :
    ((s.endWithdrawn b new).zone z).openedFor = (s.zone z).openedFor ∧
      ((s.endWithdrawn b new).zone z).mark = (s.zone z).mark ∧
      ((s.endWithdrawn b new).zone z).state.sans = (s.zone z).state.sans := by
  obtain ⟨q, hq⟩ := s.endWithdrawn_stands (b := b) h z
  exact ⟨(congrArg ZoneDyn.openedFor hq :), (congrArg ZoneDyn.mark hq :), (congrArg ZoneDyn.state hq :)⟩

/-- Behind its withdrawals an end places no claim. -/
theorem State.endBooking_claimsFrom {s : State} {b : Booking} (new : BookingState) (cause : BookingCause)
    (hb : s.bookingById b.id = some b) : ClaimsFrom (s.endWithdrawn b new) (s.endBooking b.id new cause) := by
  have h := claimsFrom_end
  have levelled : ClaimsFrom (s.endWithdrawn b new) (s.endLevelled b new) :=
    h.trans (h.toCascadeMoves.eachOpen Fin.val _ _ (fun z _ s => h.closeZone b.id z s) _)
      (h.toLevelMoves.relevelAll _ _ _)
  rw [State.endBooking_eq new cause hb]
  refine h.trans (h.trans levelled ?_) (LevelMoves.postBooking h.toCascadeMoves _ _ _ _)
  split
  · exact h.toLevelMoves.refreshSuspension _ _
  · exact h.refl _

/-! ### Zones closed by an end (R9) -/

/-- With no apply pending, what an end makes of a zone's opening, its holder and its state (R9). -/
theorem State.endBooking_closes {s : State} {b : Booking} {new : BookingState} (h : new.terminal = true)
    (cause : BookingCause) (hb : s.bookingById b.id = some b) (hm : ∀ z, (s.zone z).mark = false) (z : ZoneId) :
    let t := s.endBooking b.id new cause
    ((s.zone z).openedFor ≠ some b.id → (t.zone z).openedFor = (s.zone z).openedFor) ∧
      ((s.zone z).openedFor = some b.id → (t.zone z).openedFor = none ∧
        (∀ x, s.holding z = some x → t.heldBy z x.holder = true) ∧
        (s.holding z = none → (t.zone z).state = .closed)) := by
  intro t
  have unmarked (y : ZoneId) : ((s.endWithdrawn b new).zone y).mark = false :=
    (s.endWithdrawn_reads h y).2.1.trans (hm y)
  have levels : ZonesStand (s.endClosed b new) t := by
    have k := zonesStand_level
    have levelled : ZonesStand (s.endClosed b new) (s.endLevelled b new) := k.relevelAll _ _ _
    simp only [t, State.endBooking_eq new cause hb]
    refine k.trans (k.trans levelled ?_) (LevelMoves.postBooking k.toCascadeMoves _ _ _ _)
    split
    · exact k.refreshSuspension _ _
    · exact k.refl _
  obtain ⟨q, hq⟩ := s.endWithdrawn_stands (b := b) h z
  obtain ⟨opened, -, -⟩ := s.endWithdrawn_reads (b := b) h z
  have listed : (s.zone z).openedFor = some b.id → z ∈ (s.endWithdrawn b new).zonesToClose b := fun ho => by
    simp [State.zonesToClose, allZones, opened, ho]
  have shut : ∃ q', ((s.endClosed b new).zone z).sans = { (s.zone z).sans.shutFor b.id with queue := q' } := by
    obtain ⟨hin, hout⟩ := State.eachOpen_closeZone b.id ((s.endWithdrawn b new).zonesToClose b) unmarked z
    by_cases hz : z ∈ (s.endWithdrawn b new).zonesToClose b
    · obtain ⟨r, hr⟩ := hin hz
      refine ⟨r, hr.trans ?_⟩
      rw [hq]
      unfold ZoneDyn.shutFor
      simp only
      split <;> rfl
    · refine ⟨q, (congrArg ZoneDyn.sans (hout hz)).trans (hq.trans ?_)⟩
      rw [ZoneDyn.shutFor_of_ne (d := (s.zone z).sans) (mt listed hz)]
  obtain ⟨r, hr⟩ := shut
  have stands := levels z
  have openedFor : (t.zone z).openedFor = ((s.zone z).sans.shutFor b.id).openedFor :=
    stands.openedFor.trans (congrArg ZoneDyn.openedFor hr :)
  have state : ((s.endClosed b new).zone z).state.sans = ((s.zone z).sans.shutFor b.id).state :=
    (congrArg ZoneDyn.state hr :)
  refine ⟨fun ho => ?_, fun ho => ⟨?_, fun x hx => ?_, fun hn => ?_⟩⟩
  · rw [openedFor, ZoneDyn.shutFor_of_ne (d := (s.zone z).sans) ho]
    rfl
  · rw [openedFor, ZoneDyn.shutFor, if_pos (show (s.zone z).sans.openedFor = some b.id from ho)]
  · have hst := State.holding_eq_some.1 hx
    rw [ZoneDyn.shutFor, if_pos (show (s.zone z).sans.openedFor = some b.id from ho)] at state
    simp only [ZoneDyn.sans, hst, ZoneState.sans] at state
    obtain ⟨d, hd⟩ := ZoneState.sans_held state
    obtain ⟨y, hy, hyx⟩ := stands.held _ hd
    exact State.heldBy_iff.2 ⟨y, hy, hyx⟩
  · refine stands.closed.2 (ZoneState.sans_eq_closed.1 (state.trans ?_))
    rw [ZoneDyn.shutFor, if_pos (show (s.zone z).sans.openedFor = some b.id from ho)]
    cases hst : (s.zone z).state with
    | held x =>
      rw [State.holding_eq_some.2 hst] at hn
      cases hn
    | _ => simp [ZoneDyn.sans, hst, ZoneState.sans]

/-! ### An end that closes nothing -/

/-- A quiet end closes nothing (R9). -/
theorem State.endClosed_of_quiet {s : State} {b : Booking} {new : BookingState} (h : new.terminal = true)
    (quiet : s.EndsQuietly b) : s.endClosed b new = (s.endWithdrawn b new).chosen := by
  have none : (s.endWithdrawn b new).zonesToClose b = [] := by
    rw [State.zonesToClose, List.filter_eq_nil_iff]
    intro y _
    obtain ⟨opened, -, -⟩ := s.endWithdrawn_reads (b := b) h y
    simp [opened, quiet.openForNone y, quiet.opensNone]
  rw [State.endClosed, none]
  rfl

/-- Each zone behind the levels of a quiet end (R48, R58). -/
theorem State.endLevelled_of_quiet {s : State} {b : Booking} {new : BookingState} (h : new.terminal = true)
    (quiet : s.EndsQuietly b) (z : ZoneId) :
    (z ∈ b.zones → ∃ keeps : Bool, (keeps = true ↔ s.listedBeside b z) ∧
      ((s.endLevelled b new).zone z).sans =
        ((s.zone z).sans.withdrawn b.crane keeps).relevelled b.crane (s.levelWithout b z)) ∧
    (z ∉ b.zones → (s.endLevelled b new).zone z = s.zone z) := by
  have closed := State.endClosed_of_quiet h quiet
  have table : TableStands (s.recordEnd b.id new) (s.endClosed b new) := by
    have w := ((s.recordEnd b.id new).eachOpen_withdrawBooked b.id b.crane b.zones).1
    rw [closed]
    exact ⟨w.bookings, w.permits⟩
  have level : (s.endClosed b new).levelFor b.crane z = s.levelWithout b z := funext fun e =>
    (State.levelFor_congr table b.crane z e).trans (State.levelFor_ended h z e)
  have before : (s.endClosed b new).zone z = (s.endWithdrawn b new).zone z := by
    rw [closed]
    rfl
  obtain ⟨hin, hout⟩ := ((s.endClosed b new).relevelAll_acts b.crane b.zones).2 z
  obtain ⟨win, wout⟩ := s.endWithdrawn_zone (b := b) h z
  rw [level, before] at hin
  rw [before] at hout
  refine ⟨fun hz => ?_, fun hz => (hout hz).trans (wout hz)⟩
  obtain ⟨keeps, hk, hw⟩ := win hz
  exact ⟨keeps, hk, (hin hz).trans (by rw [← hw])⟩

theorem ZoneDyn.withdrawn_state (c : CraneId) (keeps : Bool) (d : ZoneDyn) :
    (d.withdrawn c keeps).state = d.state := by
  cases keeps <;> rfl

theorem ZoneState.relevelled_eq_free {c : CraneId} {level : Bool → Nat} {x : ZoneState} :
    x.relevelled c level = .free ↔ x = .free := by
  cases x with
  | held h => by_cases hc : h.holder = c <;> simp [ZoneState.relevelled, hc]
  | _ => simp [ZoneState.relevelled]

/-- A quiet end neither frees a zone nor takes a FREE one. -/
theorem State.endLevelled_free {s : State} {b : Booking} {new : BookingState} (h : new.terminal = true)
    (quiet : s.EndsQuietly b) (z : ZoneId) :
    ((s.endLevelled b new).zone z).state = .free ↔ (s.zone z).state = .free := by
  obtain ⟨hin, hout⟩ := State.endLevelled_of_quiet h quiet z
  by_cases hz : z ∈ b.zones
  · obtain ⟨keeps, -, hs⟩ := hin hz
    have state : ((s.endLevelled b new).zone z).state.sans =
        ((s.zone z).sans.withdrawn b.crane keeps).state.relevelled b.crane (s.levelWithout b z) :=
      (congrArg ZoneDyn.state hs :)
    rw [← ZoneState.sans_eq_free, state, ZoneState.relevelled_eq_free, ZoneDyn.withdrawn_state,
      ← ZoneState.sans_eq_free (x := (s.zone z).state)]
    rfl
  · rw [hout hz]

/-- Up to its levels an end places no claim, where it closes nothing. -/
theorem State.endLevelled_claimsFrom {s : State} {b : Booking} {new : BookingState} (h : new.terminal = true)
    (quiet : s.EndsQuietly b) : ClaimsFrom s (s.endLevelled b new) := by
  have k := claimsFrom_end
  have withdraw : ClaimsFrom s (s.endWithdrawn b new) :=
    k.trans (fun y cl hcl => ⟨cl, s.recordEnd_zone b.id new y ▸ hcl, rfl, rfl⟩)
      (k.toCascadeMoves.eachOpen Fin.val b.zones _ (fun z _ s => by
        unfold State.withdrawBooked
        split
        · exact k.refl s
        · exact k.toApplyMoves.dropClaims _ _ _ _) _)
  have closed := State.endClosed_of_quiet h quiet
  exact k.trans withdraw (k.trans (closed ▸ k.chosen _) (k.toLevelMoves.relevelAll _ _ _))

theorem State.postBooking_zone (s : State) (id : Nat) (old : BookingState) (cause : BookingCause) (z : ZoneId) :
    (s.postBooking id old cause).zone z = s.zone z := by
  unfold State.postBooking
  split
  · rfl
  · exact State.post_zone _ _ _ _

/-- Behind its levels a quiet end touches no zone: the end of a suspension finds nothing to grant (R132). -/
theorem State.endBooking_quiet {s : State} {b : Booking} {new : BookingState} (h : new.terminal = true)
    (cause : BookingCause) (hb : s.bookingById b.id = some b) (quiet : s.EndsQuietly b) (z : ZoneId) :
    (s.endBooking b.id new cause).zone z = (s.endLevelled b new).zone z := by
  rw [State.endBooking_eq new cause hb, State.postBooking_zone]
  split
  · next hs =>
    refine State.zone_of_zones (State.refreshSuspension_zones fun y hy => ?_) z
    rw [ne_eq, State.endLevelled_free h quiet y]
    refine quiet.grantsNone hs y ?_
    obtain ⟨cl, hcl⟩ := Option.isSome_iff_exists.1 hy
    obtain ⟨hmem, hc⟩ := State.claimOf_some hcl
    obtain ⟨x, hx, hxc, -⟩ := State.endLevelled_claimsFrom h quiet y cl hmem
    by_contra hno
    exact State.hasClaim_eq_false.1 (Bool.not_eq_true _ ▸ hno) x hx (hxc.trans hc)
  · rfl

/-! ### What an end leaves of its crane's claims (R58, R48) -/

theorem ZoneDyn.withdrawn_claim {c : CraneId} {keeps : Bool} {d : ZoneDyn} {cl : Claim}
    (hcl : d.queue.find? (·.crane == c) = some cl) (hk : cl.booked = false ∨ keeps = true) :
    (d.withdrawn c keeps).queue.find? (·.crane == c) = some cl := by
  cases keeps with
  | true => exact hcl
  | false =>
    have unbooked : cl.booked = false := hk.resolve_right (by decide)
    simp only [ZoneDyn.withdrawn, Bool.false_eq_true, if_false]
    generalize d.queue = q at hcl
    induction q with
    | nil => cases hcl
    | cons x xs ih =>
      rw [List.find?_cons] at hcl
      split at hcl
      · next hx =>
        cases hcl
        simp [unbooked, hx]
      · next hx =>
        have keep : (!(x.crane == c && x.booked)) = true := by simp [hx]
        rw [List.filter_cons, if_pos keep, List.find?_cons, hx]
        exact ih hcl

theorem ZoneDyn.withdrawn_others (c : CraneId) (keeps : Bool) (d : ZoneDyn) :
    dropCrane c (d.withdrawn c keeps).queue = dropCrane c d.queue := by
  cases keeps with
  | true => rfl
  | false =>
    simp only [ZoneDyn.withdrawn, Bool.false_eq_true, if_false, dropCrane, List.filter_filter]
    refine List.filter_congr fun cl _ => ?_
    by_cases h : cl.crane = c <;> simp [h]

/-- The end of a running booking (stage 2 of R153). -/
theorem bookingClaimsEnded {s : State} {b : Booking} {new : BookingState} (h : new.terminal = true)
    (cause : BookingCause) (hb : s.bookingById b.id = some b) :
    BookingClaimsEnded b s (s.endBooking b.id new cause) := by
  have quiet (q : s.EndsQuietly b) (z : ZoneId) := State.endBooking_quiet h cause hb q z ▸
    State.endLevelled_of_quiet h q z
  refine ⟨fun z hz hno cl hcl hc => ?_, fun q z hz cl hcl hk => ?_, fun q z hz x hx hc => ?_, fun q z => ?_,
    fun q z => (quiet q z).2⟩
  · obtain ⟨x, hx, hxc, hxb⟩ := State.endBooking_claimsFrom new cause hb z cl hcl
    obtain ⟨keeps, hk, hw⟩ := (s.endWithdrawn_zone (b := b) h z).1 hz
    have none : keeps = false := Bool.not_eq_true _ ▸ mt hk.1 hno
    subst none
    have queue : ((s.endWithdrawn b new).zone z).queue =
        (s.zone z).queue.filter fun cl => !(cl.crane == b.crane && cl.booked) := (congrArg ZoneDyn.queue hw :)
    rw [queue, List.mem_filter] at hx
    have := hx.2
    rw [hxc, hc] at this
    rw [← hxb]
    simpa using this
  · obtain ⟨keeps, hlisted, hs⟩ := (quiet q z).1 hz
    have queue : ((s.endBooking b.id new cause).zone z).queue = relevelledQueue b.crane (s.levelWithout b z)
        ((s.zone z).sans.withdrawn b.crane keeps).queue := (congrArg ZoneDyn.queue hs :)
    have found := ZoneDyn.withdrawn_claim (d := (s.zone z).sans) hcl (hk.imp_right hlisted.2)
    have claim := find?_relevelledQueue b.crane (s.levelWithout b z)
      ((s.zone z).sans.withdrawn b.crane keeps).queue
    rw [found, ← queue] at claim
    exact claim
  · obtain ⟨keeps, -, hs⟩ := (quiet q z).1 hz
    have state := congrArg ZoneDyn.state hs
    have held : ((s.zone z).sans.withdrawn b.crane keeps).state = .held { x with demand := none } := by
      rw [ZoneDyn.withdrawn_state]
      simp [ZoneDyn.sans, State.holding_eq_some.1 hx, ZoneState.sans]
    have level : (((s.zone z).sans.withdrawn b.crane keeps).relevelled b.crane
        (fun e => s.levelWithout b z e)).state =
        .held { x with level := s.levelWithout b z x.emergency, demand := none } := by
      simp only [ZoneDyn.relevelled, ZoneState.relevelled, held, hc, if_true]
    obtain ⟨d, hd⟩ := ZoneState.sans_held (state.trans level :)
    exact ⟨d, State.holding_eq_some.2 hd⟩
  · by_cases hz : z ∈ b.zones
    · obtain ⟨keeps, -, hs⟩ := (quiet q z).1 hz
      have queue : ((s.endBooking b.id new cause).zone z).queue = relevelledQueue b.crane (s.levelWithout b z)
          ((s.zone z).sans.withdrawn b.crane keeps).queue := (congrArg ZoneDyn.queue hs :)
      show dropCrane b.crane _ = dropCrane b.crane _
      rw [queue, dropCrane_relevelledQueue, ZoneDyn.withdrawn_others]
      rfl
    · rw [(quiet q z).2 hz]

/-! ### CANCEL (R157) -/

/-- What CANCEL of a booking that is not terminal shows of the state after it (R157). -/
structure Cancelled (b b' : Booking) (s t : State) : Prop where
  frame : CalendarFrame s t
  found : t.bookingById b.id = some b'
  entry : b' = { b with state := .cancelled, remaining := 0, terminalOrder := b'.terminalOrder }
  nextId : t.nextId = s.nextId
  order : TerminalOrderGiven s t b b'
  claims : b.state ≠ .booked → BookingClaimsEnded b s t
  closes : b.state ≠ .booked → (∀ z, (s.zone z).mark = false) → ∀ z,
    ((s.zone z).openedFor ≠ some b.id → (t.zone z).openedFor = (s.zone z).openedFor) ∧
      ((s.zone z).openedFor = some b.id → (t.zone z).openedFor = none ∧
        (∀ x, s.holding z = some x → t.heldBy z x.holder = true) ∧
        (s.holding z = none → (t.zone z).state = .closed))

theorem State.cancelBooking_outcome {s : State} {b : Booking} (hb : s.bookingById b.id = some b)
    (running : b.state.terminal = false) :
    Cancelled b (s.ended b.id .cancelled b) s (s.cancelBooking b) := by
  have table : BookingsStand (s.recordEnd b.id .cancelled) (s.cancelBooking b) := by
    unfold State.cancelBooking
    split
    · exact bookingsStand_zone.postBooking _ _ _ _
    · exact State.endBooking_table _ _ hb
  have ends (h : b.state ≠ .booked) : s.cancelBooking b = s.endBooking b.id .cancelled .cancel := if_neg h
  have recorded := State.recordEnd_eq s b.id (new := .cancelled) rfl
  have bookings : (s.cancelBooking b).bookings = s.bookings.map (s.ended b.id .cancelled) := by
    rw [table.bookings, recorded]
  have terminals : (s.cancelBooking b).terminals = s.lastOrder + 1 := by
    rw [table.terminals, recorded]
  refine ⟨?_, ?_, ?_, ?_, terminalOrderGiven rfl running bookings terminals, fun h => ?_, fun h hm z => ?_⟩
  · unfold State.cancelBooking
    split
    · exact calendarFrame_site.trans (calendarFrame_site.recordEnd _ _ _)
        (calendarFrame_site.toZoneMoves.postBooking _ _ _ _)
    · exact calendarFrame_site.endBooking _ _ _ _
  · rw [table.bookingById]
    exact State.recordEnd_found rfl hb
  · rw [State.ended_eq rfl running]
  · rw [table.nextId, recorded]
  · rw [ends h]
    exact bookingClaimsEnded rfl .cancel hb
  · rw [ends h]
    exact State.endBooking_closes rfl .cancel hb hm z

end Sys2Proof.Machine

namespace Sys2Proof.Proofs

open Sys2Proof.Machine

/-- Settles O37: `terminalOrderGiven` for the table, `bookingClaimsEnded` for the claims and
`State.endBooking_closes` for the zones. -/
theorem bookingCancelled : Obligations.BookingCancelled := by
  intro tag n s hr
  refine ⟨fun hn => ?_, fun b hb => ⟨fun hs => ?_, fun hs => ?_⟩⟩
  · refine refusedAs_planner .cancel rfl hr rfl ?_
    show serveCancel _ _ = _
    have hn' : (s.underway .planner).bookingById n.toNat = none := hn
    simp only [serveCancel, byteAt_cons_zero, hn']
  · refine refusedAs_planner .cancel rfl hr rfl ?_
    show serveCancel _ _ = _
    have hb' : (s.underway .planner).bookingById n.toNat = some b := hb
    have terminal : b.state.terminal = true := by rcases hs with h | h | h <;> rw [h] <;> rfl
    simp only [serveCancel, byteAt_cons_zero, hb', terminal, if_true]
  · have hid : b.id = n.toNat := State.bookingById_id hb
    have running : b.state.terminal = false := by rcases hs with h | h | h | h <;> rw [h] <;> rfl
    have hb' : (s.underway .planner).bookingById b.id = some b := hid ▸ hb
    have served : servePlanner .cancel [n] (s.underway .planner) =
        ({ result := .ok }, (s.underway .planner).cancelBooking b) := by
      show serveCancel _ _ = _
      simp only [serveCancel, byteAt_cons_zero, ← hid, hb', running, Bool.false_eq_true, if_false]
    obtain ⟨frame, found, entry, nextId, order, claims, closes⟩ :=
      State.cancelBooking_outcome (s := s.underway .planner) hb' running
    generalize (s.underway .planner).ended b.id .cancelled b = b' at *
    generalize (s.underway .planner).cancelBooking b = v at *
    rw [hid] at found
    refine ⟨_, b', servedAs_planner .cancel (reply := { result := .ok }) rfl hr rfl served rfl frame, found,
      entry, nextId, ?_, fun h => ?_, fun h hm z => closes h hm z⟩
    · exact ⟨order.counted, order.others, order.renumbered⟩
    · have c := claims h
      exact ⟨c.withdrawn, fun q => c.kept ⟨q.1, q.2, q.3⟩, fun q => c.grants ⟨q.1, q.2, q.3⟩,
        fun q => c.others ⟨q.1, q.2, q.3⟩, fun q => c.elsewhere ⟨q.1, q.2, q.3⟩⟩

end Sys2Proof.Proofs

/-! ## Notices of a restart (R170, R172, R180)

A posting touches the area and the link of its crane alone (`State.post_aside`), by what they were before it
(`State.post_congr`), and keeps the queue within its area, its NOTICE_LOSS flag set only over a full queue
(`State.NotesOk`). -/

namespace Sys2Proof.Machine

/-! ### A posting, aside and at its crane -/

theorem State.startTx_aside (s : State) {c d : CraneId} (h : d ≠ c) :
    (s.startTx (.crane c)).box d = s.box d ∧ (s.startTx (.crane c)).link (.crane d) = s.link (.crane d) := by
  have port : Port.crane d ≠ Port.crane c := fun e => h (Port.crane.inj e)
  unfold State.startTx
  simp only
  split
  · exact ⟨rfl, rfl⟩
  · split
    · exact ⟨rfl, State.editLink_link_other s _ port⟩
    · split
      · exact ⟨rfl, rfl⟩
      · exact ⟨State.editBox_box_other s _ h, State.editLink_link_other _ _ port⟩

/-- A posting touches no other crane's area or link. -/
theorem State.post_aside (s : State) {c d : CraneId} (n : Notice) (h : d ≠ c) :
    (s.post c n).box d = s.box d ∧ (s.post c n).link (.crane d) = s.link (.crane d) := by
  unfold State.post
  simp only
  split
  · obtain ⟨hb, hl⟩ := State.startTx_aside (s.editBox c fun b => { b with queue := b.queue ++ [n] }) h
    exact ⟨hb.trans (State.editBox_box_other s _ h), hl⟩
  · exact ⟨State.editBox_box_other s _ h, rfl⟩

theorem State.startTx_congr {s t : State} {c : CraneId} (hb : t.box c = s.box c)
    (hl : t.link (.crane c) = s.link (.crane c)) :
    (t.startTx (.crane c)).box c = (s.startTx (.crane c)).box c ∧
      (t.startTx (.crane c)).link (.crane c) = (s.startTx (.crane c)).link (.crane c) := by
  unfold State.startTx
  simp only [hb, hl]
  split
  · exact ⟨hb, hl⟩
  · split
    · refine ⟨hb, ?_⟩
      rw [State.editLink_link_same, State.editLink_link_same, hl]
    · split
      · exact ⟨hb, hl⟩
      · refine ⟨?_, ?_⟩
        · rw [State.editLink_box, State.editLink_box, State.editBox_box_same, State.editBox_box_same, hb]
        · rw [State.editLink_link_same, State.editLink_link_same, State.editBox_link, State.editBox_link, hl]

/-- What a posting makes of its crane's area and link depends on them alone. -/
theorem State.post_congr {s t : State} {c : CraneId} (n : Notice) (hb : t.box c = s.box c)
    (hl : t.link (.crane c) = s.link (.crane c)) :
    (t.post c n).box c = (s.post c n).box c ∧ (t.post c n).link (.crane c) = (s.post c n).link (.crane c) := by
  unfold State.post
  simp only [hb]
  split
  · refine State.startTx_congr ?_ hl
    rw [State.editBox_box_same, State.editBox_box_same, hb]
  · refine ⟨?_, hl⟩
    rw [State.setEvent_box, State.setEvent_box, State.editBox_box_same, State.editBox_box_same, hb]

/-! ### What stands in the queues -/

/-- The queue of crane `c` holds STAGE and BOOKING notices alone, keeps within its area, has lost a notice
only where it is full, and is empty where its next notice is sent at once (R167, R170). -/
structure State.NotesOk (c : CraneId) (s : State) : Prop where
  fits : (s.box c).queue.length ≤ (s.box c).capacity
  kinds : ∀ n ∈ (s.box c).queue, n.kind = 6 ∨ n.kind = 7
  loss : (s.box c).loss = true → (s.box c).queue.length = (s.box c).capacity
  idle : (s.link (.crane c)).serving = false → (s.link (.crane c)).tx = .idle →
    (s.link (.crane c)).buffer = none → (s.box c).queue = []

theorem State.NotesOk.congr {s t : State} {c : CraneId} (h : s.NotesOk c) (hb : t.box c = s.box c)
    (hl : t.link (.crane c) = s.link (.crane c)) : t.NotesOk c :=
  ⟨by rw [hb]; exact h.fits, by rw [hb]; exact h.kinds, by rw [hb]; exact h.loss, by rw [hb, hl]; exact h.idle⟩

/-- A notice appended to a queue with room, and sent where the transmitter is idle (R167, R170). -/
theorem State.NotesOk.startTx {s : State} {c : CraneId} {n : Notice} (h : s.NotesOk c)
    (hn : n.kind = 6 ∨ n.kind = 7) (room : (s.box c).queue.length < (s.box c).capacity) :
    ((s.editBox c fun b => { b with queue := b.queue ++ [n] }).startTx (.crane c)).NotesOk c := by
  have unlost : (s.box c).loss = false := by
    cases hl : (s.box c).loss with
    | false => rfl
    | true => exact absurd (h.loss hl) (by omega)
  have kinds : ∀ x ∈ (s.box c).queue ++ [n], x.kind = 6 ∨ x.kind = 7 := fun x hx => by
    rcases List.mem_append.1 hx with hx | hx
    · exact h.kinds x hx
    · rw [List.mem_singleton.1 hx]
      exact hn
  have busy {u : State} (hu : u.box c = { s.box c with queue := (s.box c).queue ++ [n] })
      (hl : (u.link (.crane c)).serving = true ∨ (u.link (.crane c)).tx ≠ .idle) : u.NotesOk c := by
    refine ⟨?_, by rw [hu]; exact kinds, by rw [hu, show NoticeBox.loss _ = false from unlost]; simp, ?_⟩
    · rw [hu]
      simp only [List.length_append, List.length_singleton, NoticeBox.capacity] at room ⊢
      omega
    · intro h1 h2
      rcases hl with hl | hl
      · rw [hl] at h1
        cases h1
      · exact absurd h2 hl
  have box : (s.editBox c fun b => { b with queue := b.queue ++ [n] }).box c =
    { s.box c with queue := (s.box c).queue ++ [n] } := State.editBox_box_same s c _
  unfold State.startTx
  simp only
  split
  · next hb =>
    refine busy box ?_
    simpa using hb
  · next hb =>
    simp only [State.editBox_link, Bool.or_eq_true, not_or, Bool.not_eq_true, bne_eq_false_iff_eq] at hb
    split
    · refine busy box (.inr ?_)
      rw [State.editLink_link_same]
      simp
    · next hbuf =>
      have empty := h.idle hb.1 hb.2 hbuf
      rw [box, empty]
      simp only [List.nil_append]
      have sent : ∀ u : State, u.box c = { s.box c with queue := [] } →
          (u.link (.crane c)).tx ≠ .idle → u.NotesOk c := fun u hu hl =>
        ⟨by rw [hu]; simp, by rw [hu]; simp, by rw [hu, show NoticeBox.loss _ = false from unlost]; simp,
          fun _ h2 => absurd h2 hl⟩
      refine sent _ ?_ ?_
      · rw [State.editLink_box, State.editBox_box_same, box]
      · rw [State.editLink_link_same]
        simp

theorem State.NotesOk.post {s : State} {c : CraneId} (h : s.NotesOk c) (d : CraneId) {n : Notice}
    (hn : n.kind = 6 ∨ n.kind = 7) : (s.post d n).NotesOk c := by
  by_cases hc : c = d
  · subst hc
    unfold State.post
    simp only
    split
    · next room => exact h.startTx hn room
    · next full =>
      have length : (s.box c).queue.length = (s.box c).capacity := by
        have := h.fits
        omega
      have box : ((s.editBox c fun b => { b with loss := true }).setEvent .noticeLoss).box c =
          { s.box c with loss := true } := State.editBox_box_same s c _
      exact ⟨by rw [box]; exact h.fits, by rw [box]; exact h.kinds, by rw [box]; exact fun _ => length,
        by rw [box]; exact h.idle⟩
  · obtain ⟨hb, hl⟩ := State.post_aside s n hc
    exact h.congr hb hl

/-! ### The frame of a restart -/

/-- A booking but for what moves of it (R148). -/
def Booking.core (b : Booking) : Booking :=
  { b with state := .booked, remaining := 0, short := false, notPlaced := 0 }

/-- A permit but for its booking-suspension mark. -/
def Permit.unsuspended (p : Permit) : Permit := { p with suspended := false }

/-- What the stages 5 to 7 of a restart leave alone (R180): all but wind records, zones, the moving fields
of bookings, the booking-suspension marks, flags that get set, and notices posted. -/
structure RestartFrame (s t : State) : Prop where
  lines : t.lines = s.lines
  enables : t.enables = s.enables
  restart : t.restart = s.restart
  channels : t.channels = s.channels
  positions : t.positions = s.positions
  active : t.active = s.active
  shadow : t.shadow = s.shadow
  clock : t.clock = s.clock
  leadTime : t.leadTime = s.leadTime
  nextId : t.nextId = s.nextId
  terminals : t.terminals = s.terminals
  pending : t.pending = s.pending
  flags : ∀ e, s.event e = true → t.event e = true
  planner : t.link .planner = s.link .planner
  links : ∀ c, (s.link (.crane c)).mayStart (t.link (.crane c))
  areas : ∀ c, (t.box c).start = (s.box c).start ∧ (t.box c).stop = (s.box c).stop
  notes : ∀ c, s.NotesOk c → t.NotesOk c
  bookings : t.bookings.map Booking.core = s.bookings.map Booking.core
  permits : ∀ c, (t.permit c).map Permit.unsuspended = (s.permit c).map Permit.unsuspended

theorem RestartFrame.refl (s : State) : RestartFrame s s := by
  constructor
  case links => exact fun c => Link.mayStart_refl _
  case areas => exact fun c => ⟨rfl, rfl⟩
  case flags => exact fun _ he => he
  case notes => exact fun c => id
  case permits => exact fun c => rfl
  all_goals rfl

theorem RestartFrame.trans {s t u : State} (h : RestartFrame s t) (k : RestartFrame t u) : RestartFrame s u where
  lines := k.lines.trans h.lines
  enables := k.enables.trans h.enables
  restart := k.restart.trans h.restart
  channels := k.channels.trans h.channels
  positions := k.positions.trans h.positions
  active := k.active.trans h.active
  shadow := k.shadow.trans h.shadow
  clock := k.clock.trans h.clock
  leadTime := k.leadTime.trans h.leadTime
  nextId := k.nextId.trans h.nextId
  terminals := k.terminals.trans h.terminals
  pending := k.pending.trans h.pending
  flags e he := k.flags e (h.flags e he)
  planner := k.planner.trans h.planner
  links c := Link.mayStart_trans (h.links c) (k.links c)
  areas c := ⟨(k.areas c).1.trans (h.areas c).1, (k.areas c).2.trans (h.areas c).2⟩
  notes c hc := k.notes c (h.notes c hc)
  bookings := k.bookings.trans h.bookings
  permits c := (k.permits c).trans (h.permits c)

/-- A crane without bookings gets none in a restart. -/
theorem crane_ne_of_core {bs cs : List Booking} (h : cs.map Booking.core = bs.map Booking.core) {c : CraneId}
    (hb : ∀ b ∈ bs, b.crane ≠ c) : ∀ b ∈ cs, b.crane ≠ c := by
  intro b hmem
  obtain ⟨x, hx, he⟩ := List.mem_map.1 (h ▸ List.mem_map_of_mem (f := Booking.core) hmem)
  have crane : x.crane = b.crane := (congrArg Booking.crane he :)
  exact crane ▸ hb x hx

/-- What a restart leaves alone of a crane that is not being governed: its wind record, and, where it has no
bookings, its area and link. -/
structure JumpFrame (s t : State) : Prop extends RestartFrame s t where
  winds : t.winds = s.winds
  untouched : ∀ c, (∀ b ∈ s.bookings, b.crane ≠ c) →
    t.box c = s.box c ∧ t.link (.crane c) = s.link (.crane c)

theorem JumpFrame.refl (s : State) : JumpFrame s s :=
  ⟨.refl s, rfl, fun _ _ => ⟨rfl, rfl⟩⟩

theorem JumpFrame.trans {s t u : State} (h : JumpFrame s t) (k : JumpFrame t u) : JumpFrame s u :=
  ⟨h.toRestartFrame.trans k.toRestartFrame, k.winds.trans h.winds, fun c hc => by
    obtain ⟨hb, hl⟩ := h.untouched c hc
    obtain ⟨kb, kl⟩ := k.untouched c (crane_ne_of_core h.bookings hc)
    exact ⟨kb.trans hb, kl.trans hl⟩⟩

/-- Zones, the arrival counter and the count of open orders are not in the frame. -/
theorem JumpFrame.rezone (s : State) (zs : Table ZoneDyn 48) (arrivals choice : Nat) :
    JumpFrame s { s with zones := zs, arrivals := arrivals, choice := choice } := by
  refine ⟨?_, rfl, fun _ _ => ⟨rfl, rfl⟩⟩
  constructor
  case links => exact fun c => Link.mayStart_refl _
  case areas => exact fun c => ⟨rfl, rfl⟩
  case flags => exact fun _ he => he
  case notes => exact fun c hc => hc.congr rfl rfl
  case permits => exact fun c => rfl
  all_goals rfl

theorem JumpFrame.setEvent (s : State) (e : SiteEvent) : JumpFrame s (s.setEvent e) := by
  refine ⟨?_, rfl, fun _ _ => ⟨rfl, rfl⟩⟩
  constructor
  case links => exact fun c => Link.mayStart_refl _
  case areas => exact fun c => ⟨rfl, rfl⟩
  case flags =>
    intro x hx
    rw [State.setEvent_event, hx, Bool.or_true]
  case notes => exact fun c hc => hc.congr rfl rfl
  case permits => exact fun c => rfl
  all_goals rfl

/-- An edit of a booking's moving fields. -/
theorem JumpFrame.editBooking (s : State) (id : Nat) {f : Booking → Booking} (hf : Booking.MovesOnly f) :
    JumpFrame s (s.editBooking id f) := by
  refine ⟨?_, rfl, fun _ _ => ⟨rfl, rfl⟩⟩
  constructor
  case links => exact fun c => Link.mayStart_refl _
  case areas => exact fun c => ⟨rfl, rfl⟩
  case flags => exact fun _ he => he
  case notes => exact fun c hc => hc.congr rfl rfl
  case permits => exact fun c => rfl
  case bookings =>
    rw [State.editBooking_bookings, List.map_map]
    refine List.map_congr_left fun b _ => ?_
    simp only [Function.comp_apply]
    split
    · rw [hf b]
      rfl
    · rfl
  all_goals rfl

/-- The booking-suspension mark of a permit. -/
theorem JumpFrame.editPermit {s : State} {c : CraneId} {p q : Permit} (hp : s.permit c = some p)
    (hq : q.unsuspended = p.unsuspended) : JumpFrame s (s.editPermit c fun _ => q) := by
  refine ⟨?_, rfl, fun _ _ => ⟨rfl, rfl⟩⟩
  constructor
  case links => exact fun c => Link.mayStart_refl _
  case areas => exact fun c => ⟨rfl, rfl⟩
  case flags => exact fun _ he => he
  case notes => exact fun c hc => hc.congr rfl rfl
  case permits =>
    intro d
    rw [State.editPermit_permit]
    split
    · next e => rw [e, hp, Option.map_some, Option.map_some, Option.map_some, hq]
    · rfl
  all_goals rfl

/-- A STAGE or BOOKING notice. -/
theorem RestartFrame.post (s : State) (c : CraneId) {n : Notice} (hn : n.kind = 6 ∨ n.kind = 7) :
    RestartFrame s (s.post c n) := by
  have h := handOffs_cascade.post s c n
  refine ⟨h.lines, h.enables, h.restart, h.channels, State.post_positions s c n, h.active, h.shadow, h.clock,
    h.leadTime, h.nextId, h.terminals, h.pending, h.flags, h.planner, fun c => h.links (.crane c),
    fun d => ⟨(h.boxes d).1, (h.boxes d).2.1⟩, fun d hd => hd.post c hn, ?_, fun d => ?_⟩
  · rw [State.post_bookings]
  · simp only [State.permit, State.post_permits]

/-- A BOOKING notice of a booking's crane. -/
theorem JumpFrame.postBooking (s : State) (id : Nat) (old : BookingState) (cause : BookingCause) :
    JumpFrame s (s.postBooking id old cause) := by
  unfold State.postBooking
  split
  · exact .refl s
  · next b hb =>
    refine ⟨.post s b.crane (.inr rfl), State.post_winds _ _ _, fun c hc => State.post_aside s _ ?_⟩
    exact fun e => hc b (List.mem_of_find?_eq_some hb) e.symm

end Sys2Proof.Machine

/-! ## Judging at a restart (R158, R160)

No zone is held and every permit is OFFLINE (`State.Restarting`), so nothing is granted, examined or
tripped: the judgement of a booking edits its fields, places booked claims, opens zones and posts. -/

namespace Sys2Proof.Machine

/-- A booking of crane `c` in ARMED, ACTIVE or SUSPENDED lists zone `z`. -/
def State.lists (c : CraneId) (z : ZoneId) (s : State) : Prop :=
  ∃ b ∈ s.bookings, b.crane = c ∧ z ∈ b.zones ∧ b.state.counts = true

/-- A claim of a restart: booked, by a booking that runs, with an arrival sequence of the counter. -/
def State.restartClaim (z : ZoneId) (s : State) (cl : Claim) : Prop :=
  cl.booked = true ∧ cl.emergency = false ∧ 1 ≤ cl.arrival ∧ cl.arrival ≤ s.arrivals ∧ s.lists cl.crane z

/-- The zones, claims and permits while the bookings are judged at a restart (R20, R134, R160); the
booking-suspension marks are those of `mark`. -/
structure State.Restarting (mark : CraneId → Bool) (s : State) : Prop where
  permits : ∀ c p, s.permit c = some p → p.state = .offline ∧ p.suspended = mark c
  unmarked : ∀ z, (s.zone z).mark = false
  shared : ∀ z, (s.record z).kind = .shared → (s.zone z).state = .free
  excluded : ∀ z, (s.record z).kind = .excluded →
    (s.zone z).state = if (s.zone z).openedFor = none then .closed else .free
  claims : ∀ z, ∀ cl ∈ (s.zone z).queue, s.restartClaim z cl

namespace State.Restarting

variable {mark : CraneId → Bool} {s : State}

theorem holding (h : s.Restarting mark) (z : ZoneId) : s.holding z = none := by
  unfold State.holding
  cases hk : (s.record z).kind with
  | shared => rw [h.shared z hk]; rfl
  | excluded =>
    rw [h.excluded z hk]
    split <;> rfl

theorem heldBy (h : s.Restarting mark) (z : ZoneId) (c : CraneId) : s.heldBy z c = false := by
  simp [State.heldBy, h.holding z]

theorem offline (h : s.Restarting mark) (c : CraneId) : s.permitState c = .offline := by
  unfold State.permitState
  split
  · next p hp => exact (h.permits c p hp).1
  · rfl

/-- An OFFLINE crane is granted nothing (R53). -/
theorem firstEligible (h : s.Restarting mark) (z : ZoneId) : s.firstEligible z = none := by
  refine List.find?_eq_none.2 fun cl _ => ?_
  simp [State.grantable, State.grantableButMark, h.offline cl.crane]

theorem evaluate (h : s.Restarting mark) (z : ZoneId) : s.evaluate z = s :=
  State.evaluate_of_none (h.firstEligible z)

end State.Restarting

theorem State.examine_of_none {s : State} {z : ZoneId} (h : s.holding z = none) : s.examine z = s := by
  simp only [State.examine, h]

/-! ### One state behind the other -/

/-- A restart has led from `s` to `t`. -/
structure Passes (s : State) (mark : CraneId → Bool) (t : State) : Prop where
  now : t.Restarting mark
  frame : JumpFrame s t
  lists : ∀ c z, s.lists c z → t.lists c z

theorem Passes.refl {mark : CraneId → Bool} {s : State} (h : s.Restarting mark) : Passes s mark s :=
  ⟨h, .refl s, fun _ _ => id⟩

/-- What keeps bookings, records and permits, the marks apart, and touches no more of the zones than queues. -/
theorem State.Restarting.congr {m m' : CraneId → Bool} {s t : State} (h : s.Restarting m)
    (ha : t.active = s.active) (hz : t.zones = s.zones) (hn : t.arrivals = s.arrivals)
    (hl : ∀ c z, s.lists c z → t.lists c z)
    (hp : ∀ c p, t.permit c = some p → p.state = .offline ∧ p.suspended = m' c) : t.Restarting m' := by
  have zone (z : ZoneId) : t.zone z = s.zone z := State.zone_of_zones hz z
  have record (z : ZoneId) : t.record z = s.record z := by simp only [State.record, ha]
  refine ⟨hp, fun z => ?_, fun z => ?_, fun z => ?_, fun z cl hcl => ?_⟩
  · rw [zone]; exact h.unmarked z
  · rw [zone, record]; exact h.shared z
  · rw [zone, record]; exact h.excluded z
  · rw [zone] at hcl
    obtain ⟨h1, h2, h3, h4, h5⟩ := h.claims z cl hcl
    exact ⟨h1, h2, h3, hn ▸ h4, hl _ _ h5⟩

theorem State.lists_of_bookings {s t : State} (h : t.bookings = s.bookings) (c : CraneId) (z : ZoneId) :
    s.lists c z → t.lists c z := by
  unfold State.lists
  rw [h]
  exact id

namespace Passes

variable {s u : State} {mark : CraneId → Bool}

theorem each {α : Type} (h : Passes s mark u) (xs : List α) (f : α → State → State)
    (hf : ∀ x ∈ xs, ∀ v, Passes s mark v → Passes s mark (f x v)) : Passes s mark (u.each xs f) := by
  induction xs generalizing u with
  | nil => exact h
  | cons x xs ih => exact ih (hf x (by simp) u h) fun y hy => hf y (by simp [hy])

theorem chosen (h : Passes s mark u) : Passes s mark u.chosen :=
  ⟨h.now.congr rfl rfl rfl (fun _ _ => id) h.now.permits, h.frame.trans (.rezone u u.zones u.arrivals _), h.lists⟩

theorem eachOpen {α : Type} (h : Passes s mark u) (key : α → Nat) (xs : List α) (f : α → State → State)
    (hf : ∀ x ∈ xs, ∀ v, Passes s mark v → Passes s mark (f x v)) : Passes s mark (u.eachOpen key xs f) :=
  h.chosen.each _ f fun x hx => hf x ((State.mem_arranged key xs u x).1 hx)

theorem setEvent (h : Passes s mark u) (e : SiteEvent) : Passes s mark (u.setEvent e) :=
  ⟨h.now.congr rfl rfl rfl (fun _ _ => id) h.now.permits, h.frame.trans (.setEvent u e), h.lists⟩

theorem postBooking (h : Passes s mark u) (id : Nat) (old : BookingState) (cause : BookingCause) :
    Passes s mark (u.postBooking id old cause) := by
  have frame := JumpFrame.postBooking u id old cause
  have same : BookingsStand u (u.postBooking id old cause) := bookingsStand_zone.postBooking id old cause u
  have rest : (u.postBooking id old cause).zones = u.zones ∧ (u.postBooking id old cause).arrivals = u.arrivals ∧
      (u.postBooking id old cause).permits = u.permits := by
    unfold State.postBooking
    split
    · exact ⟨rfl, rfl, rfl⟩
    · exact ⟨State.post_zones _ _ _, (handOffs_cascade.post _ _ _).arrivals, State.post_permits _ _ _⟩
  obtain ⟨zones, arrivals, permits⟩ := rest
  have lists := State.lists_of_bookings same.bookings
  refine ⟨h.now.congr frame.active zones arrivals lists ?_, h.frame.trans frame,
    fun c z hl => lists c z (h.lists c z hl)⟩
  simpa only [State.permit, permits] using h.now.permits

/-- An edit of a booking's moving fields that takes none out of ARMED, ACTIVE and SUSPENDED. -/
theorem editBooking (h : Passes s mark u) (id : Nat) {f : Booking → Booking} (hf : Booking.MovesOnly f)
    (hc : ∀ b, b.state.counts = true → (f b).state.counts = true) : Passes s mark (u.editBooking id f) := by
  have lists (c : CraneId) (z : ZoneId) : u.lists c z → (u.editBooking id f).lists c z := by
    rintro ⟨b, hb, hcr, hz, hs⟩
    refine ⟨_, List.mem_map.2 ⟨b, hb, rfl⟩, ?_⟩
    split
    · refine ⟨?_, ?_, hc b hs⟩
      · rw [hf b]; exact hcr
      · rw [hf b]; exact hz
    · exact ⟨hcr, hz, hs⟩
  exact ⟨h.now.congr rfl rfl rfl lists h.now.permits, h.frame.trans (.editBooking u id hf),
    fun c z hl => lists c z (h.lists c z hl)⟩

/-- A change of queues and arrival counter alone. -/
theorem requeue (h : Passes s mark u) {t : State} {zs : Table ZoneDyn 48} {n k : Nat}
    (ht : t = { u with zones := zs, arrivals := n, choice := k })
    (hz : ∀ z, t.zone z = { u.zone z with queue := (t.zone z).queue })
    (hq : ∀ z, ∀ cl ∈ (t.zone z).queue, t.restartClaim z cl) : Passes s mark t := by
  have frame : JumpFrame u t := ht ▸ .rezone u zs n k
  have bookings : t.bookings = u.bookings := by rw [ht]
  have permits : t.permits = u.permits := by rw [ht]
  have record (z : ZoneId) : t.record z = u.record z := by simp only [State.record, frame.active]
  refine ⟨⟨?_, fun z => ?_, fun z => ?_, fun z => ?_, hq⟩, h.frame.trans frame,
    fun c z hl => State.lists_of_bookings bookings c z (h.lists c z hl)⟩
  · simpa only [State.permit, permits] using h.now.permits
  · rw [hz z]; exact h.now.unmarked z
  · rw [hz z, record]; exact h.now.shared z
  · rw [hz z, record]; exact h.now.excluded z

/-- A change of one queue, whose claims are those of a restart. -/
theorem editQueue (h : Passes s mark u) (z : ZoneId) (g : List Claim → List Claim)
    (hg : ∀ cl ∈ g (u.zone z).queue, u.restartClaim z cl) :
    Passes s mark (u.editZone z fun d => { d with queue := g d.queue }) := by
  refine h.requeue (zs := Table.edit u.zones z fun d => { d with queue := g d.queue }) (n := u.arrivals)
    (k := u.choice) rfl (fun y => ?_) fun y cl hcl => ?_
  · rw [State.editZone_zone]
    split <;> rfl
  · rw [State.editZone_zone] at hcl
    split at hcl
    · next e =>
      subst e
      exact hg cl hcl
    · exact h.now.claims y cl hcl

/-! ### Levels and placements -/

theorem relevel (h : Passes s mark u) (c : CraneId) (z : ZoneId) : Passes s mark (u.relevel c z) := by
  have claim : Passes s mark (u.relevelClaim c z) := by
    cases hcl : u.claimOf z c with
    | none => rwa [State.relevelClaim_of_none hcl]
    | some cl =>
      rw [State.relevelClaim_of_some hcl]
      refine h.editQueue z (fun q => insertClaim _ (dropCrane c q)) fun x hx => ?_
      rcases mem_insertClaim.1 hx with rfl | hx
      · exact h.now.claims z cl (State.claimOf_some hcl).1
      · exact h.now.claims z x (mem_dropCrane.1 hx).1
  unfold State.relevel
  simp only [State.relevelGrant_of_none (claim.now.holding z), State.examine_of_none (claim.now.holding z),
    ite_self]
  exact claim

theorem relevelAll (h : Passes s mark u) (c : CraneId) (zs : List ZoneId) : Passes s mark (u.relevelAll c zs) :=
  h.eachOpen _ _ _ fun z _ _ hv => hv.relevel c z

theorem remark (h : Passes s mark u) (c : CraneId) (z : ZoneId) :
    Passes s mark (u.editZone z fun d =>
      { d with queue := d.queue.map fun cl => if cl.crane == c then { cl with booked := true } else cl }) := by
  refine h.editQueue z (fun q => q.map fun cl => if cl.crane == c then { cl with booked := true } else cl)
    fun x hx => ?_
  obtain ⟨cl, hcl, rfl⟩ := List.mem_map.1 hx
  obtain ⟨h1, h2, h3, h4, h5⟩ := h.now.claims z cl hcl
  split
  · exact ⟨rfl, h2, h3, h4, h5⟩
  · exact ⟨h1, h2, h3, h4, h5⟩

/-- Arrival sequences given anew are those of the counter (R45). -/
theorem renumbered (h : Passes s mark u) : Passes s mark u.renumbered := by
  have zone (z : ZoneId) : u.renumbered.zone z =
      { u.zone z with queue := (u.zone z).queue.map fun cl => { cl with arrival :=
        ((u.allClaims.map (·.arrival)).filter (· ≤ cl.arrival)).length } } := by
    simp only [State.renumbered, State.zone, Table.entry_mapAll]
  have arrivals : u.renumbered.arrivals = (u.allClaims.map (·.arrival)).length := rfl
  refine h.requeue (t := u.renumbered) rfl (fun z => by rw [zone]) fun z cl hcl => ?_
  rw [zone] at hcl
  obtain ⟨x, hx, rfl⟩ := List.mem_map.1 hcl
  obtain ⟨h1, h2, -, -, h5⟩ := h.now.claims z x hx
  have mem : x.arrival ∈ u.allClaims.map (·.arrival) := by
    refine List.mem_map_of_mem (List.mem_flatMap.2 ⟨u.zone z, ?_, hx⟩)
    rw [State.zones_toList]
    exact List.mem_map_of_mem (by simp [allZones])
  have low : 0 < ((u.allClaims.map (·.arrival)).filter fun n => decide (n ≤ x.arrival)).length :=
    List.length_pos_of_mem (List.mem_filter.2 ⟨mem, decide_eq_true (le_refl x.arrival)⟩)
  have high := List.length_filter_le (fun n => decide (n ≤ x.arrival)) (u.allClaims.map (·.arrival))
  rw [← arrivals] at high
  have bookings : u.renumbered.bookings = u.bookings := by simp only [State.renumbered]
  have lists : u.renumbered.lists x.crane z := State.lists_of_bookings bookings x.crane z h5
  exact ⟨h1, h2, low, high, lists⟩

/-- A booked claim of a listed zone, behind every other arrival (R45, R51). -/
theorem place (h : Passes s mark u) {c : CraneId} {z : ZoneId} (hl : s.lists c z) :
    Passes s mark (u.place z c true false) := by
  obtain ⟨v, cl, hv, hc, hb, he, ha, heq⟩ := State.place_eq u z c true false
  have pv : Passes s mark v := by
    rcases hv with rfl | rfl
    · exact h
    · exact h.renumbered
  rw [heq]
  refine pv.requeue (zs := Table.edit v.zones z fun d => { d with queue := insertClaim cl d.queue })
    (n := v.arrivals + 1) (k := v.choice) rfl (fun y => ?_) fun y x hx => ?_
  · rw [State.editZone_zone]
    split <;> rfl
  · have old : ∀ x ∈ (v.zone y).queue, (({ v with arrivals := v.arrivals + 1 } : State).editZone z fun d =>
        { d with queue := insertClaim cl d.queue }).restartClaim y x := fun x hx => by
      obtain ⟨h1, h2, h3, h4, h5⟩ := pv.now.claims y x hx
      exact ⟨h1, h2, h3, Nat.le_succ_of_le h4, h5⟩
    rw [State.editZone_zone] at hx
    split at hx
    · next e =>
      subst e
      rcases mem_insertClaim.1 hx with rfl | hx
      · exact ⟨hb, he, ha ▸ Nat.le_add_left 1 _, ha ▸ le_rfl, hc ▸ pv.lists c y hl⟩
      · exact old x hx
    · exact old x hx

theorem placeBooked (h : Passes s mark u) {c : CraneId} {z : ZoneId} (hl : s.lists c z) :
    Passes s mark (u.placeBooked c z).2 := by
  unfold State.placeBooked
  split
  · exact h
  split
  · exact h
  split
  · exact h.relevel c z
  split
  · exact (h.remark c z).relevel c z
  split
  · exact h
  · have placed := h.place hl
    rw [placed.now.evaluate, State.examine_of_none (placed.now.holding z)]
    exact placed

theorem placeListed (h : Passes s mark u) (id : Nat) {c : CraneId} {z : ZoneId} (hl : s.lists c z) :
    Passes s mark (u.placeListed id c z) := by
  have placed := h.placeBooked hl
  unfold State.placeListed
  split
  · next v hv => rwa [hv] at placed
  · next v hv =>
    rw [hv] at placed
    exact placed.editBooking id (fun _ => rfl) fun _ hs => hs

/-! ### Arming and starting -/

/-- Where the base state already lists what is placed. -/
theorem rebase (h : Passes s mark u) {t : State} {m : CraneId → Bool} (k : Passes u m t) : Passes s m t :=
  ⟨k.now, h.frame.trans k.frame, fun c z hl => k.lists c z (h.lists c z hl)⟩

theorem armBooking (h : Passes s mark u) {id : Nat} {b : Booking} (cause : BookingCause)
    (hb : u.bookingById id = some b) : Passes s mark (u.armBooking id cause) := by
  unfold State.armBooking
  rw [hb]
  simp only
  have armed : Passes s mark (u.editBooking id fun b => { b with state := .armed, short := false, notPlaced := 0 }) :=
    h.editBooking id (fun _ => rfl) fun _ _ => rfl
  refine armed.rebase ?_
  have lists (z : ZoneId) (hz : z ∈ b.zones) : (u.editBooking id fun b =>
      { b with state := .armed, short := false, notPlaced := 0 }).lists b.crane z := by
    refine ⟨_, List.mem_map.2 ⟨b, List.mem_of_find?_eq_some hb, rfl⟩, ?_⟩
    rw [if_pos (List.find?_some hb)]
    exact ⟨rfl, hz, rfl⟩
  exact (((Passes.refl armed.now).each _ _ fun z hz v hv => hv.placeListed id (lists z hz)).relevelAll _ _).postBooking
    _ _ _

/-- An EXCLUDED zone opened, with nothing to grant (R8). -/
theorem openZone (h : Passes s mark u) (id : Nat) {z : ZoneId} (hk : (u.record z).kind = .excluded) :
    Passes s mark (u.openZone id z) := by
  have opened : Passes s mark (u.openFor id z) := by
    have state : (u.zone z).state = .closed ∨ (u.zone z).state = .free := by
      rw [h.now.excluded z hk]
      split
      · exact .inl rfl
      · exact .inr rfl
    have zone (y : ZoneId) : (u.openFor id z).zone y =
        if y = z then { u.zone y with openedFor := some id, state := .free } else u.zone y := by
      rw [State.openFor_zone]
      split
      · next e =>
        subst e
        rcases state with hs | hs <;> rw [hs]
      · rfl
    have record (y : ZoneId) : (u.openFor id z).record y = u.record y := rfl
    refine ⟨⟨h.now.permits, fun y => ?_, fun y hy => ?_, fun y hy => ?_, fun y cl hcl => ?_⟩,
      h.frame.trans (.rezone u (u.openFor id z).zones u.arrivals u.choice), h.lists⟩
    · rw [zone]
      split
      · exact h.now.unmarked y
      · exact h.now.unmarked y
    · rw [zone]
      split
      · rfl
      · exact h.now.shared y hy
    · rw [zone]
      split
      · simp
      · exact h.now.excluded y hy
    · refine h.now.claims y cl ?_
      rw [zone] at hcl
      split at hcl <;> exact hcl
  unfold State.openZone
  simp only
  split
  · rw [opened.now.evaluate]; exact opened
  · rw [opened.now.evaluate]; exact opened
  · exact opened
  · exact opened

/-- The booking-suspension mark of an OFFLINE crane (R132, R155). -/
theorem refreshSuspension (h : Passes s mark u) (c : CraneId) :
    Passes s (fun d => if d = c then u.suspendedBooking c else mark d) (u.refreshSuspension c) ∧
      (u.refreshSuspension c).bookings = u.bookings := by
  unfold State.refreshSuspension
  split
  · next hp =>
    refine ⟨⟨h.now.congr rfl rfl rfl (fun _ _ => id) fun d q hq => ⟨(h.now.permits d q hq).1, ?_⟩, h.frame, h.lists⟩,
      rfl⟩
    rw [if_neg (fun e => by rw [e, hp] at hq; cases hq)]
    exact (h.now.permits d q hq).2
  · next p hp =>
    obtain ⟨hoff, hmark⟩ := h.now.permits c p hp
    split
    · next hsame =>
      refine ⟨⟨h.now.congr rfl rfl rfl (fun _ _ => id) fun d q hq => ⟨(h.now.permits d q hq).1, ?_⟩, h.frame,
        h.lists⟩, rfl⟩
      split
      · next e =>
        rw [e, hp] at hq
        cases hq
        simpa using hsame
      · exact (h.now.permits d q hq).2
    · have offline : (({ p with suspended := u.suspendedBooking c } : Permit).rearmed (u.wind c).stage) =
          { p with suspended := u.suspendedBooking c } := by
        simp [Permit.rearmed, hoff, PermitState.armed]
      unfold State.replacePermit
      simp only [offline, if_true]
      have frame : JumpFrame u (u.editPermit c fun _ => { p with suspended := u.suspendedBooking c }) :=
        .editPermit hp rfl
      refine ⟨⟨h.now.congr rfl rfl rfl (fun _ _ => id) fun d q hq => ?_, h.frame.trans frame, h.lists⟩, rfl⟩
      rw [State.editPermit_permit] at hq
      split at hq
      · next e =>
        rw [e, hp] at hq
        cases hq
        exact ⟨hoff, by rw [if_pos e]⟩
      · next e => exact ⟨(h.now.permits d q hq).1, by rw [if_neg e]; exact (h.now.permits d q hq).2⟩

/-- A start under a blind wind record suspends the booking, and marks its crane (R151, R154, R155). -/
theorem startBooking (h : Passes s mark u) {id : Nat} {b : Booking} (left : Nat) (cause : BookingCause)
    (hb : u.bookingById id = some b) (hw : (u.wind b.crane).blind = true) :
    Passes s (fun d => if d = b.crane then (u.startBooking id left cause).suspendedBooking b.crane else mark d)
      (u.startBooking id left cause) := by
  have suspends : (u.wind b.crane).suspends b.windLimit = true := by simp [Wind.suspends, hw]
  obtain ⟨v, hv, heq⟩ : ∃ v, Passes s mark v ∧ u.startBooking id left cause =
      ((v.refreshSuspension b.crane).setEvent .booking).postBooking id .armed cause := by
    unfold State.startBooking
    rw [hb]
    simp only [suspends, if_true]
    have levelled := (h.editBooking id (f := fun b => { b with remaining := left, state := .suspended })
      (fun _ => rfl) fun _ _ => rfl).relevelAll b.crane b.zones
    refine ⟨_, ?_, rfl⟩
    split
    · refine levelled.rebase ((Passes.refl levelled.now).eachOpen _ _ _ fun z hz v hv => hv.openZone id ?_)
      have excluded := (List.mem_filter.1 hz).2
      have record := hv.frame.active
      simpa only [State.record, record, beq_iff_eq] using excluded
    · exact levelled
  obtain ⟨refreshed, bookings⟩ := hv.refreshSuspension b.crane
  have same : (u.startBooking id left cause).bookings = v.bookings := by
    rw [heq]
    exact (bookingsStand_zone.postBooking _ _ _ _).bookings.trans bookings
  have marked : (u.startBooking id left cause).suspendedBooking b.crane = v.suspendedBooking b.crane := by
    simp only [State.suspendedBooking, same]
  rw [marked, heq]
  exact (refreshed.setEvent .booking).postBooking id .armed cause

end Passes

end Sys2Proof.Machine

/-! ## The bookings of a restart, one by one (R158, R160)

Each booking whose window or arm window has come is judged once (`Judged.each`); the others stand. -/

namespace Sys2Proof.Machine

/-! ### Entries by their ids -/

theorem eq_of_id {bs : List Booking} (h : (bs.map (·.id)).Nodup) {a b : Booking} (ha : a ∈ bs) (hb : b ∈ bs)
    (hid : a.id = b.id) : a = b := List.inj_on_of_nodup_map h ha hb hid

theorem State.bookingById_of_mem {s : State} (h : (s.bookings.map (·.id)).Nodup) {b : Booking}
    (hb : b ∈ s.bookings) : s.bookingById b.id = some b := by
  obtain ⟨a, ha⟩ := Option.isSome_iff_exists.1
    (List.find?_isSome.2 ⟨b, hb, by simp⟩ : (s.bookings.find? (·.id == b.id)).isSome = true)
  have hid : a.id = b.id := by simpa using List.find?_some ha
  exact ha.trans (congrArg some (eq_of_id h (List.mem_of_find?_eq_some ha) hb hid))

theorem ids_of_core {bs cs : List Booking} (h : cs.map Booking.core = bs.map Booking.core) :
    cs.map (·.id) = bs.map (·.id) := by
  have := congrArg (List.map (·.id)) h
  simpa [Function.comp_def, Booking.core] using this

/-! ### The marks that the table gives (R155) -/

/-- An edit of one booking's moving fields changes whether a crane has a SUSPENDED booking only where it
makes one, or ends one, of that crane. -/
theorem State.suspendedBooking_of_edit {u t : State} {id : Nat} {f : Booking → Booking} {b : Booking}
    {c : CraneId} (ht : t.bookings = (u.editBooking id f).bookings) (hf : Booking.MovesOnly f)
    (huniq : ∀ o ∈ u.bookings, o.id = id → o = b)
    (hc : b.crane ≠ c ∨ ((f b).state = .suspended ↔ b.state = .suspended)) :
    t.suspendedBooking c = u.suspendedBooking c := by
  have entry (o : Booking) (ho : o ∈ u.bookings) :
      ((if o.id == id then f o else o).crane == c && (if o.id == id then f o else o).state == .suspended) =
        (o.crane == c && o.state == .suspended) := by
    by_cases hid : o.id = id
    · have hob := huniq o ho hid
      subst hob
      have crane : (f o).crane = o.crane := by rw [hf o]
      simp only [hid, beq_self_eq_true, if_true, crane]
      rcases hc with hc | hc
      · rw [beq_eq_false_iff_ne.2 hc, Bool.false_and, Bool.false_and]
      · rw [Bool.eq_iff_iff]
        simp [hc]
    · simp [hid]
  simp only [State.suspendedBooking, ht, State.editBooking_bookings, List.any_map, Function.comp_def]
  rw [Bool.eq_iff_iff, List.any_eq_true, List.any_eq_true]
  exact exists_congr fun o => and_congr_right fun ho => by rw [entry o ho]

/-- The judgement of a BOOKED booking of a blind crane leaves the state of a restart, with the marks that the
table then gives (R155, R158). -/
theorem Passes.jumpBooking {s u : State} (h : Passes s (fun c => u.suspendedBooking c) u) {b : Booking}
    (w m : Nat) (hb : u.bookingById b.id = some b) (hs : b.state = .booked)
    (huniq : ∀ o ∈ u.bookings, o.id = b.id → o = b) (hw : (u.wind b.crane).blind = true) :
    Passes s (fun c => (u.jumpBooking .restart w m b.id).suspendedBooking c)
      (u.jumpBooking .restart w m b.id) := by
  obtain ⟨f, hf, stands, jumped⟩ := State.jumpBooking_judged .restart w m hb hs
  have other (c : CraneId) (hc : b.crane ≠ c ∨ ((f b).state = .suspended ↔ b.state = .suspended)) :
      (u.jumpBooking .restart w m b.id).suspendedBooking c = u.suspendedBooking c :=
    State.suspendedBooking_of_edit stands.bookings hf huniq hc
  have armed := h.armBooking .restart hb
  rcases State.jumpBooking_booked .restart w m hb hs with ⟨-, heq⟩ | ⟨hspan, hawait, heq⟩ | ⟨-, -, heq⟩
  · obtain ⟨n, -, hbs, -, -⟩ := State.armBooking_bookings .restart hb
    have found : (u.armBooking b.id .restart).bookingById b.id = some (b.armedWith n) :=
      State.bookingById_of_edit hbs (fun _ => rfl) hb
    have wind : (u.armBooking b.id .restart).wind (b.armedWith n).crane = u.wind b.crane := by
      simp only [State.wind, (calendarFrame_site.armBooking b.id .restart u).winds]
      rfl
    have started := armed.startBooking (b.start + b.duration - m) .restart found (by rw [wind]; exact hw)
    rw [← heq] at started
    have marks : (fun d => if d = (b.armedWith n).crane then
        (u.jumpBooking .restart w m b.id).suspendedBooking (b.armedWith n).crane else u.suspendedBooking d) =
        fun c => (u.jumpBooking .restart w m b.id).suspendedBooking c := by
      funext d
      split
      · next e => rw [e]
      · next e => exact (other d (.inl fun hc => e hc.symm)).symm
    rwa [marks] at started
  · have same : (f b).state = .suspended ↔ b.state = .suspended := by
      rw [(jumped.arms hs hspan hawait).1, hs]
      simp
    have marks : (fun c => (u.jumpBooking .restart w m b.id).suspendedBooking c) =
        fun c => u.suspendedBooking c := funext fun c => other c (.inr same)
    rw [marks, heq]
    exact armed
  · rw [heq]
    exact h

/-! ### Every booking judged -/

/-- The site event flag that a judgement tells of stays set. -/
theorem BookingJumped.mono {lead w m : Nat} {x : Wind} {e e' : Bool} {b b' : Booking}
    (h : BookingJumped lead w m x e b b') (he : e = true → e' = true) : BookingJumped lead w m x e' b b' where
  starts hs hw := by
    obtain ⟨state, h1, h2⟩ := h.starts hs hw
    exact ⟨state, fun hf => ⟨(h1 hf).1, he (h1 hf).2⟩, h2⟩
  arms := h.arms
  waits := h.waits
  stands := h.stands
  lapses h1 h2 h3 h4 := ⟨he (h.lapses h1 h2 h3 h4).1, (h.lapses h1 h2 h3 h4).2⟩
  returns := h.returns
  runs := h.runs
  ended := h.ended

/-- A BOOKED booking on which a jump does not act, and a terminal one, stand (R158). -/
theorem BookingJumped.stands_of {lead w m : Nat} (x : Wind) (e : Bool) {b : Booking}
    (hs : b.state = .booked ∨ b.state.terminal = true) (hj : b.jumpsAt lead w m = false) :
    BookingJumped lead w m x e b b := by
  rcases hs with hs | hs
  · have no : ¬b.spans w m ∧ ¬b.awaits lead w m := by
      simp only [Booking.jumpsAt, hs, Bool.or_eq_false_iff] at hj
      exact ⟨mt Booking.inWindow_iff.2 (Bool.eq_false_iff.1 hj.1),
        mt Booking.inArmWindow_iff.2 (Bool.eq_false_iff.1 hj.2)⟩
    exact
      { starts := fun _ h => absurd h no.1
        arms := fun _ _ h => absurd h no.2
        waits := fun _ _ _ => rfl
        stands := fun _ _ _ => rfl
        lapses := fun h => by rw [hs] at h; cases h
        returns := fun h => by rw [hs] at h; cases h
        runs := fun _ => rfl
        ended := fun _ => rfl }
  · have not_booked : b.state ≠ .booked := fun h => by rw [h] at hs; cases hs
    have not_armed : b.state ≠ .armed := fun h => by rw [h] at hs; cases hs
    exact
      { starts := fun h => (h.elim not_booked not_armed).elim
        arms := fun h => absurd h not_booked
        waits := fun h => absurd h not_booked
        stands := fun h => absurd h not_armed
        lapses := fun h => absurd h not_armed
        returns := fun h => absurd h not_armed
        runs := fun _ => rfl
        ended := fun _ => rfl }

/-- The bookings of `s` while they are judged at site time (w, m), those with an id in `done` already. -/
structure Judged (s : State) (w m : Nat) (done : Nat → Prop) (u : State) : Prop where
  passes : Passes s (fun c => u.suspendedBooking c) u
  entries : ∀ b ∈ s.bookings, ∃ b', u.bookingById b.id = some b' ∧
    (done b.id → BookingJumped s.leadTime w m (s.wind b.crane) (u.event .booking) b b') ∧
    (¬done b.id → b' = b)

/-- One BOOKED booking more. -/
theorem Judged.step {s u : State} {w m : Nat} {done : Nat → Prop} (h : Judged s w m done u)
    (hn : (s.bookings.map (·.id)).Nodup) {b : Booking} (hb : b ∈ s.bookings) (hs : b.state = .booked)
    (hw : (s.wind b.crane).blind = true) (hd : ¬done b.id) :
    Judged s w m (fun i => i = b.id ∨ done i) (u.jumpBooking .restart w m b.id) := by
  have found : u.bookingById b.id = some b := by
    obtain ⟨b', hb', -, same⟩ := h.entries b hb
    rwa [same hd] at hb'
  have nodup : (u.bookings.map (·.id)).Nodup := ids_of_core h.passes.frame.bookings ▸ hn
  have wind : u.wind b.crane = s.wind b.crane := by
    simp only [State.wind, h.passes.frame.winds]
  obtain ⟨f, hf, stands, jumped⟩ := State.jumpBooking_judged .restart w m found hs
  have flag := (calendarFrame_site.jumpBooking .restart w m b.id u).flags .booking
  refine ⟨h.passes.jumpBooking w m found hs
    (fun o ho hid => eq_of_id nodup ho (List.mem_of_find?_eq_some found) hid) (wind ▸ hw), fun a ha => ?_⟩
  obtain ⟨a', ha', judged, same⟩ := h.entries a ha
  have after := u.editBooking_bookingById b.id a.id f hf.id_eq
  rw [State.bookingById, stands.bookings, ← State.bookingById]
  by_cases hab : a.id = b.id
  · have := eq_of_id hn ha hb hab
    subst this
    rw [if_pos rfl, found] at after
    refine ⟨f a, after, fun _ => ?_, fun hno => absurd (.inl rfl) hno⟩
    rwa [wind, h.passes.frame.leadTime] at jumped
  · rw [if_neg hab, ha'] at after
    exact ⟨a', after, fun hdone => (judged (hdone.resolve_left hab)).mono flag, fun hno => same fun k => hno (.inr k)⟩

/-- Every listed booking, each of them BOOKED. -/
theorem Judged.each {s u : State} {w m : Nat} {done : Nat → Prop} (h : Judged s w m done u)
    (hn : (s.bookings.map (·.id)).Nodup) (hw : ∀ c, (s.wind c).blind = true) (ids : List Nat)
    (hids : ids.Nodup) (hbooked : ∀ i ∈ ids, ∃ b ∈ s.bookings, b.id = i ∧ b.state = .booked)
    (hdone : ∀ i ∈ ids, ¬done i) :
    Judged s w m (fun i => i ∈ ids ∨ done i) (u.each ids (State.jumpBooking .restart w m)) := by
  induction ids generalizing u done with
  | nil => simpa [State.each] using h
  | cons i ids ih =>
    obtain ⟨b, hb, rfl, hs⟩ := hbooked i (by simp)
    obtain ⟨hi, hrest⟩ := List.nodup_cons.1 hids
    have next := ih (h.step hn hb hs (hw _) (hdone _ (by simp))) hrest
      (fun j hj => hbooked j (by simp [hj])) fun j hj => by
        rintro (e | k)
        · exact hi (e ▸ hj)
        · exact hdone j (by simp [hj]) k
    have same : (fun j => j ∈ ids ∨ j = b.id ∨ done j) = fun j => j ∈ b.id :: ids ∨ done j := by
      funext j
      rw [List.mem_cons, ← or_assoc, or_comm (a := j ∈ ids)]
    rwa [same] at next

/-- Jump evaluation at a restart: every booking is judged, its crane being blind (R158, R160). -/
theorem State.jumpBookings_restart {s : State} (h : s.Restarting fun c => s.suspendedBooking c)
    (hn : (s.bookings.map (·.id)).Nodup) (hw : ∀ c, (s.wind c).blind = true)
    (hs : ∀ b ∈ s.bookings, b.state = .booked ∨ b.state.terminal = true) (hm : s.clock.mode ≠ .invalid) :
    let t := s.jumpBookings .restart
    Passes s (fun c => t.suspendedBooking c) t ∧
      ∀ b ∈ s.bookings, ∃ b', t.bookingById b.id = some b' ∧
        BookingJumped s.leadTime s.clock.weekday s.clock.minute (s.wind b.crane) (t.event .booking) b b' := by
  intro t
  let ids := (s.bookings.filter (·.jumpsAt s.leadTime s.clock.weekday s.clock.minute)).map (·.id)
  have heq : t = s.chosen.each (s.arranged id ids) (State.jumpBooking .restart s.clock.weekday s.clock.minute) := by
    simp only [t, State.jumpBookings]
    split
    · next hinv => exact absurd hinv hm
    · rfl
    · rfl
  have nodup : (s.arranged id ids).Nodup :=
    (State.arranged_perm id ids s).nodup_iff.2 (hn.sublist (List.filter_sublist.map _))
  have start : Judged s s.clock.weekday s.clock.minute (fun _ => False) s.chosen :=
    ⟨(Passes.refl h).chosen, fun b hb => ⟨b, State.bookingById_of_mem (s := s) hn hb, False.elim, fun _ => rfl⟩⟩
  have all := start.each hn hw (s.arranged id ids) nodup (fun i hi => by
    obtain ⟨b, hb, rfl⟩ := List.mem_map.1 ((State.mem_arranged id ids s i).1 hi)
    obtain ⟨hmem, hj⟩ := List.mem_filter.1 hb
    refine ⟨b, hmem, rfl, (hs b hmem).resolve_right fun hterm => ?_⟩
    unfold Booking.jumpsAt at hj
    cases hst : b.state <;> rw [hst] at hj hterm <;> cases hterm <;> cases hj) fun _ _ => id
  rw [← heq] at all
  refine ⟨all.passes, fun b hb => ?_⟩
  obtain ⟨b', hb', judged, same⟩ := all.entries b hb
  refine ⟨b', hb', ?_⟩
  by_cases hi : b.id ∈ s.arranged id ids
  · exact judged (.inl hi)
  · rw [same (by simpa using hi)]
    refine .stands_of _ _ (hs b hb) (Bool.eq_false_iff.2 fun hj => hi ?_)
    rw [State.mem_arranged]
    exact List.mem_map_of_mem (List.mem_filter.2 ⟨hb, hj⟩)

end Sys2Proof.Machine

/-! ## The wind records of a restart (R98, R107, R111, R180 stage 5)

No channel has a signal behind a restart, so the governing evaluation of a configured crane is its entry into
RESTRICT with one STAGE notice, and the wind check of its bookings (`State.govern_restart`). -/

namespace Sys2Proof.Machine

theorem Table.edit_eq_self {α : Type} {n : Nat} {t : Table α n} {i : Fin n} {f : α → α}
    (h : f (Table.entry t i) = Table.entry t i) : Table.edit t i f = t :=
  Table.ext_entry fun j => by
    rw [Table.entry_edit]
    split
    · next e => rw [e, h]
    · rfl

theorem State.editWind_eq_self {s : State} {c : CraneId} {f : Wind → Wind} (h : f (s.wind c) = s.wind c) :
    s.editWind c f = s := by
  unfold State.editWind
  rw [Table.edit_eq_self h]

theorem State.editPermit_eq_self {s : State} {c : CraneId} {p : Permit} (h : s.permit c = some p) :
    s.editPermit c (fun _ => p) = s := by
  unfold State.editPermit
  rw [Table.edit_eq_self]
  exact (congrArg _ h).trans h.symm

/-! ### States with nothing claimed -/

/-- No zone is held or claimed, every permit is OFFLINE and every crane blind. -/
structure State.Idle (s : State) : Prop where
  unheld : ∀ z, s.holding z = none
  unclaimed : ∀ z, (s.zone z).queue = []
  offline : ∀ c p, s.permit c = some p → p.state = .offline
  blind : ∀ c, (s.wind c).blind = true

/-- A booking behind stage 1 of R160: BOOKED again where it was ARMED, ACTIVE or SUSPENDED. -/
def Booking.reset (b : Booking) : Booking := if b.state.counts then b.core else b

theorem Booking.reset_id (b : Booking) : b.reset.id = b.id := by
  unfold Booking.reset
  split <;> rfl

theorem Booking.reset_core (b : Booking) : b.reset.core = b.core := by
  unfold Booking.reset
  split <;> rfl

/-- A step of a restart between idle states: it touches no zone, and bookings only between ACTIVE and
SUSPENDED. -/
structure Idles (s t : State) : Prop where
  frame : JumpFrame s t
  zones : t.zones = s.zones
  arrivals : t.arrivals = s.arrivals
  reset : t.bookings.map Booking.reset = s.bookings.map Booking.reset

theorem Idles.refl (s : State) : Idles s s := ⟨.refl s, rfl, rfl, rfl⟩

theorem Idles.trans {s t u : State} (h : Idles s t) (k : Idles t u) : Idles s u :=
  ⟨h.frame.trans k.frame, k.zones.trans h.zones, k.arrivals.trans h.arrivals, k.reset.trans h.reset⟩

/-- Permits that agree but for their marks are OFFLINE together. -/
theorem offline_of_unsuspended {s t : State} (h : ∀ c p, s.permit c = some p → p.state = .offline)
    (hp : ∀ c, (t.permit c).map Permit.unsuspended = (s.permit c).map Permit.unsuspended) :
    ∀ c p, t.permit c = some p → p.state = .offline := by
  intro c p hc
  have same := hp c
  rw [hc, Option.map_some] at same
  obtain ⟨q, hq, he⟩ := Option.map_eq_some_iff.1 same.symm
  have state : p.state = q.state := (congrArg Permit.state he :).symm
  rw [state]
  exact h c q hq

theorem State.Idle.step {s t : State} (h : s.Idle) (k : Idles s t) : t.Idle where
  unheld z := by
    unfold State.holding
    rw [State.zone_of_zones k.zones]
    exact h.unheld z
  unclaimed z := by
    rw [State.zone_of_zones k.zones]
    exact h.unclaimed z
  offline := offline_of_unsuspended h.offline k.frame.permits
  blind c := by
    simp only [State.wind, k.frame.winds]
    exact h.blind c

theorem Idles.chosen (s : State) : Idles s s.chosen :=
  ⟨.rezone s s.zones s.arrivals _, rfl, rfl, rfl⟩

theorem Idles.each {α : Type} {P : State → Prop} {s : State} (hs : s.Idle) (hP : P s) (xs : List α)
    (f : α → State → State) (hf : ∀ x u, u.Idle → P u → Idles u (f x u)) (hk : ∀ u v, P u → Idles u v → P v) :
    Idles s (s.each xs f) := by
  induction xs generalizing s with
  | nil => exact .refl s
  | cons x xs ih =>
    have step := hf x s hs hP
    exact step.trans (ih (hs.step step) (hk _ _ hP step))

/-- There are no levels to recompute. -/
theorem State.Idle.relevelAll {s : State} (h : s.Idle) (c : CraneId) (zs : List ZoneId) :
    s.relevelAll c zs = s.chosen := by
  have relevel (z : ZoneId) (u : State) (hu : u.zones = s.zones) : u.relevel c z = u := by
    have unheld : u.holding z = none := by
      unfold State.holding
      rw [State.zone_of_zones hu]
      exact h.unheld z
    have unclaimed : u.claimOf z c = none := by
      unfold State.claimOf
      rw [State.zone_of_zones hu, h.unclaimed z]
      rfl
    unfold State.relevel
    simp only [State.relevelClaim_of_none unclaimed, State.relevelGrant_of_none unheld,
      State.examine_of_none unheld, ite_self]
  have each (xs : List ZoneId) (u : State) (hu : u.zones = s.zones) : u.each xs (State.relevel c) = u := by
    induction xs with
    | nil => rfl
    | cons z xs ih =>
      unfold State.each at ih ⊢
      rw [List.foldl_cons, relevel z u hu, ih]
  exact each _ s.chosen rfl

theorem State.Idle.refreshSuspension {s : State} (h : s.Idle) (c : CraneId) :
    Idles s (s.refreshSuspension c) := by
  unfold State.refreshSuspension
  split
  · exact .refl s
  · next p hp =>
    split
    · exact .refl s
    · have offline : (({ p with suspended := s.suspendedBooking c } : Permit).rearmed (s.wind c).stage) =
          { p with suspended := s.suspendedBooking c } := by
        simp [Permit.rearmed, h.offline c p hp, PermitState.armed]
      unfold State.replacePermit
      simp only [offline, if_true]
      exact ⟨.editPermit hp rfl, rfl, rfl, rfl⟩

theorem Idles.postBooking (s : State) (id : Nat) (old : BookingState) (cause : BookingCause) :
    Idles s (s.postBooking id old cause) := by
  have same : BookingsStand s (s.postBooking id old cause) := bookingsStand_zone.postBooking id old cause s
  refine ⟨.postBooking s id old cause, ?_, ?_, by rw [same.bookings]⟩
  · unfold State.postBooking
    split
    · rfl
    · exact State.post_zones _ _ _
  · unfold State.postBooking
    split
    · rfl
    · exact (handOffs_cascade.post _ _ _).arrivals

/-! ### The wind check of a blind crane's bookings (R154) -/

/-- An ACTIVE booking becomes SUSPENDED (R154, R155). -/
theorem State.Idle.swapSuspension {s : State} (h : s.Idle) (hn : (s.bookings.map (·.id)).Nodup) {id : Nat}
    {b : Booking} (cause : BookingCause) (hb : s.bookingById id = some b) (hs : b.state = .active) :
    Idles s (s.swapSuspension id .suspended cause) := by
  have hid : b.id = id := State.bookingById_id hb
  have edited : Idles s (s.editBooking id fun b => { b with state := .suspended }) := by
    refine ⟨.editBooking s id fun _ => rfl, rfl, rfl, ?_⟩
    rw [State.editBooking_bookings, List.map_map]
    refine List.map_congr_left fun o ho => ?_
    simp only [Function.comp_apply]
    split
    · next e =>
      have hob := eq_of_id hn ho (List.mem_of_find?_eq_some hb) ((by simpa using e : o.id = id).trans hid.symm)
      subst hob
      simp [Booking.reset, hs, BookingState.counts, Booking.core]
    · rfl
  unfold State.swapSuspension
  rw [hb]
  simp only
  rw [(h.step edited).relevelAll]
  have chosen := edited.trans (.chosen _)
  have refreshed := chosen.trans ((h.step chosen).refreshSuspension b.crane)
  refine (refreshed.trans ?_).trans (.postBooking _ _ _ _)
  exact ⟨.setEvent _ .booking, rfl, rfl, rfl⟩

theorem State.Idle.checkBooking {s : State} (h : s.Idle) (hn : (s.bookings.map (·.id)).Nodup) (byStage : Bool)
    (id : Nat) : Idles s (s.checkBooking byStage id) := by
  unfold State.checkBooking
  split
  · exact .refl s
  · next b hb =>
    have suspends : (s.wind b.crane).suspends b.windLimit = true := by simp [Wind.suspends, h.blind b.crane]
    have stays : (s.wind b.crane).returns b.windLimit (s.hysteresis b.crane) = false := by
      simp [Wind.returns, h.blind b.crane]
    simp only [suspends, stays, if_true, Bool.false_eq_true, if_false]
    split
    · next hs => exact h.swapSuspension hn _ hb hs
    all_goals exact .refl s

theorem State.Idle.checkBookings {s : State} (h : s.Idle) (hn : (s.bookings.map (·.id)).Nodup) (byStage : Bool)
    (c : CraneId) : Idles s (s.checkBookings byStage c) := by
  unfold State.checkBookings State.eachOpen
  have idle := h.step (.chosen s)
  refine (Idles.chosen s).trans (.each (P := fun u => (u.bookings.map (·.id)).Nodup) idle hn _ _
    (fun id u hu hk => hu.checkBooking hk byStage id) fun u v hu k => ?_)
  rwa [ids_of_core k.frame.bookings]

/-! ### The governing evaluation (R98, R107, R111) -/

/-- The wind record of a blind crane in RESTRICT. -/
def Wind.blindRestrict : Wind := { stage := .restrict }

/-- The STAGE notice by which a blind crane enters RESTRICT. -/
def blindNotice : Notice := .stage .restrict .calm .blind none none true

/-- The entry of a blind crane into RESTRICT, its bookings apart. -/
def State.enterRestrict (c : CraneId) (s : State) : State :=
  (s.editWind c fun _ => Wind.blindRestrict).post c blindNotice

theorem State.enterRestrict_idle {s : State} (h : s.Idle) (c : CraneId) : (s.enterRestrict c).Idle := by
  have zone (z : ZoneId) : (s.enterRestrict c).zone z = s.zone z := State.post_zone _ _ _ _
  refine ⟨fun z => ?_, fun z => ?_, fun d p hp => ?_, fun d => ?_⟩
  · unfold State.holding
    rw [zone]
    exact h.unheld z
  · rw [zone]
    exact h.unclaimed z
  · simp only [State.enterRestrict, State.permit, State.post_permits] at hp
    exact h.offline d p hp
  · simp only [State.enterRestrict, State.wind, State.post_winds]
    rw [State.editWind, Table.entry_edit]
    split
    · rfl
    · exact h.blind d

theorem State.enterRestrict_wind (s : State) (c d : CraneId) :
    (s.enterRestrict c).wind d = if d = c then Wind.blindRestrict else s.wind d := by
  simp only [State.enterRestrict, State.wind, State.post_winds]
  rw [State.editWind, Table.entry_edit]

/-- A stage change of an OFFLINE blind crane that was in CALM (R111, R112). -/
theorem State.changeStage_restart {s : State} {c : CraneId} {p : Permit} (hp : s.permit c = some p)
    (ho : p.state = .offline) (hw : s.wind c = {}) :
    s.changeStage c .calm .restrict .blind = (s.enterRestrict c).checkBookings true c := by
  have announced : s.announceStage c .calm .restrict .blind = s.enterRestrict c := by
    have edit : (s.editWind c fun w => { w with stage := .restrict }) = s.editWind c fun _ => .blindRestrict := by
      unfold State.editWind
      refine congrArg (fun t => { s with winds := t }) (Table.ext_entry fun d => ?_)
      rw [Table.entry_edit, Table.entry_edit]
      split
      · next e =>
        rw [e]
        exact congrArg (fun w : Wind => { w with stage := .restrict }) hw
      · rfl
    unfold State.announceStage
    simp only [edit, reduceCtorEq, if_false, State.editWind_wind_same]
    rfl
  have permit : (s.enterRestrict c).permit c = some p := by
    simp only [State.enterRestrict, State.permit, State.post_permits]
    exact hp
  have followed : p.followStage .calm .restrict = p := by
    simp [Permit.followStage, Permit.rearmed, ho, PermitState.armed]
  have told : (s.enterRestrict c).tellPermit c .calm .restrict = s.enterRestrict c := by
    unfold State.tellPermit State.replacePermit
    simp only [permit, followed, if_true, State.editPermit_eq_self permit, ho, reduceCtorEq, false_and, if_false]
  unfold State.changeStage
  rw [announced, told]

/-- The governing evaluation of a configured crane behind a restart. -/
theorem State.govern_restart {s : State} {c : CraneId} {p : Permit} (h : s.Idle)
    (hn : (s.bookings.map (·.id)).Nodup) (hp : s.permit c = some p) (hw : s.wind c = {})
    (hch : ∀ k, (s.channel k).state = .noSignal) :
    s.govern c = (s.enterRestrict c).checkBookings true c := by
  have governed : s.governed c p.config = {} := by
    have none : ∀ k, ¬(s.channel k).state = .live := fun k hk => by
      rw [hch k] at hk
      cases hk
    unfold State.governed
    simp only [none, if_false, hw]
    split <;> rfl
  have set : s.setGoverning c p = s := by
    unfold State.setGoverning
    simp only [governed, hw, Bool.not_true, Bool.false_and, Bool.false_eq_true, if_false]
    exact State.editWind_eq_self hw.symm
  have hold : s.setHold c none = s := State.editWind_eq_self (by rw [hw])
  have taken : s.takeFigure c p.config = (s.enterRestrict c).checkBookings true c := by
    have ascended : s.ascend c p.config = s := by
      unfold State.ascend
      simp [hw, candidate, Stage.rank]
    have floored : s.blindFloor c = (s.enterRestrict c).checkBookings true c := by
      unfold State.blindFloor State.riseTo
      rw [if_pos (by rw [hw]; decide), hold, hw]
      exact State.changeStage_restart hp (h.offline c p hp) hw
    unfold State.takeFigure
    rw [ascended, floored]
    refine State.editWind_eq_self ?_
    have idles := (State.enterRestrict_idle h c).checkBookings (byStage := true) (c := c) (by
      simp only [State.enterRestrict, State.post_bookings]
      exact hn)
    have wind : ((s.enterRestrict c).checkBookings true c).wind c = Wind.blindRestrict := by
      simp only [State.wind, idles.frame.winds]
      exact (State.enterRestrict_wind s c c).trans (if_pos rfl)
    rw [wind]
    rfl
  unfold State.govern
  rw [hp]
  simp only [governed, hw, set, taken, bne_self_eq_false, Bool.or_self, Bool.false_eq_true, if_false]

end Sys2Proof.Machine

/-! ## COLD_RESTART (R180) -/

namespace Sys2Proof.Machine

/-! ### Every configured crane governed -/

theorem RestartFrame.enterRestrict (s : State) (c : CraneId) : RestartFrame s (s.enterRestrict c) := by
  refine .trans (t := s.editWind c fun _ => Wind.blindRestrict) ?_ (.post _ _ (.inl rfl))
  constructor
  case links => exact fun c => Link.mayStart_refl _
  case areas => exact fun c => ⟨rfl, rfl⟩
  case flags => exact fun _ he => he
  case notes => exact fun c hc => hc.congr rfl rfl
  case permits => exact fun c => rfl
  all_goals rfl

/-- The cranes while they are governed behind a restart, those in `done` already. -/
structure Governed (s : State) (done : CraneId → Prop) (u : State) : Prop where
  idle : u.Idle
  frame : RestartFrame s u
  zones : u.zones = s.zones
  arrivals : u.arrivals = s.arrivals
  reset : u.bookings.map Booking.reset = s.bookings.map Booking.reset
  winds : ∀ c, (done c → u.wind c = Wind.blindRestrict) ∧ (¬done c → u.wind c = s.wind c)
  noted : ∀ c, (∀ b ∈ s.bookings, b.crane ≠ c) →
    (done c → u.box c = (s.post c blindNotice).box c ∧
      u.link (.crane c) = (s.post c blindNotice).link (.crane c)) ∧
    (¬done c → u.box c = s.box c ∧ u.link (.crane c) = s.link (.crane c))

/-- One crane more. -/
theorem Governed.step {s u : State} {done : CraneId → Prop} (h : Governed s done u)
    (hn : (s.bookings.map (·.id)).Nodup) (hch : ∀ k, (s.channel k).state = .noSignal)
    (hw : ∀ c, s.wind c = {}) {c : CraneId} (hp : (s.permit c).isSome = true) (hd : ¬done c) :
    Governed s (fun d => d = c ∨ done d) (u.govern c) := by
  have nodup : (u.bookings.map (·.id)).Nodup := ids_of_core h.frame.bookings ▸ hn
  have channel (k : ChannelId) : (u.channel k).state = .noSignal := by
    have : u.channel k = s.channel k := by simp only [State.channel, h.frame.channels]
    rw [this]
    exact hch k
  have permit : ∃ p, u.permit c = some p := by
    have same := h.frame.permits c
    obtain ⟨q, hq⟩ := Option.isSome_iff_exists.1 hp
    rw [hq, Option.map_some] at same
    obtain ⟨p, hp', -⟩ := Option.map_eq_some_iff.1 same
    exact ⟨p, hp'⟩
  obtain ⟨p, hp'⟩ := permit
  have calm : u.wind c = {} := ((h.winds c).2 hd).trans (hw c)
  rw [State.govern_restart h.idle nodup hp' calm channel]
  have entered := RestartFrame.enterRestrict u c
  have bookings : (u.enterRestrict c).bookings = u.bookings := by
    simp only [State.enterRestrict, State.post_bookings]
    rfl
  have idle := State.enterRestrict_idle h.idle c
  have checked := idle.checkBookings (bookings ▸ nodup) true c
  refine ⟨idle.step checked, (h.frame.trans entered).trans checked.frame.toRestartFrame, ?_, ?_, ?_, fun d => ?_,
    fun d hd' => ?_⟩
  · rw [checked.zones, ← h.zones]
    exact State.post_zones _ _ _
  · rw [checked.arrivals, ← h.arrivals]
    exact (handOffs_cascade.post _ _ _).arrivals
  · rw [checked.reset, bookings, h.reset]
  · have wind : ((u.enterRestrict c).checkBookings true c).wind d =
        if d = c then Wind.blindRestrict else u.wind d := by
      rw [← State.enterRestrict_wind]
      simp only [State.wind, checked.frame.winds]
    rw [wind]
    by_cases hdc : d = c
    · rw [if_pos hdc]
      exact ⟨fun _ => rfl, fun hno => absurd (.inl hdc) hno⟩
    · rw [if_neg hdc]
      exact ⟨fun hdone => (h.winds d).1 (hdone.resolve_left hdc), fun hno => (h.winds d).2 fun k => hno (.inr k)⟩
  · have none : ∀ b ∈ (u.enterRestrict c).bookings, b.crane ≠ d := by
      rw [bookings]
      exact crane_ne_of_core h.frame.bookings hd'
    obtain ⟨kb, kl⟩ := checked.frame.untouched d none
    obtain ⟨done', before⟩ := h.noted d hd'
    rw [kb, kl]
    by_cases hdc : d = c
    · subst hdc
      obtain ⟨hb, hl⟩ := before hd
      have posted := State.post_congr (s := s) (t := u.editWind d fun _ => Wind.blindRestrict) (c := d)
        blindNotice hb hl
      exact ⟨fun _ => posted, fun hno => absurd (.inl rfl) hno⟩
    · obtain ⟨pb, pl⟩ := State.post_aside (u.editWind c fun _ => Wind.blindRestrict) blindNotice hdc
      have aside : (u.enterRestrict c).box d = u.box d ∧
          (u.enterRestrict c).link (.crane d) = u.link (.crane d) := ⟨pb, pl⟩
      rw [aside.1, aside.2]
      exact ⟨fun hdone => done' (hdone.resolve_left hdc), fun hno => before fun k => hno (.inr k)⟩

theorem Governed.each {s u : State} {done : CraneId → Prop} (h : Governed s done u)
    (hn : (s.bookings.map (·.id)).Nodup) (hch : ∀ k, (s.channel k).state = .noSignal)
    (hw : ∀ c, s.wind c = {}) (cs : List CraneId) (hcs : cs.Nodup)
    (hp : ∀ c ∈ cs, (s.permit c).isSome = true) (hd : ∀ c ∈ cs, ¬done c) :
    Governed s (fun d => d ∈ cs ∨ done d) (u.each cs State.govern) := by
  induction cs generalizing u done with
  | nil => simpa [State.each] using h
  | cons c cs ih =>
    obtain ⟨hc, hrest⟩ := List.nodup_cons.1 hcs
    have next := ih (h.step hn hch hw (hp c (by simp)) (hd c (by simp))) hrest
      (fun d hd' => hp d (by simp [hd'])) fun d hd' => by
        rintro (e | k)
        · exact hc (e ▸ hd')
        · exact hd d (by simp [hd']) k
    have same : (fun d => d ∈ cs ∨ d = c ∨ done d) = fun d => d ∈ c :: cs ∨ done d := by
      funext d
      rw [List.mem_cons, ← or_assoc, or_comm (a := d ∈ cs)]
    rwa [same] at next

/-! ### The records cleared (stages 1 to 5) -/

/-- The records behind the stages 1 to 4 and the clearing of stage 5 (R180). -/
def State.cleared (s : State) : State :=
  s.restartBoxes.restartZones.restartPositions.restartPermits.restartWind

theorem State.cleared_zone (s : State) (z : ZoneId) :
    (s.cleared.zone z).mark = false ∧ (s.cleared.zone z).openedFor = none ∧ (s.cleared.zone z).queue = [] ∧
      ((s.record z).kind = .shared → (s.cleared.zone z).state = .free) ∧
      ((s.record z).kind = .excluded → (s.cleared.zone z).state = .closed) := by
  have zone : s.cleared.zone z = { state := if (s.record z).kind = .shared then .free else .closed } := by
    simp only [State.cleared, State.restartWind, State.restartPermits, State.restartPositions,
      State.restartZones, State.zone, Table.entry_mapAll]
    have record : s.restartBoxes.record z = s.record z := by simp only [State.restartBoxes, State.record]
    rw [record]
    cases (s.record z).kind <;> rfl
  rw [zone]
  refine ⟨rfl, rfl, rfl, fun h => ?_, fun h => ?_⟩ <;> simp [h]

theorem State.cleared_permit (s : State) (c : CraneId) :
    s.cleared.permit c = (s.permit c).map fun p =>
      { config := p.config, maskIntrusion := p.maskIntrusion, maskSensorLoss := p.maskSensorLoss } := by
  simp only [State.cleared, State.restartWind, State.restartPermits, State.restartPositions,
    State.restartZones, State.restartBoxes, State.permit, Table.entry_mapAll]

theorem State.cleared_channel (s : State) (k : ChannelId) :
    s.cleared.channel k =
      { enable := (s.channel k).enable, staleTime := (s.channel k).staleTime,
        checkFailures := (s.channel k).checkFailures, rejected := (s.channel k).rejected } := by
  simp only [State.cleared, State.restartWind, State.restartPermits, State.restartPositions,
    State.restartZones, State.restartBoxes, State.channel, Table.entry_mapAll]

theorem State.cleared_wind (s : State) (c : CraneId) : s.cleared.wind c = {} :=
  Table.entry_replicate _ _

theorem State.cleared_position (s : State) (c : CraneId) : s.cleared.position c = {} :=
  Table.entry_replicate _ _

theorem State.cleared_box (s : State) (c : CraneId) :
    s.cleared.box c = { s.box c with queue := [], loss := false } := by
  simp only [State.cleared, State.restartWind, State.restartPermits, State.restartPositions,
    State.restartZones, State.restartBoxes, State.box, Table.entry_mapAll]

theorem State.cleared_idle (s : State) : s.cleared.Idle where
  unheld z := by
    obtain ⟨-, -, -, hs, he⟩ := s.cleared_zone z
    unfold State.holding
    cases hk : (s.record z).kind with
    | shared => rw [hs hk]; rfl
    | excluded => rw [he hk]; rfl
  unclaimed z := (s.cleared_zone z).2.2.1
  offline c p hp := by
    rw [State.cleared_permit] at hp
    obtain ⟨q, -, rfl⟩ := Option.map_eq_some_iff.1 hp
    rfl
  blind c := by rw [State.cleared_wind]

theorem State.cleared_notes (s : State) (c : CraneId) : s.cleared.NotesOk c := by
  have box := s.cleared_box c
  exact ⟨by rw [box]; exact Nat.zero_le _, by rw [box]; simp, by rw [box]; simp, by rw [box]; simp⟩

/-- The state behind stage 5 (R180). -/
def State.regoverned (s : State) : State :=
  s.cleared.eachOpen Fin.val s.cleared.configuredCranes State.govern

theorem State.regoverned_outcome {s : State} (hn : (s.bookings.map (·.id)).Nodup) :
    Governed s.cleared (fun c => (s.permit c).isSome = true) s.regoverned := by
  have start : Governed s.cleared (fun _ => False) s.cleared.chosen :=
    ⟨s.cleared_idle.step (.chosen _), (JumpFrame.rezone s.cleared _ _ _).toRestartFrame, rfl, rfl, rfl,
      fun c => ⟨False.elim, fun _ => rfl⟩, fun c _ => ⟨False.elim, fun _ => ⟨rfl, rfl⟩⟩⟩
  have mem (c : CraneId) : c ∈ s.cleared.arranged Fin.val s.cleared.configuredCranes ↔ (s.permit c).isSome = true := by
    rw [State.mem_arranged]
    simp [State.configuredCranes, allCranes, State.cleared_permit]
  have nodup : (s.cleared.arranged Fin.val s.cleared.configuredCranes).Nodup :=
    (State.arranged_perm _ _ _).nodup_iff.2 ((List.nodup_finRange 6).filter _)
  have all := start.each hn (fun k => by rw [State.cleared_channel]) s.cleared_wind
    (s.cleared.arranged Fin.val s.cleared.configuredCranes) nodup
    (fun c hc => by rw [State.cleared_permit, Option.isSome_map]; exact (mem c).1 hc) fun _ _ => id
  have same : (fun d => d ∈ s.cleared.arranged Fin.val s.cleared.configuredCranes ∨ False) =
      fun c => (s.permit c).isSome = true := by
    funext c
    rw [or_false, mem c]
  rwa [same] at all

/-! ### The bookings BOOKED again (stage 6) -/

theorem State.restartBookings_bookings (s : State) :
    s.restartBookings.bookings = s.bookings.map Booking.reset := rfl

theorem State.restartBookings_permit (s : State) (c : CraneId) :
    s.restartBookings.permit c = (s.permit c).map Permit.unsuspended := by
  show Table.entry (Table.mapAll _ _) c = _
  rw [Table.entry_mapAll]
  rfl

theorem RestartFrame.restartBookings (s : State) : RestartFrame s s.restartBookings := by
  constructor
  case links => exact fun c => Link.mayStart_refl _
  case areas => exact fun c => ⟨rfl, rfl⟩
  case flags => exact fun _ he => he
  case notes => exact fun c hc => hc.congr rfl rfl
  case permits =>
    intro c
    rw [State.restartBookings_permit, Option.map_map]
    rfl
  case bookings =>
    rw [State.restartBookings_bookings, List.map_map]
    exact List.map_congr_left fun b _ => b.reset_core
  all_goals rfl

theorem Booking.reset_state (b : Booking) : b.reset.state = .booked ∨ b.reset.state.terminal = true := by
  unfold Booking.reset
  split
  · exact .inl rfl
  · next h => cases hs : b.state <;> simp_all [BookingState.counts, BookingState.terminal]

/-- The state behind stage 6's records (R160). -/
def State.rebooked (s : State) : State := s.regoverned.restartBookings

theorem State.rebooked_frame {s : State} (hn : (s.bookings.map (·.id)).Nodup) :
    RestartFrame s.cleared s.rebooked :=
  (State.regoverned_outcome hn).frame.trans (.restartBookings _)

theorem State.rebooked_bookings {s : State} (hn : (s.bookings.map (·.id)).Nodup) :
    s.rebooked.bookings = s.bookings.map Booking.reset := (State.regoverned_outcome hn).reset

theorem State.rebooked_zone {s : State} (hn : (s.bookings.map (·.id)).Nodup) (z : ZoneId) :
    s.rebooked.zone z = s.cleared.zone z := State.zone_of_zones (State.regoverned_outcome hn).zones z

/-- Behind stage 6's records no booking is SUSPENDED, and no mark is set. -/
theorem State.rebooked_restarting {s : State} (hn : (s.bookings.map (·.id)).Nodup) :
    s.rebooked.Restarting fun c => s.rebooked.suspendedBooking c := by
  have frame := State.rebooked_frame hn
  have zone := State.rebooked_zone hn
  have record (z : ZoneId) : s.rebooked.record z = s.record z := by
    simp only [State.record, frame.active]
    rfl
  refine ⟨fun c p hp => ?_, fun z => ?_, fun z hk => ?_, fun z hk => ?_, fun z cl hcl => ?_⟩
  · have unsuspended : s.rebooked.suspendedBooking c = false := by
      rw [State.suspendedBooking, State.rebooked_bookings hn, List.any_eq_false]
      intro b hb
      obtain ⟨a, -, rfl⟩ := List.mem_map.1 hb
      have : a.reset.state ≠ .suspended := fun h => by
        rcases a.reset_state with hs | hs <;> rw [h] at hs <;> cases hs
      simp [this]
    refine ⟨offline_of_unsuspended s.cleared_idle.offline frame.permits c p hp, ?_⟩
    rw [State.rebooked, State.restartBookings_permit] at hp
    obtain ⟨q, -, rfl⟩ := Option.map_eq_some_iff.1 hp
    rw [unsuspended]
    rfl
  · rw [zone]
    exact (s.cleared_zone z).1
  · rw [zone]
    exact (s.cleared_zone z).2.2.2.1 (record z ▸ hk)
  · obtain ⟨-, ho, -, -, hc⟩ := s.cleared_zone z
    rw [zone, ho, if_pos rfl]
    exact hc (record z ▸ hk)
  · rw [zone, (s.cleared_zone z).2.2.1] at hcl
    cases hcl

theorem State.rebooked_wind {s : State} (hn : (s.bookings.map (·.id)).Nodup) (c : CraneId) :
    s.rebooked.wind c = { stage := if s.permit c = none then .calm else .restrict } := by
  obtain ⟨configured, bare⟩ := (State.regoverned_outcome hn).winds c
  show s.regoverned.wind c = _
  cases hp : s.permit c with
  | none => exact (bare (by simp [hp])).trans (s.cleared_wind c)
  | some p => exact configured (by simp [hp])

/-! ### The whole restart -/

/-- What the judgements of a restart leave, with and without a clock (R158, R160). -/
theorem State.rebooked_jumped {s : State} (hn : (s.bookings.map (·.id)).Nodup) :
    let t := s.rebooked.jumpBookings .restart
    Passes s.rebooked (fun c => t.suspendedBooking c) t ∧
      (s.clock.mode = .invalid → t = s.rebooked) ∧
      ∀ b ∈ s.bookings, ∃ b', t.bookingById b.id = some b' ∧
        (s.clock.mode = .invalid → b' = b.reset) ∧
        (s.clock.mode ≠ .invalid →
          BookingJumped s.leadTime s.clock.weekday s.clock.minute (t.wind b.crane) (t.event .booking) b.reset b') := by
  intro t
  have frame := State.rebooked_frame hn
  have clock : s.rebooked.clock = s.clock := frame.clock
  have lead : s.rebooked.leadTime = s.leadTime := frame.leadTime
  have nodup : (s.rebooked.bookings.map (·.id)).Nodup := by
    rw [ids_of_core frame.bookings]
    exact hn
  have mem (b : Booking) (hb : b ∈ s.bookings) : b.reset ∈ s.rebooked.bookings := by
    rw [State.rebooked_bookings hn]
    exact List.mem_map_of_mem hb
  by_cases hm : s.clock.mode = .invalid
  · have same : t = s.rebooked := by
      simp only [t, State.jumpBookings, clock, hm]
    rw [same]
    refine ⟨.refl (State.rebooked_restarting hn), fun _ => rfl, fun b hb => ⟨b.reset, ?_, fun _ => rfl,
      fun h => absurd hm h⟩⟩
    have := State.bookingById_of_mem nodup (mem b hb)
    rwa [b.reset_id] at this
  · obtain ⟨passes, judged⟩ := State.jumpBookings_restart (State.rebooked_restarting hn) nodup
      (fun c => by rw [State.rebooked_wind hn]) (fun b hb => by
        rw [State.rebooked_bookings hn] at hb
        obtain ⟨a, -, rfl⟩ := List.mem_map.1 hb
        exact a.reset_state) (clock.symm ▸ hm)
    refine ⟨passes, fun h => absurd h hm, fun b hb => ?_⟩
    obtain ⟨b', found, jumped⟩ := judged b.reset (mem b hb)
    rw [b.reset_id] at found
    have crane : b.reset.crane = b.crane := (congrArg Booking.crane b.reset_core :)
    have wind : t.wind b.crane = s.rebooked.wind b.reset.crane := by
      rw [crane]
      exact congrArg (Table.entry · b.crane) passes.frame.winds
    rw [lead, clock, ← wind] at jumped
    exact ⟨b', found, fun h => absurd h hm, fun _ => jumped⟩

end Sys2Proof.Machine

/-! ## What COLD_RESTART shows (R180) -/

namespace Sys2Proof.Machine

/-- The answer of a port whose link the request did not touch (R165 to R167). -/
theorem State.answeredWith_link {s u : State} {p : Port} (r : Response) (hr : s.ready p)
    (hu : u.link p = (s.underway p).link p) : (u.answeredWith p r).link p = (s.link p).answered r := by
  have serving := hr.2.2.1
  rw [State.answeredWith, State.editLink_link_same, hu, State.underway, State.editLink_link_same]
  simp [Link.answered, serving]

/-- The state behind stage 6 of a restart (R180). -/
def State.rejudged (s : State) : State := s.rebooked.jumpBookings .restart

section

variable {s : State} (hn : (s.bookings.map (·.id)).Nodup)

include hn

theorem State.rejudged_frame : RestartFrame s.cleared s.rejudged :=
  (State.rebooked_frame hn).trans (State.rebooked_jumped hn).1.frame.toRestartFrame

/-- The area and the link of a crane without bookings: the STAGE notice of its entry into RESTRICT alone. -/
theorem State.rejudged_noted {c : CraneId} (hc : ∀ b ∈ s.bookings, b.crane ≠ c) :
    (∀ p, s.permit c = some p → s.rejudged.box c = (s.cleared.post c blindNotice).box c ∧
      s.rejudged.link (.crane c) = (s.cleared.post c blindNotice).link (.crane c)) ∧
    (s.permit c = none → s.rejudged.box c = s.cleared.box c ∧
      s.rejudged.link (.crane c) = s.cleared.link (.crane c)) := by
  obtain ⟨kb, kl⟩ := (State.rebooked_jumped hn).1.frame.untouched c
    (crane_ne_of_core (State.rebooked_frame hn).bookings hc)
  obtain ⟨configured, bare⟩ := (State.regoverned_outcome hn).noted c hc
  have box : s.rejudged.box c = s.regoverned.box c := kb
  have link : s.rejudged.link (.crane c) = s.regoverned.link (.crane c) := kl
  rw [box, link]
  exact ⟨fun p hp => configured (by simp [hp]), fun hp => bare (by simp [hp])⟩

/-- The permits: the configuration and the mask of before, and the mark that the bookings give (R134, R160). -/
theorem State.rejudged_permit (c : CraneId) :
    s.rejudged.permit c = (s.permit c).map fun p =>
      { config := p.config, maskIntrusion := p.maskIntrusion, maskSensorLoss := p.maskSensorLoss,
        suspended := s.rejudged.suspendedBooking c } := by
  have same := (State.rejudged_frame hn).permits c
  rw [State.cleared_permit] at same
  cases hp : s.permit c with
  | none => simpa [hp] using same
  | some q =>
    rw [hp, Option.map_some, Option.map_some] at same
    obtain ⟨p, hp', he⟩ := Option.map_eq_some_iff.1 same
    have mark := ((State.rebooked_jumped hn).1.now.permits c p hp').2
    rw [hp', Option.map_some, Option.some.injEq]
    calc p = { p.unsuspended with suspended := p.suspended } := rfl
      _ = _ := by rw [he, mark]; rfl

theorem State.rejudged_wind (c : CraneId) :
    s.rejudged.wind c = { stage := if s.permit c = none then .calm else .restrict } := by
  rw [← State.rebooked_wind hn]
  exact congrArg (Table.entry · c) (State.rebooked_jumped hn).1.frame.winds

/-- The zones of before the judgements, but for what they opened (R20, R21). -/
theorem State.rejudged_zone (z : ZoneId) :
    (s.rejudged.zone z).mark = false ∧ s.rejudged.holding z = none ∧
      ((s.record z).kind = .shared → (s.rejudged.zone z).state = .free) ∧
      ((s.record z).kind = .excluded →
        (s.rejudged.zone z).state = if (s.rejudged.zone z).openedFor = none then .closed else .free) := by
  have now : s.rejudged.Restarting fun c => s.rejudged.suspendedBooking c := (State.rebooked_jumped hn).1.now
  have record : s.rejudged.record z = s.record z :=
    congrArg (Table.entry · z) (State.rejudged_frame hn).active
  exact ⟨now.unmarked z, now.holding z, record ▸ now.shared z, record ▸ now.excluded z⟩

/-- The claims that the judgements place (R45, R49). -/
theorem State.rejudged_claim {z : ZoneId} {cl : Claim} (hcl : cl ∈ (s.rejudged.zone z).queue) :
    cl.booked = true ∧ cl.emergency = false ∧ 1 ≤ cl.arrival ∧ cl.arrival ≤ s.rejudged.arrivals ∧
      ∃ b ∈ s.rejudged.bookings, b.crane = cl.crane ∧ z ∈ b.zones ∧
        (b.state = .armed ∨ b.state = .active ∨ b.state = .suspended) := by
  obtain ⟨h1, h2, h3, h4, b, hb, hc, hz, hs⟩ := (State.rebooked_jumped hn).1.now.claims z cl hcl
  refine ⟨h1, h2, h3, h4, b, hb, hc, hz, ?_⟩
  cases hst : b.state <;> simp_all [BookingState.counts]

/-- With the clock INVALID nothing is judged, claimed or opened. -/
theorem State.rejudged_invalid (hm : s.clock.mode = .invalid) :
    s.rejudged.arrivals = 0 ∧ ∀ z, (s.rejudged.zone z).queue = [] ∧ (s.rejudged.zone z).openedFor = none := by
  have same : s.rejudged = s.rebooked := (State.rebooked_jumped hn).2.1 hm
  rw [same]
  refine ⟨(State.regoverned_outcome hn).arrivals, fun z => ?_⟩
  obtain ⟨-, ho, hq, -, -⟩ := s.cleared_zone z
  rw [State.rebooked_zone hn]
  exact ⟨hq, ho⟩

/-- The bookings: BOOKED again, then judged (R158, R160). -/
theorem State.rejudged_booking : ∀ b ∈ s.bookings, ∃ b', s.rejudged.bookingById b.id = some b' ∧
    (s.clock.mode = .invalid → b' = b.reset) ∧
    (s.clock.mode ≠ .invalid →
      BookingJumped s.leadTime s.clock.weekday s.clock.minute (s.rejudged.wind b.crane)
        (s.rejudged.event .booking) b.reset b') := (State.rebooked_jumped hn).2.2

/-- A crane without bookings shows its STAGE notice as the emptied area and the link of before take it. -/
theorem State.rejudged_after {s₀ : State} {c : CraneId} (hb : s₀.box c = s.box c)
    (hl : s₀.link (.crane c) = s.link (.crane c)) (hp : s₀.permit c = s.permit c)
    (hc : ∀ b ∈ s.bookings, b.crane ≠ c) :
    let emptied := s₀.editBox c fun x => { x with queue := [], loss := false }
    let after := if s₀.permit c = none then emptied else emptied.post c blindNotice
    s.rejudged.box c = after.box c ∧ s.rejudged.link (.crane c) = after.link (.crane c) := by
  intro emptied after
  obtain ⟨configured, bare⟩ := State.rejudged_noted hn hc
  have box : s.cleared.box c = emptied.box c := by
    rw [State.cleared_box, State.editBox_box_same, hb]
  have link : s.cleared.link (.crane c) = emptied.link (.crane c) := hl.symm
  cases hs : s.permit c with
  | none =>
    simp only [after, hp, hs, if_true]
    exact ⟨(bare hs).1.trans box, (bare hs).2.trans link⟩
  | some p =>
    simp only [after, hp, hs, reduceCtorEq, if_false]
    obtain ⟨pb, pl⟩ := State.post_congr (s := emptied) blindNotice box link
    exact ⟨(configured p hs).1.trans pb, (configured p hs).2.trans pl⟩

end

/-- A booking behind stage 1 of R160, by its state. -/
theorem Booking.reset_eq (b : Booking) :
    b.reset = if b.state = .armed ∨ b.state = .active ∨ b.state = .suspended then b.core else b := by
  unfold Booking.reset
  cases b.state <;> simp [BookingState.counts]

end Sys2Proof.Machine

namespace Sys2Proof.Proofs

open Sys2Proof.Machine

/-- Settles O44: `State.rejudged_frame` for what is kept, and one lemma each for the permits, the wind
records, the zones, the claims, the notices and the bookings behind stage 6. -/
theorem coldRestartTaken : Obligations.ColdRestartTaken := by
  intro tag s hr hn
  have hn' : ((s.underway .planner).bookings.map (·.id)).Nodup := hn
  have frame := State.rejudged_frame hn'
  have served := servedAs_planner (F := fun _ _ => True) .coldRestart (i := .coldRestart .planner tag [])
    (reply := { result := .ok }) (u := (s.underway .planner).takeColdRestart) (direct := fun u => u) rfl hr rfl rfl
    rfl trivial
  have notes (c : CraneId) := frame.notes c (State.cleared_notes _ c)
  have areas (c : CraneId) : ((s.underway .planner).cleared.box c).start = (s.box c).start ∧
      ((s.underway .planner).cleared.box c).stop = (s.box c).stop := by
    rw [State.cleared_box]
    exact ⟨rfl, rfl⟩
  have link (c : CraneId) : (s.underway .planner).link (.crane c) = s.link (.crane c) :=
    State.editLink_link_other s _ (by simp)
  have noted (c : CraneId) := State.rejudged_after hn' (s₀ := s) (c := c) rfl (link c).symm rfl
  have permit := State.rejudged_permit hn'
  have wind := State.rejudged_wind hn'
  have zone := State.rejudged_zone hn'
  have claim := fun z cl => State.rejudged_claim hn' (z := z) (cl := cl)
  have invalid := State.rejudged_invalid hn'
  have judged := State.rejudged_booking hn'
  have outcome : (s.underway .planner).takeColdRestart =
    { (s.underway .planner).rejudged.setEvent .restarted with restart := .cold } := rfl
  rw [outcome] at served
  generalize (s.underway .planner).rejudged = v at *
  have events (e : SiteEvent) : v.event e = true → (v.setEvent .restarted).event e = true := fun h => by
    rw [State.setEvent_event, h, Bool.or_true]
  refine ⟨_, ⟨served.1, ?_⟩, State.setEvent_event_same _ _, rfl, frame.enables, fun e he => ?_, fun c => ?_,
    invalid, claim, frame.lines, frame.active, frame.shadow, frame.clock, frame.leadTime, frame.nextId,
    frame.pending, zone, fun c => ?_, permit, fun k => ?_, wind, frame.terminals, frame.bookings, fun b hb => ?_⟩
  · exact State.answeredWith_link _ hr (u := { v.setEvent .restarted with restart := .cold }) frame.planner
  · exact events e (frame.flags e he)
  · rw [State.answeredWith, State.editLink_link_other _ _ (by simp)]
    exact ⟨link c ▸ frame.links c, (frame.areas c).1.trans (areas c).1, (frame.areas c).2.trans (areas c).2,
      (notes c).fits, (notes c).kinds, (notes c).loss, noted c⟩
  · exact (congrArg (Table.entry · c) frame.positions).trans (State.cleared_position _ c)
  · exact (congrArg (Table.entry · k) frame.channels).trans (State.cleared_channel _ k)
  · obtain ⟨b', found, stands, jumped⟩ := judged b hb
    rw [b.reset_eq] at stands jumped
    exact ⟨b', found, stands, fun hm => (jumped hm).mono (events .booking)⟩

end Sys2Proof.Proofs

/-! ## Requests at a ready crane port -/

namespace Sys2Proof.Machine

/-- A crane request that its block refuses is refused on the port. -/
theorem refusedAs_crane {i : Instr} {c : CraneId} (k : CraneKind) {tag : Byte} {body : List Byte} {s : State}
    {x : Result} (hi : exec i s = .next (s.arrive (.crane c) { kind := k.code, tag := tag, body := body }))
    (hr : s.ready (.crane c)) (hb : body.length = k.length)
    (hs : serveCrane c k body (s.underway (.crane c)) = refuse x (s.underway (.crane c))) :
    RefusedAs i (.crane c) k.code tag x s := by
  unfold RefusedAs
  rw [hi, State.arrive_refused s (.crane c) _ hr (hb ▸ k.length_le) x
    ((serve_crane c k tag body hb _).trans hs)]

/-- A crane request served (R165 to R167). -/
theorem servedAs_crane {F : State → State → Prop} {i : Instr} {c : CraneId} (k : CraneKind) {tag : Byte}
    {body : List Byte} {s u : State} {reply : Reply} {direct : State → State}
    (hi : exec i s = .next (s.arrive (.crane c) { kind := k.code, tag := tag, body := body }))
    (hr : s.ready (.crane c)) (hb : body.length = k.length)
    (hs : serveCrane c k body (s.underway (.crane c)) = (reply, u)) (hc : reply.clearLoss = false)
    (hF : F (direct (s.underway (.crane c))) u) :
    ServedAs F i (.crane c) k.code tag reply.result reply.body direct s
      (u.answeredWith (.crane c)
        (respond { kind := k.code, tag := tag, body := body } reply (u.lossOn (.crane c)))) :=
  servedAs_of_serve hi hr (hb ▸ k.length_le) ((serve_crane c k tag body hb _).trans hs) hc hF

/-! ### The fields of a REPORT (R24, R25) -/

theorem modeOf_eq_none : ∀ {n : Nat}, 2 < n → modeOf n = none
  | _ + 3, _ => rfl

theorem reportOf_eq_none {b : List Byte} (h : 2 < byteAt b 0 ∨ 3599 < wordAt b 1) : reportOf b = none := by
  unfold reportOf
  rcases h with h | h
  · rw [modeOf_eq_none h]
  · split
    · rfl
    · exact if_pos h

theorem reportOf_eq_some {b : List Byte} {m : Mode} (hm : byteAt b 0 = m.code) (ha : wordAt b 1 ≤ 3599) :
    reportOf b = some
      { mode := m, angle := wordAt b 1, rate := storedRate m (signedAt b 3),
        radius := min 1200 (wordAt b 5) } := by
  unfold reportOf
  rw [hm, modeOf_code]
  exact if_neg (by omega)

end Sys2Proof.Machine

namespace Sys2Proof.Proofs

open Sys2Proof.Machine

/-- Settles O16, by the rows of R24: no record, an OFFLINE record, a body that `reportOf` refuses. -/
theorem reportRefused : Obligations.ReportRefused := by
  intro c tag b s x hr hb hx
  refine refusedAs_crane .report rfl hr hb ?_
  show serveReport c b (s.underway (.crane c)) = _
  have record : (s.underway (.crane c)).permit c = s.permit c := rfl
  unfold serveReport
  rw [record]
  cases hp : s.permit c with
  | none =>
    simp only [hp, if_true, Option.some.injEq] at hx
    rw [hx]
  | some p =>
    simp only [hp, reduceCtorEq, if_false, State.permitState_of_permit hp] at hx
    by_cases offline : p.state = .offline
    · simp only [offline, if_true, Option.some.injEq] at hx
      simp only [offline, if_true, hx]
    · simp only [offline, if_false] at hx
      split at hx
      · next bad =>
        rw [Option.some.injEq] at hx
        simp only [offline, if_false, reportOf_eq_none bad, hx]
      · cases hx

/-- Settles O18: the branches of `envelopeOf`, and the remainders of `arcContains` by linear arithmetic. -/
theorem envelopeRule : Obligations.EnvelopeRule := by
  intro r reach margin x ha hx
  refine ⟨fun full => ?_, fun hm hsum => ?_⟩
  · unfold envelopeOf
    rcases full with hm | hsum
    · exact if_pos hm
    · have wide : 3599 ≤ reach + margin + margin := by omega
      simp only [wide, if_true, ite_self]
  · have narrow : ¬3599 ≤ reach + margin + margin := by omega
    by_cases hr : 0 ≤ r.rate
    · refine ⟨mod3600 ((r.angle : Int) - margin), mod3600 ((r.angle : Int) + (reach + margin : Nat)), ?_⟩
      simp only [envelopeOf, hm, narrow, hr, if_true, if_false, arcContains, decide_eq_true_eq, true_and]
      unfold mod3600
      omega
    · refine ⟨mod3600 ((r.angle : Int) - (reach + margin : Nat)), mod3600 ((r.angle : Int) + margin), ?_⟩
      simp only [envelopeOf, hm, narrow, hr, if_false, arcContains, decide_eq_true_eq, true_and]
      unfold mod3600
      omega

end Sys2Proof.Proofs

/-! ## Invariants of an agenda

`AgendaInvariant` is an invariant of agenda and state together, for a fact that holds only once a task that
is still waiting has been carried out: a mark to be judged again, a cause to be raised. -/

namespace Sys2Proof.Machine

/-- A fact about agenda and state that every task keeps. -/
def AgendaInvariant (P : List Task → State → Prop) : Prop :=
  ∀ t ts s, P (t :: ts) s → P (doTask t ts s).1 (doTask t ts s).2

theorem AgendaInvariant.settle {P : List Task → State → Prop} (h : AgendaInvariant P) (ts : List Task) (s : State)
    (hp : P ts s) : P [] (s.settle ts) := by
  induction hn : agendaBound ts s using Nat.strong_induction_on generalizing ts s with
  | _ n ih =>
    cases ts with
    | nil => rwa [settle_nil]
    | cons t ts =>
      rw [settle_cons]
      exact ih _ (hn ▸ doTask_lowers t ts s) _ _ (h t ts s hp) rfl

/-! ### What one task leaves alone -/

theorem mem_deferRecompute_of_mem {c : CraneId} {ts : List Task} {t : Task} (h : t ∈ ts) :
    t ∈ deferRecompute c ts := by
  induction ts with
  | nil => cases h
  | cons u us ih =>
    unfold deferRecompute
    rcases List.mem_cons.1 h with h | h
    · split <;> simp [h]
    · split <;> simp [h, ih h]

theorem recompute_mem_deferRecompute {c : CraneId} {ts : List Task} (h : Task.judge c ∈ ts) :
    Task.recompute c ∈ deferRecompute c ts := by
  induction ts with
  | nil => cases h
  | cons u us ih =>
    unfold deferRecompute
    split
    · simp
    · next hne =>
      exact List.mem_cons_of_mem _ (ih ((List.mem_cons.1 h).resolve_left fun e => hne e.symm))

theorem mem_afterGrant_of_mem (z : ZoneId) (c : CraneId) {ts : List Task} {t : Task} (h : t ∈ ts) :
    t ∈ afterGrant z c ts := by
  unfold afterGrant
  split
  · exact List.mem_cons_of_mem _ (mem_deferRecompute_of_mem h)
  · simp [h]

/-- A grant lets its crane be recomputed (R34, R36). -/
theorem recompute_mem_afterGrant (z : ZoneId) (c : CraneId) (ts : List Task) :
    Task.recompute c ∈ afterGrant z c ts := by
  unfold afterGrant
  split
  · next h => exact List.mem_cons_of_mem _ (recompute_mem_deferRecompute (List.contains_iff_mem.1 h))
  · simp

/-- No task takes a waiting task off the agenda. -/
theorem mem_doTask_of_mem (t : Task) {ts : List Task} (s : State) {u : Task} (h : u ∈ ts) :
    u ∈ (doTask t ts s).1 := by
  cases t with
  | evaluate z =>
    simp only [doTask]
    split
    · exact h
    · exact mem_afterGrant_of_mem _ _ h
  | recompute c =>
    simp only [doTask]
    split
    · exact h
    · simp [h]
  | handOff z d e => simp [doTask, h]
  | judge c =>
    simp only [doTask]
    split <;> simp [h]
  | raise cause c =>
    simp only [doTask]
    split <;> simp [h]
  | examine z => exact h

theorem handOffs_doTask (t : Task) (ts : List Task) (s : State) : HandOffs s (doTask t ts s).2 :=
  handOffs_cascade.doTask t ts s

theorem State.judgeStage_position_other (s : State) {c d : CraneId} (h : c ≠ d) :
    (s.judgeStage d).position c = s.position c := by
  unfold State.judgeStage
  simp only
  split
  · exact State.editPosition_position_other s _ h
  · rfl

theorem State.recomputeStage_position_other {s t : State} {c d : CraneId} {xs : List (ZoneId × Bool)}
    (h : s.recomputeStage d = some (xs, t)) (hc : c ≠ d) : t.position c = s.position c := by
  unfold State.recomputeStage at h
  split at h
  · simp only [Option.some.injEq, Prod.mk.injEq] at h
    rw [← h.2]
    exact State.editPosition_position_other s _ hc
  · cases h

theorem State.takeCause_positions (cause : Cause) (c : CraneId) (s : State) :
    (s.takeCause cause c).2.positions = s.positions := by
  have e : (s.silenceEvent cause).positions = s.positions := by
    unfold State.silenceEvent
    split <;> rfl
  unfold State.takeCause
  split
  · rfl
  · split
    · rfl
    all_goals split
    all_goals
      simp only [State.latchKeep, State.latchHalt, State.setEvent_positions, State.post_positions,
        State.editPermit_positions, e]

theorem State.examine_positions (z : ZoneId) (s : State) : (s.examine z).positions = s.positions := by
  unfold State.examine
  split
  · rfl
  · split <;> simp [State.setDemand]

theorem State.position_of_positions {s t : State} (h : t.positions = s.positions) (c : CraneId) :
    t.position c = s.position c := by
  simp only [State.position, h]

/-- A crane's position record changes in its own recomputation and judgement alone (R35). -/
theorem doTask_position {t : Task} (ts : List Task) (s : State) {c : CraneId} (hr : t ≠ .recompute c)
    (hj : t ≠ .judge c) : (doTask t ts s).2.position c = s.position c := by
  cases t with
  | evaluate z =>
    simp only [doTask]
    split
    · rfl
    · simp [State.grantTo]
  | recompute d =>
    have hd : c ≠ d := fun e => hr (by rw [e])
    simp only [doTask]
    split
    · rfl
    · next h => exact State.recomputeStage_position_other h hd
  | handOff z d e => rfl
  | judge d =>
    have hd : c ≠ d := fun e => hj (by rw [e])
    simp only [doTask]
    split <;> exact s.judgeStage_position_other hd
  | raise cause d =>
    have same := State.position_of_positions (s.takeCause_positions cause d) c
    simp only [doTask]
    split
    all_goals next h =>
      rw [h] at same
      exact same
  | examine z => exact State.position_of_positions (s.examine_positions z) c

theorem HandOffs.heldBy {s t : State} (h : HandOffs s t) {z : ZoneId} {c : CraneId} (hz : s.heldBy z c = true) :
    t.heldBy z c = true := (zonesStand_of_handOffs h).heldBy hz

end Sys2Proof.Machine

/-! ### Causes that an agenda raises (R125) -/

namespace Sys2Proof.Machine

/-- DISARMED, RUNNING or DERATED: the states that a latch moves to HALTED (R125). -/
def PermitState.halts (x : PermitState) : Prop := x = .disarmed ∨ x = .running ∨ x = .derated

theorem PermitState.halts.registered {x : PermitState} (h : x.halts) : x ≠ .offline := by
  rcases h with h | h | h <;> simp [h]

/-- The cause is latched for the crane, and the crane is not in a state that its latch would have left. -/
def State.caught (cause : Cause) (c : CraneId) (s : State) : Prop :=
  ∃ q, s.permit c = some q ∧ q.hasLatched cause = true ∧ ¬q.state.halts

theorem Permit.hasLatched_latch_self (p : Permit) (cause : Cause) : (p.latch cause).hasLatched cause = true := by
  simp [Permit.hasLatched, Permit.latch]

theorem Permit.mayLatch.masks {p q : Permit} (h : p.mayLatch q) (cause : Cause) : q.masks cause = p.masks cause := by
  rw [h.1]
  cases cause <;> rfl

theorem Permit.mayLatch.config {p q : Permit} (h : p.mayLatch q) : q.config = p.config := by
  rw [h.1]

/-- A latch that took a crane out of DISARMED, RUNNING or DERATED halted it (R125). -/
theorem Permit.mayLatch.halted {p q : Permit} (h : p.mayLatch q) (hp : p.state.halts) (hq : ¬q.state.halts) :
    q.state = .halted ∧ q.factor = 0 := by
  obtain ⟨-, -, hs⟩ := h
  have halts : q = p ∨ (q.state = .halted ∧ q.factor = 0 ∧ q.clear = false) := by
    rcases hp with hp | hp | hp <;> rw [hp] at hs <;> exact hs
  rcases halts with same | ⟨hst, hfac, -⟩
  · exact absurd (same ▸ hp) hq
  · exact ⟨hst, hfac⟩

/-- In any other state the permit state stands (R125). -/
theorem Permit.mayLatch.state {p q : Permit} (h : p.mayLatch q) (hp : ¬p.state.halts) : q.state = p.state := by
  obtain ⟨-, -, hs⟩ := h
  cases hst : p.state with
  | offline =>
    rw [hst] at hs
    rw [hs, hst]
  | disarmed => exact absurd (.inl hst) hp
  | running => exact absurd (.inr (.inl hst)) hp
  | derated => exact absurd (.inr (.inr hst)) hp
  | halted | stowing | stowed =>
    rw [hst] at hs
    exact hs.1

/-- A latch brings no crane into DISARMED, RUNNING or DERATED (R125). -/
theorem Permit.mayLatch.not_halts {p q : Permit} (h : p.mayLatch q) (hp : ¬p.state.halts) : ¬q.state.halts := by
  rwa [h.state hp]

/-- A latch brings no crane OFFLINE (R125). -/
theorem Permit.mayLatch.not_offline {p q : Permit} (h : p.mayLatch q) (hp : p.state ≠ .offline) :
    q.state ≠ .offline := by
  by_cases hs : p.state.halts
  · by_cases hq : q.state.halts
    · rcases hq with hq | hq | hq <;> simp [hq]
    · simp [(h.halted hs hq).1]
  · rwa [h.state hs]

/-- A configured crane stays configured through hand-offs. -/
theorem HandOffs.permit {s t : State} (h : HandOffs s t) {c : CraneId} {p : Permit} (hp : s.permit c = some p) :
    ∃ q, t.permit c = some q ∧ p.mayLatch q := by
  have hq := h.permits c
  rw [hp] at hq
  cases ht : t.permit c with
  | none =>
    rw [ht] at hq
    exact hq.elim
  | some q =>
    rw [ht] at hq
    exact ⟨q, rfl, hq⟩

theorem HandOffs.caught {s t : State} (h : HandOffs s t) {cause : Cause} {c : CraneId} (hs : s.caught cause c) :
    t.caught cause c := by
  obtain ⟨p, hp, hl, hn⟩ := hs
  obtain ⟨q, hq, hpq⟩ := h.permit hp
  exact ⟨q, hq, hpq.2.1 cause hl, hpq.not_halts hn⟩

/-! #### A cause taken, by the permit state -/

section

variable {s : State} {cause : Cause} {c : CraneId} {p : Permit}

theorem State.takeCause_halts (hp : s.permit c = some p) (hs : p.state.halts) (hm : p.masks cause = false) :
    s.takeCause cause c = (true, (s.silenceEvent cause).latchHalt cause c p) := by
  unfold State.takeCause
  rw [hp]
  rcases hs with h | h | h <;> simp [h, hm]

theorem State.takeCause_masked (hp : s.permit c = some p) (ho : p.state ≠ .offline) (hm : p.masks cause = true) :
    s.takeCause cause c = (false, s.silenceEvent cause) := by
  unfold State.takeCause
  rw [hp]
  cases hs : p.state <;> simp_all

theorem State.takeCause_latched (hp : s.permit c = some p) (ho : p.state ≠ .offline) (hs : ¬p.state.halts)
    (hl : p.hasLatched cause = true) : s.takeCause cause c = (false, s.silenceEvent cause) := by
  unfold State.takeCause
  rw [hp]
  cases hst : p.state <;> simp_all [PermitState.halts]

theorem State.takeCause_keeps (hp : s.permit c = some p) (ho : p.state ≠ .offline) (hs : ¬p.state.halts)
    (hm : p.masks cause = false) (hl : p.hasLatched cause = false) :
    s.takeCause cause c = (false, (s.silenceEvent cause).latchKeep cause c p) := by
  unfold State.takeCause
  rw [hp]
  cases hst : p.state <;> simp_all [PermitState.halts]

/-- A cause that is not masked is caught in every registered state (R125). -/
theorem State.takeCause_caught (hp : s.permit c = some p) (ho : p.state ≠ .offline) (hm : p.masks cause = false) :
    (s.takeCause cause c).2.caught cause c := by
  have record : (s.silenceEvent cause).permit c = some p := by rw [CascadeMoves.silenceEvent_permit, hp]
  by_cases hs : p.state.halts
  · rw [State.takeCause_halts hp hs hm]
    refine ⟨{ p.latch cause with state := .halted, factor := 0 }, ?_, p.hasLatched_latch_self cause, ?_⟩
    · simp [State.latchHalt, record]
    · simp [PermitState.halts]
  · cases hl : p.hasLatched cause with
    | true =>
      rw [State.takeCause_latched hp ho hs hl]
      exact ⟨p, record, hl, hs⟩
    | false =>
      rw [State.takeCause_keeps hp ho hs hm hl]
      refine ⟨p.latch cause, ?_, p.hasLatched_latch_self cause, hs⟩
      simp [State.latchKeep, record]

end

theorem State.silenceEvent_event (s : State) : (s.silenceEvent .silence).event .silence = true :=
  State.setEvent_event_same s .silence

/-- SILENCE raised for a registered crane sets its site event, latched before or not (R125). -/
theorem State.takeCause_silence {s : State} {c : CraneId} {p : Permit} (hp : s.permit c = some p)
    (ho : p.state ≠ .offline) : (s.takeCause .silence c).2.event .silence = true := by
  have set := s.silenceEvent_event
  by_cases hs : p.state.halts
  · rw [State.takeCause_halts hp hs rfl]
    exact (HandOffs.setEvent _ .trip (.inl rfl)).flags _ ((HandOffs.post _ _ _).flags _ set)
  · cases hl : p.hasLatched .silence with
    | true => rwa [State.takeCause_latched hp ho hs hl]
    | false =>
      rw [State.takeCause_keeps hp ho hs rfl hl]
      exact (HandOffs.post _ _ _).flags _ set

theorem State.takeCause_permit_other (s : State) (cause : Cause) {c d : CraneId} (h : c ≠ d) :
    (s.takeCause cause d).2.permit c = s.permit c := by
  unfold State.takeCause
  split
  · rfl
  · split
    · rfl
    all_goals split
    all_goals
      simp [State.latchKeep, State.latchHalt, State.editPermit_permit_other _ _ h,
        CascadeMoves.silenceEvent_permit]

/-- A raised cause is taken, and the rest is a hand-off. -/
theorem handOffs_takeCause (cause : Cause) (c : CraneId) (ts : List Task) (s : State) :
    HandOffs (s.takeCause cause c).2 (doTask (.raise cause c) ts s).2 := by
  simp only [doTask]
  split
  · next h =>
    rw [h]
    exact handOffs_cascade.chosen _
  · next h =>
    rw [h]
    exact .refl _

theorem doTask_raise_caught {s : State} {cause : Cause} {c : CraneId} {p : Permit} (ts : List Task)
    (hp : s.permit c = some p) (ho : p.state ≠ .offline) (hm : p.masks cause = false) :
    (doTask (.raise cause c) ts s).2.caught cause c :=
  (handOffs_takeCause cause c ts s).caught (State.takeCause_caught hp ho hm)

/-- A permit record changes where a cause is raised for its crane, and nowhere else on an agenda. -/
theorem doTask_permit {t : Task} (ts : List Task) (s : State) {c : CraneId} (h : ∀ cause, t ≠ .raise cause c) :
    (doTask t ts s).2.permit c = s.permit c := by
  cases t with
  | evaluate z =>
    simp only [doTask]
    split
    · rfl
    · simp [State.grantTo]
  | recompute d =>
    simp only [doTask, State.recomputeStage]
    split
    · rfl
    · next hr =>
      split at hr
      · simp only [Option.some.injEq, Prod.mk.injEq] at hr
        rw [← hr.2]
        rfl
      · cases hr
  | handOff z d e => rfl
  | judge d =>
    have same : (s.judgeStage d).permit c = s.permit c := by
      unfold State.judgeStage
      simp only
      split <;> rfl
    simp only [doTask]
    split <;> exact same
  | raise cause d =>
    have hd : c ≠ d := fun e => h cause (by rw [e])
    have same := s.takeCause_permit_other cause hd
    simp only [doTask]
    split
    all_goals next hu =>
      rw [hu] at same
      exact same
  | examine z =>
    simp only [doTask, State.examine]
    split
    · rfl
    · split <;> simp [State.setDemand]

/-- The crane is in a state that a latch would halt, or site event TRIP is set. -/
def State.haltShown (c : CraneId) (s : State) : Prop :=
  (∃ q, s.permit c = some q ∧ q.state.halts) ∨ s.event .trip = true

/-- No crane is halted without site event TRIP (R125). -/
theorem haltShown_agenda (c : CraneId) : AgendaInvariant fun _ s => s.haltShown c := by
  intro t ts s h
  rcases h with ⟨q, hq, hs⟩ | h
  · by_cases hr : ∃ cause, t = .raise cause c
    · obtain ⟨cause, rfl⟩ := hr
      have after := handOffs_takeCause cause c ts s
      cases hm : q.masks cause with
      | true =>
        refine .inl ⟨q, ?_, hs⟩
        simp only [doTask, State.takeCause_masked hq hs.registered hm, CascadeMoves.silenceEvent_permit, hq]
      | false =>
        rw [State.takeCause_halts hq hs hm] at after
        exact .inr (after.flags _ (State.setEvent_event_same _ _))
    · refine .inl ⟨q, ?_, hs⟩
      rw [doTask_permit ts s fun cause e => hr ⟨cause, e⟩, hq]
  · exact .inr ((handOffs_doTask t ts s).flags _ h)


/-- A cause raised for a registered crane and not masked is caught, and stays so through what follows (R125). -/
theorem State.raise_caught {s : State} {cause : Cause} {c : CraneId} {p : Permit} (hp : s.permit c = some p)
    (ho : p.state ≠ .offline) (hm : p.masks cause = false) : (s.raise cause c).caught cause c := by
  unfold State.raise
  rw [settle_cons]
  exact (handOffs_settle _ _).caught (doTask_raise_caught [] hp ho hm)

/-- SILENCE raised for a registered crane shows as a site event (R39, R125). -/
theorem State.raise_silence {s : State} {c : CraneId} {p : Permit} (hp : s.permit c = some p)
    (ho : p.state ≠ .offline) : (s.raise .silence c).event .silence = true := by
  unfold State.raise
  rw [settle_cons]
  exact (handOffs_settle _ _).flags _ ((handOffs_takeCause _ _ _ _).flags _ (State.takeCause_silence hp ho))

/-! ### The timers of a crane (R39, R115) -/

theorem State.endReport_of_left {s : State} {c : CraneId} (h : (s.position c).timer ≠ some 0) :
    s.endReport c = s := if_neg h

theorem State.endReport_of_expired {s : State} {c : CraneId} (h : (s.position c).timer = some 0) :
    s.endReport c = (s.editPosition c fun q => { q with timer := none, silent := true }).raise .silence c :=
  if_pos h

theorem State.endStow_of_expired {s : State} {c : CraneId} {p : Permit} (hp : s.permit c = some p)
    (hs : p.state = .stowing) (ht : p.stowTimer = some 0) :
    s.endStow c =
      (s.editPermit c fun p => { p with stowTimer := none, stowOverdue := true }).setEvent .stowOverdue := by
  unfold State.endStow
  rw [hp]
  exact if_pos ⟨ht, hs⟩

theorem State.endStow_of_left {s : State} {c : CraneId}
    (h : ∀ p, s.permit c = some p → p.state ≠ .stowing ∨ p.stowTimer ≠ some 0) : s.endStow c = s := by
  unfold State.endStow
  cases hp : s.permit c with
  | none => rfl
  | some p => exact if_neg fun due => (h p hp).elim (· due.2) (· due.1)

end Sys2Proof.Machine

namespace Sys2Proof.Proofs

open Sys2Proof.Machine

/-- Settles O51: the expiry of each timer in one equation, and what a raised cause does. -/
theorem craneTimersExpire : Obligations.CraneTimersExpire := by
  intro c s
  refine ⟨fun h => congrArg Host.Outcome.next (State.endReport_of_left h), fun h => ?_,
    fun p hp hs ht => congrArg Host.Outcome.next (State.endStow_of_expired hp hs ht),
    fun h => congrArg Host.Outcome.next (State.endStow_of_left h)⟩
  refine ⟨_, congrArg Host.Outcome.next (State.endReport_of_expired h), handOffs_raise _ _ _, fun p hp ho => ?_⟩
  have record : (s.editPosition c fun o => { o with timer := none, silent := true }).permit c = some p := hp
  obtain ⟨q, hq, latched, -⟩ := State.raise_caught record ho rfl (cause := .silence)
  refine ⟨State.raise_silence record ho, q, hq, latched, fun hs => ?_⟩
  obtain ⟨⟨q', hq', halted, factor, -⟩, trip⟩ := State.raise_halts (cause := .silence) record hs rfl
  obtain rfl : q = q' := Option.some.inj (hq.symm.trans hq')
  exact ⟨halted, factor, trip⟩

end Sys2Proof.Proofs

/-! ## HELLO (R122) -/

namespace Sys2Proof.Machine

/-- A HELLO that names its port's crane, of a configured crane with an area, from OFFLINE (R122). -/
theorem serveHello_registers {c : CraneId} {body : List Byte} {s : State} {p : Permit}
    (hb : byteAt body 0 = c.val + 1) (hp : s.permit c = some p) (ha : (s.box c).capacity ≠ 0)
    (ho : p.state = .offline) :
    serveHello c body s = ({ result := .ok, body := (s.register c p).helloBody c }, s.register c p) := by
  unfold serveHello
  simp only [hb, craneNumber, ne_eq, not_true_eq_false, if_false, hp, ha, ho, if_true]

theorem serveHello_refused {c : CraneId} {n : Byte} {s : State} {x : Result}
    (h : (if n.toNat ≠ c.val + 1 then some Result.wrongPort
        else if s.permit c = none then some .notConfigured
        else if (s.box c).capacity = 0 then some .noArea
        else none) = some x) : serveHello c [n] s = refuse x s := by
  unfold serveHello
  rw [byteAt_cons_zero, craneNumber]
  by_cases hn : n.toNat ≠ c.val + 1
  · rw [if_pos hn] at h ⊢
    rw [Option.some.inj h]
  · rw [if_neg hn] at h ⊢
    cases hp : s.permit c with
    | none =>
      rw [if_pos hp] at h
      rw [Option.some.inj h]
    | some p =>
      rw [if_neg (by simp [hp])] at h
      split at h
      · next ha => simp only [ha, if_true, Option.some.inj h]
      · cases h

/-- The response to a HELLO shows the records behind it (R122). -/
theorem State.helloBody_of_permit {s : State} {c : CraneId} {q : Permit} (hq : s.permit c = some q) :
    s.helloBody c = byte q.state.code ++ byte q.factor ++ byte (s.wind c).stage.rank ++
      byte (q.latched.toList.filter id).length := by
  unfold State.helloBody
  rw [hq]

theorem Position.startTimer_eq (time : Nat) (o : Position) :
    o.startTimer time = { o with timer := some (o.timer.getD (10 * time)) } := by
  unfold Position.startTimer
  split
  · next h => simp [h, tenths]
  · next h =>
    rw [h]
    exact congrArg (fun t => { o with timer := t }) h

/-- Two edits of a permit record that agree on the record. -/
theorem State.editPermit_congr {s : State} {c : CraneId} {p : Permit} {f g : Permit → Permit}
    (hp : s.permit c = some p) (h : f p = g p) : s.editPermit c f = s.editPermit c g := by
  have hp' : s.permits[c] = some p := hp
  simp only [State.editPermit, Table.edit, hp', Option.map_some, h]

/-- Registration is its two edits and the grant evaluations that follow (R38, R122). -/
theorem State.register_eq {s : State} {c : CraneId} {p : Permit} (hp : s.permit c = some p) :
    s.register c p = ((s.editPermit c fun p =>
        if (s.wind c).stage = .stop then
          { p with state := .stowing, stowTimer := some (100 * p.config.stowTime), stowOverdue := false }
        else { p with state := .disarmed }).editPosition c fun o =>
      { o with timer := some (o.timer.getD (10 * p.config.reportTime)) }).evaluateClaims c := by
  unfold State.register
  rw [State.editPermit_congr (g := fun p =>
    if (s.wind c).stage = .stop then
      { p with state := .stowing, stowTimer := some (100 * p.config.stowTime), stowOverdue := false }
    else { p with state := .disarmed }) hp rfl, funext (Position.startTimer_eq p.config.reportTime)]

end Sys2Proof.Machine

namespace Sys2Proof.Proofs

open Sys2Proof.Machine

/-- Settles O14: the rows of R122 by `serveHello_refused`, the registration by `State.register_eq`. -/
theorem helloRegisters : Obligations.HelloRegisters := by
  intro c tag s hr
  refine ⟨fun n x h => refusedAs_crane .hello rfl hr rfl (serveHello_refused h), fun p hp ho ha => ?_⟩
  have taken := serveHello_registers (s := s.underway (.crane c)) (body := [BitVec.ofNat 8 (c.val + 1)])
    (toNat_ofNat_crane c) hp (Nat.ne_of_gt ha) ho
  have record : (s.underway (.crane c)).permit c = some p := hp
  rw [State.register_eq record] at taken
  generalize hd : State.editPosition c _ _ = d at taken
  have moves := handOffs_evaluateClaims c d
  obtain ⟨p', hp'⟩ : ∃ p', d.permit c = some p' := by
    rw [← hd]
    exact ⟨_, (State.editPermit_permit_same _ _ _).trans (congrArg _ hp)⟩
  obtain ⟨q, hq, -⟩ := moves.permit hp'
  have winds : (d.evaluateClaims c).wind c = s.wind c := by
    unfold State.wind
    rw [moves.winds, ← hd]
    rfl
  rw [State.helloBody_of_permit hq, winds] at taken
  exact ⟨_, q, servedAs_crane .hello rfl hr rfl taken rfl (hd ▸ moves), hq⟩

end Sys2Proof.Proofs

/-! ## A recomputation and its hand-offs (R35 to R37)

Three facts come true when a task of the crane's own recomputation is carried out, and stand behind it: the
figures (`State.figured`), the mark and the rooms (`State.roomsFit`), and ENCROACH under the mark. A grant to
the crane puts them off to the recomputation that it starts (`judgedAfter`). -/

namespace Sys2Proof.Machine

/-! ### Holdings -/

theorem State.heldBy_congr {s t : State} {z : ZoneId} (h : (t.zone z).sans = (s.zone z).sans) (c : CraneId) :
    t.heldBy z c = s.heldBy z c := by
  have holder (u : State) : u.heldBy z c = (u.zone z).sans.state.holding.any (·.holder == c) := by
    rw [State.heldBy_eq_any]
    simp only [ZoneDyn.sans]
    cases (u.zone z).state <;> rfl
  rw [holder, holder, h]

theorem State.heldBy_of_zones {s t : State} (h : t.zones = s.zones) (z : ZoneId) (c : CraneId) :
    t.heldBy z c = s.heldBy z c :=
  State.heldBy_congr (congrArg ZoneDyn.sans (State.zone_of_zones h z)) c

theorem State.examine_heldBy (s : State) (y z : ZoneId) (c : CraneId) : (s.examine y).heldBy z c = s.heldBy z c := by
  obtain ⟨-, here, other⟩ := s.examine_acts y
  refine State.heldBy_congr ?_ c
  by_cases hz : z = y
  · exact hz ▸ here
  · rw [other z hz]

/-- A grant to another crane changes none of a crane's holdings (R53, R56). -/
theorem State.grantTo_heldBy {s : State} {y : ZoneId} {cl : Claim} {c : CraneId} (hc : cl.crane ≠ c)
    (free : (s.zone y).state = .free) (notify : Bool) (z : ZoneId) :
    (s.grantTo y cl notify).heldBy z c = s.heldBy z c := by
  have granted : (s.grantTo y cl notify).zone z = (s.editZone y (ZoneDyn.grant cl)).zone z := by
    unfold State.grantTo
    split <;> simp
  rw [State.heldBy_eq_any, State.heldBy_eq_any, granted, State.editZone_zone]
  split
  · next hz =>
    rw [hz, free]
    simp [ZoneDyn.grant, ZoneState.holding, hc]
  · rfl

/-- Only a grant to the crane changes its holdings, and it lets the crane be recomputed (R34, R56). -/
theorem doTask_heldBy (t : Task) (ts : List Task) (s : State) (c : CraneId) :
    (∀ z, (doTask t ts s).2.heldBy z c = s.heldBy z c) ∨ .recompute c ∈ (doTask t ts s).1 := by
  cases t with
  | evaluate y =>
    simp only [doTask]
    cases he : s.firstEligible y with
    | none => exact .inl fun _ => rfl
    | some cl =>
      by_cases hc : cl.crane = c
      · exact .inr (hc ▸ recompute_mem_afterGrant y cl.crane ts)
      · have free := (State.grantable_free (State.firstEligible_some he).2).1
        exact .inl (State.grantTo_heldBy hc free true)
  | recompute d =>
    simp only [doTask]
    cases hr : s.recomputeStage d with
    | none => exact .inl fun _ => rfl
    | some x => exact .inl fun z => State.heldBy_of_zones (State.recomputeStage_zones hr) z c
  | handOff y d e => exact .inl fun _ => rfl
  | judge d =>
    have same := fun z => State.heldBy_of_zones (s.judgeStage_zones d) z c
    simp only [doTask]
    split <;> exact .inl same
  | raise cause d =>
    have same := fun z => State.heldBy_of_zones (takeCause_zones cause d s) z c
    simp only [doTask]
    split
    all_goals next h =>
      rw [h] at same
      exact .inl same
  | examine y => exact .inl fun z => s.examine_heldBy y z c

/-! ### The tasks of a crane's own recomputation -/

/-- A position record with its mark and its rooms (R33). -/
def Position.judged (unheld : Bool) (cw ccw : Nat) (o : Position) : Position :=
  { o with unheld := unheld, cw := cw, ccw := ccw }

/-- The crane has a last report and a configuration. -/
def State.reports (c : CraneId) (r : Report) (g : CraneConfig) (s : State) : Prop :=
  (s.position c).report = some r ∧ ∃ p, s.permit c = some p ∧ p.config = g

theorem HandOffs.keepsReport {s t : State} (h : HandOffs s t) {c : CraneId} {r : Report} {g : CraneConfig}
    (hs : s.reports c r g) : t.reports c r g := by
  obtain ⟨hr, p, hp, hg⟩ := hs
  obtain ⟨q, hq, hpq⟩ := h.permit hp
  exact ⟨(h.reports c).1.trans hr, q, hq, hpq.config.trans hg⟩

section

variable {s : State} {c : CraneId} {r : Report} {g : CraneConfig}

theorem doTask_recompute (h : s.reports c r g) (ts : List Task) :
    doTask (.recompute c) ts s =
      ((s.arranged (fun x => x.1.val) (occupancyChanges (s.position c).occupied
          (s.newFigures c r g (s.position c)).occupied)).map (fun x => .handOff x.1 c x.2) ++ .judge c :: ts,
        (s.editPosition c fun _ => s.newFigures c r g (s.position c)).chosen) := by
  obtain ⟨hr, p, hp, rfl⟩ := h
  simp only [doTask, State.recomputeStage, hr, hp]

/-- The record that stage 4 leaves (R33). -/
theorem State.judgeStage_position (h : s.reports c r g) :
    (s.judgeStage c).position c =
      (s.position c).judged (s.occupiesUnheld c)
        (if s.occupiesUnheld c then 0 else cwRoom r.angle (g.margin + (s.position c).windMargin) (s.blocking c r))
        (if s.occupiesUnheld c then 0
          else ccwRoom r.angle (g.margin + (s.position c).windMargin) (s.blocking c r)) := by
  obtain ⟨hr, p, hp, rfl⟩ := h
  simp only [State.judgeStage, Position.judged, hr, hp, State.editPosition_position_same]

theorem doTask_judge_position (t : Task) (ts : List Task) (ht : t = .judge c) :
    (doTask t ts s).2.position c = (s.judgeStage c).position c := by
  subst ht
  simp only [doTask]
  split <;> rfl

end

/-! ### The figures (R27 to R32) -/

/-- The crane's figures are those of its report, configuration and wind record. -/
def State.figured (c : CraneId) (r : Report) (g : CraneConfig) (s : State) : Prop :=
  s.newFigures c r g (s.position c) = s.position c

theorem State.newFigures_congr {s t : State} (hw : t.winds = s.winds) (ha : t.active = s.active) (c : CraneId)
    (r : Report) (g : CraneConfig) : t.newFigures c r g = s.newFigures c r g := by
  funext o
  unfold State.newFigures State.meetsZone State.footprint State.record State.wind
  rw [hw, ha]

theorem State.figured_congr {s t : State} {c : CraneId} {r : Report} {g : CraneConfig} (hw : t.winds = s.winds)
    (ha : t.active = s.active) (hp : t.position c = s.position c) (h : s.figured c r g) : t.figured c r g := by
  unfold State.figured
  rw [State.newFigures_congr hw ha, hp, h]

theorem figured_agenda (c : CraneId) (r : Report) (g : CraneConfig) :
    AgendaInvariant fun ts s => s.reports c r g ∧ (.recompute c ∈ ts ∨ s.figured c r g) := by
  intro t ts s ⟨known, h⟩
  have moves := handOffs_doTask t ts s
  refine ⟨moves.keepsReport known, ?_⟩
  by_cases hr : t = .recompute c
  · subst hr
    rw [doTask_recompute known]
    refine .inr ?_
    unfold State.figured
    rw [State.newFigures_congr rfl rfl]
    simp only [State.chosen_position, State.editPosition_position_same]
    rfl
  · refine h.imp (fun h => mem_doTask_of_mem t s ((List.mem_cons.1 h).resolve_left fun e => hr e.symm)) fun h => ?_
    by_cases hj : t = .judge c
    · unfold State.figured
      rw [State.newFigures_congr moves.winds moves.active, doTask_judge_position t ts hj,
        State.judgeStage_position known]
      exact congrArg (Position.judged _ _ _) h
    · exact State.figured_congr moves.winds moves.active (doTask_position ts s hr hj) h

/-! ### The mark, the rooms and ENCROACH (R33, R37) -/

/-- A judgement of the crane is still to come. -/
def judgementWaits (c : CraneId) (ts : List Task) : Prop := .recompute c ∈ ts ∨ .judge c ∈ ts

/-- A fact that the crane's judgement brings about, and that no task between judgements takes away. -/
structure JudgedAfter (c : CraneId) (r : Report) (g : CraneConfig) (K : State → Prop)
    (Q : List Task → State → Prop) : Prop where
  known : ∀ s, K s → s.reports c r g
  moves : ∀ s t, HandOffs s t → K s → K t
  judged : ∀ ts s, K s → Q (doTask (.judge c) ts s).1 (doTask (.judge c) ts s).2
  other : ∀ t ts s, K s → t ≠ .recompute c → t ≠ .judge c → Q (t :: ts) s →
    judgementWaits c (doTask t ts s).1 ∨ Q (doTask t ts s).1 (doTask t ts s).2

theorem JudgedAfter.agenda {c : CraneId} {r : Report} {g : CraneConfig} {K : State → Prop}
    {Q : List Task → State → Prop} (h : JudgedAfter c r g K Q) :
    AgendaInvariant fun ts s => K s ∧ (judgementWaits c ts ∨ Q ts s) := by
  intro t ts s ⟨known, hq⟩
  refine ⟨h.moves _ _ (handOffs_doTask t ts s) known, ?_⟩
  by_cases hr : t = .recompute c
  · subst hr
    rw [doTask_recompute (h.known s known)]
    exact .inl (.inr (by simp))
  by_cases hj : t = .judge c
  · exact .inr (hj ▸ h.judged ts s known)
  rcases hq with (hw | hw) | hq
  · exact .inl (.inl (mem_doTask_of_mem t s ((List.mem_cons.1 hw).resolve_left fun e => hr e.symm)))
  · exact .inl (.inr (mem_doTask_of_mem t s ((List.mem_cons.1 hw).resolve_left fun e => hj e.symm)))
  · exact h.other t ts s known hr hj hq

/-- The fact stands at the end of a recomputation. -/
theorem JudgedAfter.recompute {c : CraneId} {r : Report} {g : CraneConfig} {K : State → Prop}
    {Q : List Task → State → Prop} (h : JudgedAfter c r g K Q) {s : State} (hs : K s) : Q [] (s.recompute c) := by
  obtain ⟨-, hw | hq⟩ := h.agenda.settle [.recompute c] s ⟨hs, .inl (.inl (by simp))⟩
  · rcases hw with hw | hw <;> cases hw
  · exact hq

/-- The mark and the rooms are those of the crane's holdings (R33). -/
structure State.RoomsFit (c : CraneId) (r : Report) (g : CraneConfig) (s : State) : Prop where
  unheld : (s.position c).unheld = s.occupiesUnheld c
  cw : (s.position c).cw =
    if s.occupiesUnheld c then 0 else cwRoom r.angle (g.margin + (s.position c).windMargin) (s.blocking c r)
  ccw : (s.position c).ccw =
    if s.occupiesUnheld c then 0 else ccwRoom r.angle (g.margin + (s.position c).windMargin) (s.blocking c r)

/-- What the judgement of stage 4 reads beside the report. -/
theorem State.holdings_congr {s t : State} {c : CraneId} (ha : t.active = s.active)
    (ho : (t.position c).occupied = (s.position c).occupied) (hh : ∀ z, t.heldBy z c = s.heldBy z c) (r : Report) :
    t.occupiesUnheld c = s.occupiesUnheld c ∧ t.blocking c r = s.blocking c r := by
  constructor
  · unfold State.occupiesUnheld
    simp only [ho, hh]
  · unfold State.blocking State.footprint State.record
    simp only [ha, hh]

theorem State.RoomsFit.congr {s t : State} {c : CraneId} {r : Report} {g : CraneConfig} (h : s.RoomsFit c r g)
    (ha : t.active = s.active) (hp : t.position c = s.position c) (hh : ∀ z, t.heldBy z c = s.heldBy z c) :
    t.RoomsFit c r g := by
  obtain ⟨hu, hb⟩ := State.holdings_congr ha (congrArg _ hp) hh r
  constructor <;> rw [hp, hu]
  · exact h.unheld
  · rw [hb]
    exact h.cw
  · rw [hb]
    exact h.ccw

theorem roomsFit_judgedAfter (c : CraneId) (r : Report) (g : CraneConfig) :
    JudgedAfter c r g (State.reports c r g) fun _ s => s.RoomsFit c r g where
  known _ h := h
  moves _ _ h hs := h.keepsReport hs
  judged ts s known := by
    have moves := handOffs_doTask (.judge c) ts s
    have record := (doTask_judge_position _ ts rfl).trans (State.judgeStage_position known)
    have held : ∀ z, (doTask (.judge c) ts s).2.heldBy z c = s.heldBy z c := fun z => by
      simp only [doTask]
      split <;> exact State.heldBy_of_zones (s.judgeStage_zones c) z c
    generalize (doTask (.judge c) ts s).2 = t at *
    obtain ⟨hu, hb⟩ := State.holdings_congr moves.active (by rw [record]; rfl) held r
    constructor <;> rw [hu, record]
    · rfl
    · rw [hb]
      rfl
    · rw [hb]
      rfl
  other t ts s _ hr hj fit :=
    (doTask_heldBy t ts s c).symm.imp .inl
      (fit.congr (handOffs_doTask t ts s).active (doTask_position ts s hr hj))

/-- The crane is in one of the permit states in which ENCROACH is judged (R37). -/
def State.encroachable (c : CraneId) (s : State) : Prop :=
  ∃ p, s.permit c = some p ∧ (p.state.halts ∨ p.state = .halted)

theorem HandOffs.encroachable {s t : State} (h : HandOffs s t) {c : CraneId} (hs : s.encroachable c) :
    t.encroachable c := by
  obtain ⟨p, hp, hst⟩ := hs
  obtain ⟨q, hq, hpq⟩ := h.permit hp
  refine ⟨q, hq, ?_⟩
  by_cases halts : p.state.halts
  · exact (em q.state.halts).imp_right fun hn => (hpq.halted halts hn).1
  · exact .inr ((hpq.state halts).trans (hst.resolve_left halts))

/-- The mark is clear, or ENCROACH is caught or about to be raised. -/
def State.encroachMet (c : CraneId) (ts : List Task) (s : State) : Prop :=
  (s.position c).unheld = true → s.caught .encroach c ∨ .raise .encroach c ∈ ts

theorem encroachMet_judgedAfter (c : CraneId) (r : Report) (g : CraneConfig) :
    JudgedAfter c r g (fun s => s.reports c r g ∧ s.encroachable c) (State.encroachMet c) where
  known _ h := h.1
  moves _ _ h hs := ⟨h.keepsReport hs.1, h.encroachable hs.2⟩
  judged ts s known := by
    obtain ⟨q, hq, hst⟩ := (handOffs_cascade.judge s c).encroachable known.2
    have judged : ((s.judgeStage c).permitState c).encroachJudged = true := by
      rw [State.permitState_of_permit hq]
      rcases hst with (hst | hst | hst) | hst <;> rw [hst] <;> rfl
    simp only [doTask, judged, Bool.and_true]
    split
    · exact fun _ => .inr (by simp)
    · next clear => exact fun marked => absurd marked clear
  other t ts s known hr hj met := by
    refine .inr fun marked => ?_
    rw [doTask_position ts s hr hj] at marked
    rcases met marked with caught | waits
    · exact .inl ((handOffs_doTask t ts s).caught caught)
    · rcases List.mem_cons.1 waits with rfl | waits
      · obtain ⟨-, p, hp, hst⟩ := known
        have registered : p.state ≠ .offline := hst.elim PermitState.halts.registered fun e => by simp [e]
        exact .inl (doTask_raise_caught ts hp registered rfl)
      · exact .inr (mem_doTask_of_mem t s waits)

end Sys2Proof.Machine

/-! ## A crane that enters a held zone (R36, R63, R64) -/

namespace Sys2Proof.Machine

/-- A recomputed crane that is a new occupant of a zone is handed to the Zone Arbiter as entering it (R32, R36). -/
theorem mem_occupancyChanges_entered {old new : List ZoneId} {z : ZoneId} (ho : old.contains z = false)
    (hn : new.contains z = true) : (z, true) ∈ occupancyChanges old new := by
  simp only [occupancyChanges, List.mem_map, List.mem_filter]
  exact ⟨z, ⟨List.mem_finRange z, by rw [ho, hn]; rfl⟩, by rw [hn]⟩

theorem State.judgeStage_occupied (s : State) (c d : CraneId) :
    ((s.judgeStage d).position c).occupied = (s.position c).occupied := by
  unfold State.judgeStage
  simp only
  split
  · rw [State.editPosition_position]
    split <;> rfl
  · rfl

/-- A crane enters a zone in its own recomputation, which hands the entry on (R35). -/
theorem doTask_enters (t : Task) (ts : List Task) {s : State} {c : CraneId} {z : ZoneId}
    (before : s.occupies c z = false) (after : (doTask t ts s).2.occupies c z = true) :
    .handOff z c true ∈ (doTask t ts s).1 := by
  have moved : ((doTask t ts s).2.position c).occupied ≠ (s.position c).occupied := fun e => by
    unfold State.occupies at before after
    rw [e, before] at after
    cases after
  by_cases hr : t = .recompute c
  · subst hr
    cases report : (s.position c).report with
    | none => simp [doTask, State.recomputeStage, report] at moved
    | some r =>
      cases hp : s.permit c with
      | none => simp [doTask, State.recomputeStage, report, hp] at moved
      | some p =>
        rw [doTask_recompute ⟨report, p, hp, rfl⟩] at after ⊢
        simp only [State.occupies, State.chosen_position, State.editPosition_position_same] at after
        refine List.mem_append_left _ (List.mem_map.2 ⟨(z, true), ?_, rfl⟩)
        exact (State.mem_arranged _ _ _ _).2 (mem_occupancyChanges_entered before after)
  · refine absurd ?_ moved
    by_cases hj : t = .judge c
    · rw [doTask_judge_position t ts hj, State.judgeStage_occupied]
    · rw [doTask_position ts s hr hj]

/-- Another crane that enters a held zone raises INTRUSION for the holder (R63). -/
theorem raise_mem_handOffTasks {s : State} {z : ZoneId} {c d : CraneId} (held : s.heldBy z d = true) (hd : d ≠ c) :
    Task.raise .intrusion d ∈ s.handOffTasks z c true := by
  obtain ⟨x, hx, rfl⟩ := State.holding_of_heldBy held
  simp [State.handOffTasks, hx, hd]

/-- Crane `d` holds the zone and can be tripped by INTRUSION; where crane `c` is in the zone, the cause is
caught, or about to be raised. -/
def State.guarded (z : ZoneId) (c d : CraneId) (ts : List Task) (s : State) : Prop :=
  s.heldBy z d = true ∧ (∃ g, s.permit d = some g ∧ g.state ≠ .offline ∧ g.masks .intrusion = false) ∧
    (s.occupies c z = true →
      s.caught .intrusion d ∨ .raise .intrusion d ∈ ts ∨ .handOff z c true ∈ ts)

theorem guarded_agenda {z : ZoneId} {c d : CraneId} (hd : d ≠ c) : AgendaInvariant (State.guarded z c d) := by
  intro t ts s ⟨held, ⟨g, hg, registered, unmasked⟩, inside⟩
  have moves := handOffs_doTask t ts s
  obtain ⟨g', hg', hgg⟩ := moves.permit hg
  refine ⟨moves.heldBy held, ⟨g', hg', hgg.not_offline registered, (hgg.masks _).trans unmasked⟩,
    fun occupied => ?_⟩
  cases before : s.occupies c z with
  | false => exact .inr (.inr (doTask_enters t ts before occupied))
  | true =>
    rcases inside before with caught | raised | handed
    · exact .inl (moves.caught caught)
    · rcases List.mem_cons.1 raised with rfl | waits
      · exact .inl (doTask_raise_caught ts hg registered unmasked)
      · exact .inr (.inl (mem_doTask_of_mem t s waits))
    · rcases List.mem_cons.1 handed with rfl | waits
      · exact .inr (.inl (List.mem_append_left _ (raise_mem_handOffTasks held hd)))
      · exact .inr (.inr (mem_doTask_of_mem t s waits))

/-! ### Agendas one after the other -/

/-- `t` is `s` behind some agenda, the count of open orders apart. -/
def State.settlesTo (s t : State) : Prop := ∃ k ts, t = State.settle ts { s with choice := k }

theorem State.settlesTo_refl (s : State) : s.settlesTo s := ⟨s.choice, [], (settle_nil s).symm⟩

theorem State.settlesTo_evaluateClaims (c : CraneId) (s : State) : s.settlesTo (s.evaluateClaims c) :=
  ⟨s.choice + 1, s.claimTasks c, rfl⟩

theorem State.settlesTo_recompute (c : CraneId) (s : State) : s.settlesTo (s.recompute c) :=
  ⟨s.choice, [.recompute c], rfl⟩

section

variable {s t : State}

theorem State.settlesTo.handOffs (h : s.settlesTo t) : HandOffs s t := by
  obtain ⟨k, ts, rfl⟩ := h
  have chosen : HandOffs s { s with choice := k } := { HandOffs.refl s with }
  exact chosen.trans (handOffs_settle ts _)

theorem State.settlesTo.haltShown (h : s.settlesTo t) {c : CraneId} (hs : s.haltShown c) : t.haltShown c := by
  obtain ⟨k, ts, rfl⟩ := h
  exact (haltShown_agenda c).settle ts _ hs

theorem State.settlesTo.guarded (h : s.settlesTo t) {z : ZoneId} {c d : CraneId} (hd : d ≠ c)
    (hs : s.guarded z c d []) : t.guarded z c d [] := by
  obtain ⟨k, ts, rfl⟩ := h
  obtain ⟨held, trips, inside⟩ := hs
  refine (guarded_agenda hd).settle ts _ ⟨held, trips, fun occupied => ?_⟩
  exact .inl ((inside occupied).resolve_right (by simp))

end

/-! ## A taken REPORT (R25) -/

/-- The report, the restarted report timer and the end of silence (R25, R38, R40). -/
def State.reported (c : CraneId) (p : Permit) (r : Report) (s : State) : State :=
  s.editPosition c fun o =>
    { o with report := some r, timer := some (10 * p.config.reportTime), silent := false }

theorem State.editPosition_congr {s : State} {c : CraneId} {f g : Position → Position}
    (h : f (s.position c) = g (s.position c)) : s.editPosition c f = s.editPosition c g := by
  have h' : f s.positions[c] = g s.positions[c] := h
  simp only [State.editPosition, Table.edit, h']

theorem State.editPosition_editPosition (s : State) (c : CraneId) (f g : Position → Position) :
    (s.editPosition c f).editPosition c g = s.editPosition c fun o => g (f o) := by
  simp [State.editPosition, Table.edit]

/-- The effect of the mode on the permit record, case by case (R25 stage 2, R114). -/
theorem Permit.noteMode_eq (p : Permit) (m : Mode) :
    p.noteMode m =
      if p.state = .stowing ∧ m = .freeSlew then
        { p with state := .stowed, stowTimer := none, stowOverdue := false, stowedNote := false }
      else if p.state = .stowed ∧ m ≠ .freeSlew then { p with stowedNote := true }
      else p := by
  unfold Permit.noteMode
  cases p.state <;> by_cases hm : m = .freeSlew <;> simp [hm]

theorem Permit.noteMode_of_other {p : Permit} (h1 : p.state ≠ .stowing) (h2 : p.state ≠ .stowed) (m : Mode) :
    p.noteMode m = p := by
  simp [Permit.noteMode_eq, h1, h2]

theorem Permit.noteMode_state_stowing {p : Permit} (h : p.state = .stowing) (m : Mode) :
    (p.noteMode m).state = if m = .freeSlew then .stowed else .stowing := by
  by_cases hm : m = .freeSlew <;> simp [Permit.noteMode_eq, h, hm]

theorem Permit.noteMode_state_stowed {p : Permit} (h : p.state = .stowed) (m : Mode) :
    (p.noteMode m).state = .stowed := by
  by_cases hm : m = .freeSlew <;> simp [Permit.noteMode_eq, h, hm]

@[simp] theorem Permit.noteMode_config (p : Permit) (m : Mode) : (p.noteMode m).config = p.config := by
  rw [Permit.noteMode_eq]
  split
  · rfl
  · split <;> rfl

/-- Latched causes do not change what the mode does to the record. -/
theorem Permit.mayLatch.noteMode {p q : Permit} (h : p.mayLatch q) (m : Mode) :
    permitMayShift (some (p.noteMode m)) (some (q.noteMode m)) := by
  have same := permitMayShift_of_latch (p := some p) (q := some q) h
  by_cases halts : p.state.halts
  · have other {x : Permit} (hx : x.state.halts ∨ x.state = .halted) : x.noteMode m = x := by
      rcases hx with (hx | hx | hx) | hx <;> exact Permit.noteMode_of_other (by simp [hx]) (by simp [hx]) m
    rwa [other (.inl halts), other ((em _).imp_right fun hn => (h.halted halts hn).1)]
  · rw [p.noteMode_eq, q.noteMode_eq, h.state halts]
    split
    · simp only [permitMayShift] at same ⊢
      rw [same]
    · split
      · simp only [permitMayShift] at same ⊢
        rw [same]
      · exact same

/-- A taken REPORT by its stages: the record, what the end of silence starts, the mode with what it starts,
the recomputation (R25). -/
theorem State.takeReport_stages {s : State} {c : CraneId} {p : Permit} (hp : s.permit c = some p) (r : Report) :
    ∃ b p' e, (s.reported c p r).settlesTo b ∧ b.permit c = some p' ∧ p.mayLatch p' ∧
      (b.editPermit c fun _ => p'.noteMode r.mode).settlesTo e ∧ s.takeReport c p r = e.recompute c := by
  obtain ⟨b, hb, taken⟩ : ∃ b, (s.reported c p r).settlesTo b ∧
      s.takeReport c p r = (b.noteMode c r.mode).recompute c := by
    unfold State.takeReport
    simp only [State.editPosition_position_same, State.editPosition_editPosition]
    split
    · exact ⟨_, State.settlesTo_evaluateClaims c _, rfl⟩
    · next talking =>
      refine ⟨_, State.settlesTo_refl _, ?_⟩
      unfold State.reported
      rw [State.editPosition_congr]
      rw [Bool.not_eq_true] at talking
      rw [← talking]
      rfl
  obtain ⟨p', hp', latched⟩ := hb.handOffs.permit (show (s.reported c p r).permit c = some p from hp)
  refine ⟨b, p', b.noteMode c r.mode, hb, hp', latched, ?_, taken⟩
  unfold State.noteMode State.replacePermit
  rw [hp']
  simp only
  split
  · exact State.settlesTo_refl _
  · exact State.settlesTo_evaluateClaims c _

end Sys2Proof.Machine

/-! ### What a taken REPORT leaves -/

namespace Sys2Proof.Machine

theorem State.meetsZone_iff {s : State} {c : CraneId} {r : Report} {e : Envelope} {z : ZoneId} :
    s.meetsZone c r e z = true ↔ ∃ f, s.footprint z c = some f ∧ f.appliesTo r = true ∧ e.meets f = true := by
  unfold State.meetsZone
  cases s.footprint z c <;> simp

/-- The figures one by one (R27 to R32). -/
theorem State.figured.figures {s : State} {c : CraneId} {r : Report} {g : CraneConfig} (h : s.figured c r g) :
    let w := s.wind c
    let wm := windMarginOf w.blind w.gust g.caution g.windGain g.windMax
    let env := envelopeOf r (stopReachOf r.rate g.stopTime) (g.margin + wm)
    (s.position c).stopReach = stopReachOf r.rate g.stopTime ∧ (s.position c).windMargin = wm ∧
      (s.position c).envelope = some env ∧
      ∀ z, z ∈ (s.position c).occupied ↔
        ∃ f, s.footprint z c = some f ∧ f.appliesTo r = true ∧ env.meets f = true := by
  intro w wm env
  refine ⟨(congrArg Position.stopReach h).symm, (congrArg Position.windMargin h).symm,
    (congrArg Position.envelope h).symm, fun z => ?_⟩
  have occupied : (s.position c).occupied = allZones.filter fun z => s.meetsZone c r env z :=
    (congrArg Position.occupied h).symm
  simp [occupied, allZones, State.meetsZone_iff]

theorem State.occupiesUnheld_iff {s : State} {c : CraneId} :
    s.occupiesUnheld c = true ↔ ∃ z ∈ (s.position c).occupied, s.heldBy z c = false := by
  simp [State.occupiesUnheld]

theorem State.blocking_eq (s : State) (c : CraneId) (r : Report) :
    s.blocking c r = allZones.filterMap fun z =>
      (s.footprint z c).filter fun f => !s.heldBy z c && f.appliesTo r := by
  unfold State.blocking
  congr 1
  funext z
  cases s.heldBy z c <;> cases s.footprint z c <;> simp [Option.filter]

/-- The fields of R26 from the records (R26). -/
theorem State.reportReply_of_permit {s : State} {c : CraneId} {q : Permit} (hq : s.permit c = some q) :
    s.reportReply c = byte q.state.code ++ byte q.factor ++ byte (s.wind c).stage.rank ++
      twoBytes (s.position c).cw ++ twoBytes (s.position c).ccw ++
      twoBytes (q.config.margin + (s.position c).windMargin) ++ envelopeBytes (s.position c).envelope ++
      yesNo (s.position c).unheld := by
  unfold State.reportReply
  rw [hq]

theorem serveReport_taken {c : CraneId} {b : List Byte} {s : State} {p : Permit} {r : Report}
    (hp : s.permit c = some p) (ho : p.state ≠ .offline) (hb : reportOf b = some r) :
    serveReport c b s = ({ result := .ok, body := (s.takeReport c p r).reportReply c }, s.takeReport c p r) := by
  unfold serveReport
  simp only [hp, ho, if_false, hb]

/-- A frame with one permit record edited on both sides. -/
theorem CalendarFrame.editPermits {s t : State} (h : CalendarFrame s t) {c : CraneId} {p q : Permit}
    {f : Permit → Permit} (hp : s.permit c = some p) (ht : t.permit c ≠ none)
    (shift : permitMayShift (some (f p)) (some q)) :
    CalendarFrame (s.editPermit c f) (t.editPermit c fun _ => q) :=
  { h with
    permits := fun d => by
      rw [State.editPermit_permit, State.editPermit_permit]
      split
      · next hd =>
        obtain ⟨x, hx⟩ := Option.ne_none_iff_exists'.1 ht
        rw [hd, hp, hx]
        exact shift
      · exact h.permits d }

/-- A crane that a latch would halt does not change its permit by a report (R25 stage 2). -/
theorem State.haltShown.noteMode {s : State} {c : CraneId} {p : Permit} {d : CraneId} (hp : s.permit c = some p)
    (m : Mode) (h : s.haltShown d) : (s.editPermit c fun _ => p.noteMode m).haltShown d := by
  refine h.imp (fun ⟨q, hq, hs⟩ => ⟨q, ?_, hs⟩) id
  rw [State.editPermit_permit]
  split
  · next hd =>
    subst hd
    obtain rfl : q = p := Option.some.inj (hq.symm.trans hp)
    rw [hp, Option.map_some, Permit.noteMode_of_other]
    all_goals rcases hs with hs | hs | hs <;> simp [hs]
  · exact hq

section

variable {s : State} {c : CraneId} {p : Permit}

/-- The request's own effect leads to the state behind a REPORT within the calendar frame. -/
theorem State.takeReport_frame (hp : s.permit c = some p) (r : Report) :
    CalendarFrame ((s.reported c p r).editPermit c (·.noteMode r.mode)) (s.takeReport c p r) := by
  obtain ⟨b, p', e, hb, hp', latched, he, taken⟩ := State.takeReport_stages hp r
  rw [taken]
  have record : (s.reported c p r).permit c = some p := hp
  have edited := (CalendarFrame.of_handOffs hb.handOffs).editPermits (f := (·.noteMode r.mode)) record
    (by simp [hp']) (latched.noteMode r.mode)
  exact (edited.trans (.of_handOffs he.handOffs)).trans (.of_handOffs (handOffs_recompute c e))

theorem State.takeReport_stands (hp : s.permit c = some p) (r : Report) :
    (s.takeReport c p r).bookings = s.bookings ∧ (s.takeReport c p r).arrivals = s.arrivals ∧
      (s.takeReport c p r).active = s.active := by
  obtain ⟨b, p', e, hb, -, -, he, taken⟩ := State.takeReport_stages hp r
  have h1 := hb.handOffs
  have h2 := he.handOffs
  have h3 := handOffs_recompute c e
  rw [taken]
  exact ⟨h3.bookings.trans (h2.bookings.trans h1.bookings), h3.arrivals.trans (h2.arrivals.trans h1.arrivals),
    h3.active.trans (h2.active.trans h1.active)⟩

/-- The crane's permit record behind a REPORT: latches behind the effect of the mode behind latches. -/
theorem State.takeReport_permit (hp : s.permit c = some p) (r : Report) :
    ∃ p' q, p.mayLatch p' ∧ (p'.noteMode r.mode).mayLatch q ∧ (s.takeReport c p r).permit c = some q := by
  obtain ⟨b, p', e, -, hp', latched, he, taken⟩ := State.takeReport_stages hp r
  have record : (b.editPermit c fun _ => p'.noteMode r.mode).permit c = some (p'.noteMode r.mode) := by
    simp [hp']
  obtain ⟨q, hq, hpq⟩ := (he.handOffs.trans (handOffs_recompute c e)).permit record
  exact ⟨p', q, latched, hpq, taken ▸ hq⟩

/-- Another crane's permit record behind a REPORT. -/
theorem State.takeReport_permit_other (hp : s.permit c = some p) (r : Report) {d : CraneId} (hd : d ≠ c)
    {g : Permit} (hg : s.permit d = some g) :
    ∃ g', (s.takeReport c p r).permit d = some g' ∧ g.mayLatch g' := by
  obtain ⟨b, p', e, hb, -, -, he, taken⟩ := State.takeReport_stages hp r
  obtain ⟨g1, hg1, h1⟩ := hb.handOffs.permit (show (s.reported c p r).permit d = some g from hg)
  have record : (b.editPermit c fun _ => p'.noteMode r.mode).permit d = some g1 := by
    rw [State.editPermit_permit_other _ _ hd, hg1]
  obtain ⟨g2, hg2, h2⟩ := (he.handOffs.trans (handOffs_recompute c e)).permit record
  exact ⟨g2, taken ▸ hg2, Permit.mayLatch_trans h1 h2⟩

/-- The recomputation of a REPORT starts from the report taken. -/
theorem State.takeReport_recomputes (hp : s.permit c = some p) (r : Report) :
    ∃ e : State, s.takeReport c p r = e.recompute c ∧ e.reports c r p.config ∧
      (p.state.halts ∨ p.state = .halted → e.encroachable c) := by
  obtain ⟨b, p', e, hb, hp', latched, he, taken⟩ := State.takeReport_stages hp r
  have known : (s.reported c p r).reports c r p.config :=
    ⟨by simp [State.reported], p, hp, rfl⟩
  have record : (b.editPermit c fun _ => p'.noteMode r.mode).permit c = some (p'.noteMode r.mode) := by
    simp [hp']
  refine ⟨e, taken, he.handOffs.keepsReport ?_, fun hs => he.handOffs.encroachable ?_⟩
  · exact ⟨(hb.handOffs.keepsReport known).1, _, record, by simp [latched.config]⟩
  · obtain ⟨x, hx, hst⟩ := hb.handOffs.encroachable
      (show (s.reported c p r).encroachable c from ⟨p, hp, hs⟩)
    obtain rfl : p' = x := Option.some.inj (hp'.symm.trans hx)
    refine ⟨_, record, ?_⟩
    rw [Permit.noteMode_of_other]
    · exact hst
    all_goals rcases hst with (hst | hst | hst) | hst <;> simp [hst]

theorem State.takeReport_figured (hp : s.permit c = some p) (r : Report) :
    (s.takeReport c p r).figured c r p.config := by
  obtain ⟨e, taken, known, -⟩ := State.takeReport_recomputes hp r
  obtain ⟨-, waits | fits⟩ := (figured_agenda c r p.config).settle [.recompute c] e ⟨known, .inl (by simp)⟩
  · cases waits
  · exact taken ▸ fits

theorem State.takeReport_roomsFit (hp : s.permit c = some p) (r : Report) :
    (s.takeReport c p r).RoomsFit c r p.config := by
  obtain ⟨e, taken, known, -⟩ := State.takeReport_recomputes hp r
  exact taken ▸ (roomsFit_judgedAfter c r p.config).recompute known

/-- ENCROACH under the mark (R37). -/
theorem State.takeReport_encroach (hp : s.permit c = some p) (r : Report)
    (hs : p.state.halts ∨ p.state = .halted) (marked : ((s.takeReport c p r).position c).unheld = true) :
    (s.takeReport c p r).caught .encroach c := by
  obtain ⟨e, taken, known, judged⟩ := State.takeReport_recomputes hp r
  have met : (s.takeReport c p r).encroachMet c [] :=
    taken ▸ (encroachMet_judgedAfter c r p.config).recompute ⟨known, judged hs⟩
  exact (met marked).resolve_right (by simp)

/-- No crane is halted by a REPORT without site event TRIP (R125). -/
theorem State.takeReport_haltShown (hp : s.permit c = some p) (r : Report) {d : CraneId} {g : Permit}
    (hg : s.permit d = some g) (hs : g.state.halts) : (s.takeReport c p r).haltShown d := by
  obtain ⟨b, p', e, hb, hp', -, he, taken⟩ := State.takeReport_stages hp r
  have start : (s.reported c p r).haltShown d := .inl ⟨g, hg, hs⟩
  rw [taken]
  exact (e.settlesTo_recompute c).haltShown (he.haltShown ((hb.haltShown start).noteMode hp' r.mode))

/-- INTRUSION for the holder of a zone that the crane enters (R63). -/
theorem State.takeReport_intrusion (hp : s.permit c = some p) (r : Report) {z : ZoneId} {d : CraneId} {g : Permit}
    (hd : d ≠ c) (held : s.heldBy z d = true) (hg : s.permit d = some g) (registered : g.state ≠ .offline)
    (unmasked : g.masks .intrusion = false) (outside : s.occupies c z = false)
    (inside : (s.takeReport c p r).occupies c z = true) : (s.takeReport c p r).caught .intrusion d := by
  obtain ⟨b, p', e, hb, -, -, he, taken⟩ := State.takeReport_stages hp r
  have start : (s.reported c p r).guarded z c d [] := by
    refine ⟨held, ⟨g, hg, registered, unmasked⟩, fun occupied => ?_⟩
    simp only [State.occupies, State.reported, State.editPosition_position_same] at occupied outside
    rw [outside] at occupied
    cases occupied
  obtain ⟨held', ⟨g', hg', trips⟩, inside'⟩ := hb.guarded hd start
  have edited : (b.editPermit c fun _ => p'.noteMode r.mode).guarded z c d [] := by
    have same := b.editPermit_permit_other (fun _ => p'.noteMode r.mode) hd
    refine ⟨held', ⟨g', same.trans hg', trips⟩, fun occupied => (inside' occupied).imp_left ?_⟩
    exact fun ⟨x, hx, caught⟩ => ⟨x, same.trans hx, caught⟩
  rw [taken] at inside ⊢
  exact (((e.settlesTo_recompute c).guarded hd (he.guarded hd edited)).2.2 inside).resolve_right (by simp)

end

/-! ### A permit record through latches, the mode and latches again (R25, R114, R125) -/

section

variable {p p' q : Permit} {m : Mode}

theorem Permit.mayLatch.stowing (h : p.mayLatch p') (k : (p'.noteMode m).mayLatch q) (hp : p.state = .stowing) :
    q.state = if m = .freeSlew then .stowed else .stowing := by
  have state := Permit.noteMode_state_stowing ((h.state (by simp [hp, PermitState.halts])).trans hp) m
  rw [k.state, state]
  rw [state]
  split <;> simp [PermitState.halts]

theorem Permit.mayLatch.stowed (h : p.mayLatch p') (k : (p'.noteMode m).mayLatch q) (hp : p.state = .stowed) :
    q.state = .stowed := by
  have state := Permit.noteMode_state_stowed ((h.state (by simp [hp, PermitState.halts])).trans hp) m
  rw [k.state, state]
  rw [state]
  simp [PermitState.halts]

theorem Permit.mayLatch.unnoted (h : p.mayLatch p') (k : (p'.noteMode m).mayLatch q)
    (hp : p.state.halts ∨ p.state = .halted) : p.mayLatch q := by
  have hp' : p'.state.halts ∨ p'.state = .halted := by
    by_cases halts : p.state.halts
    · exact (em _).imp_right fun hn => (h.halted halts hn).1
    · exact .inr ((h.state halts).trans (hp.resolve_left halts))
  rw [Permit.noteMode_of_other] at k
  · exact Permit.mayLatch_trans h k
  all_goals rcases hp' with (hp' | hp' | hp') | hp' <;> simp [hp']

end

theorem State.caught.latched {s : State} {cause : Cause} {c : CraneId} {q : Permit} (h : s.caught cause c)
    (hq : s.permit c = some q) : q.hasLatched cause = true ∧ ¬q.state.halts := by
  obtain ⟨x, hx, caught⟩ := h
  exact Option.some.inj (hx.symm.trans hq) ▸ caught

/-- A crane that was DISARMED, RUNNING or DERATED and has a cause caught is halted, with factor 0 and site
event TRIP (R125). -/
theorem State.caught.halted {s : State} {cause : Cause} {c : CraneId} {p q : Permit} (h : s.caught cause c)
    (hq : s.permit c = some q) (hpq : p.mayLatch q) (hp : p.state.halts) (shown : s.haltShown c) :
    q.state = .halted ∧ q.factor = 0 ∧ s.event .trip = true := by
  have hn := (h.latched hq).2
  obtain ⟨state, factor⟩ := hpq.halted hp hn
  refine ⟨state, factor, shown.resolve_left fun ⟨y, hy, live⟩ => hn ?_⟩
  rwa [Option.some.inj (hq.symm.trans hy)]

end Sys2Proof.Machine

namespace Sys2Proof.Proofs

open Sys2Proof.Machine

/-- Settles O17: the calendar frame, the figures, the rooms and the causes of `State.takeReport`, one lemma
each. -/
theorem reportTaken : Obligations.ReportTaken := by
  intro c tag b s p m hr hb hp ho hm ha r w reach wm blocking
  have hp' : (s.underway (.crane c)).permit c = some p := hp
  have read : reportOf b = some r := reportOf_eq_some hm ha
  have taken := serveReport_taken hp' ho read
  have frame := State.takeReport_frame hp' r
  obtain ⟨bookings, arrivals, active⟩ := State.takeReport_stands hp' r
  obtain ⟨p', q, latched, hpq, hq⟩ := State.takeReport_permit hp' r
  have figures := (State.takeReport_figured hp' r).figures
  have rooms := State.takeReport_roomsFit hp' r
  have encroach := State.takeReport_encroach hp' r
  have shown {d : CraneId} {g : Permit} := State.takeReport_haltShown hp' r (d := d) (g := g)
  have other {d : CraneId} (hd : d ≠ c) {g : Permit} := State.takeReport_permit_other hp' r hd (g := g)
  have intrusion {z : ZoneId} {d : CraneId} {g : Permit} :=
    State.takeReport_intrusion hp' r (z := z) (d := d) (g := g)
  generalize (s.underway (.crane c)).takeReport c p r = u at *
  have wind : u.wind c = w := by
    unfold State.wind
    rw [frame.winds]
    rfl
  have footprint (z : ZoneId) : u.footprint z c = s.footprint z c := by
    unfold State.footprint State.record
    rw [active]
    rfl
  have config : q.config = p.config := by
    rw [hpq.config, Permit.noteMode_config, latched.config]
  simp only [wind, footprint] at figures
  obtain ⟨stopReach, windMargin, envelope, occupied⟩ := figures
  have blocks : u.blocking c r = blocking u := by
    rw [State.blocking_eq]
    simp only [footprint]
    rfl
  obtain ⟨unheld, cw, ccw⟩ := rooms
  rw [blocks, windMargin, ← unheld] at cw ccw
  rw [State.reportReply_of_permit hq, wind, config, windMargin, envelope] at taken
  have served := servedAs_crane (F := CalendarFrame) (i := .report (.crane c) tag b) .report
    (direct := fun u => (u.reported c p r).editPermit c (·.noteMode m)) rfl hr hb taken rfl frame
  simp only [Permit.noteMode_eq] at served
  refine ⟨_, q, served, hq, stopReach, windMargin, envelope, occupied, bookings, arrivals, active,
    fun hs => ?_, fun hs => ?_, ?_, cw, ccw, fun marked => ⟨fun hs => ?_, fun hs => ?_⟩, ?_⟩
  · exact latched.stowing hpq hs
  · exact latched.stowed hpq hs
  · exact (Bool.eq_iff_iff.1 unheld).trans State.occupiesUnheld_iff
  · have judged : p.state.halts ∨ p.state = .halted := by
      rwa [PermitState.halts, or_assoc, or_assoc]
    obtain ⟨latch, hn⟩ := (encroach judged marked).latched hq
    refine ⟨?_, latch⟩
    by_cases halts : p.state.halts
    · exact ((latched.unnoted hpq judged).halted halts hn).1
    · exact ((latched.unnoted hpq judged).state halts).trans (judged.resolve_left halts)
  · exact ((encroach (.inl hs) marked).halted hq (latched.unnoted hpq (.inl hs)) hs (shown hp' hs)).2
  · intro z d g hd held hg registered unmasked outside inside
    have caught := intrusion hd held hg registered unmasked outside inside
    obtain ⟨g', hg', hgg⟩ := other hd hg
    exact ⟨g', hg', (caught.latched hg').1, fun hs => caught.halted hg' hgg hs (shown hg hs)⟩

end Sys2Proof.Proofs

/-! ## Claim queues in order (R44)

A queue is kept in order by every way the part changes it (`queueOk_filter`, `queueOk_map`,
`queueOk_insertClaim`), so every single move keeps the queues (`queuesKept_command`). -/

namespace Sys2Proof.Machine

/-! ### One queue -/

/-- The ordering key of R44 in its two items. -/
theorem Claim.before_iff {a b : Claim} :
    a.before b = true ↔ b.level < a.level ∨ (b.level = a.level ∧ a.arrival < b.arrival) := by
  simp [Claim.before]

theorem Claim.before_eq_false {a b : Claim} :
    a.before b = false ↔ a.level < b.level ∨ (a.level = b.level ∧ b.arrival ≤ a.arrival) := by
  rw [← Bool.not_eq_true, Claim.before_iff]
  omega

theorem queueOk_filter {q : List Claim} (h : queueOk q) (keep : Claim → Bool) : queueOk (q.filter keep) :=
  ⟨h.1.sublist (List.filter_sublist.map _), h.2.sublist List.filter_sublist⟩

/-- Claims changed one by one stay in order where no change takes one before another (R45). -/
theorem queueOk_map {q : List Claim} (h : queueOk q) (f : Claim → Claim) (hc : ∀ x, (f x).crane = x.crane)
    (hf : ∀ x y, (f y).before (f x) = true → y.before x = true) : queueOk (q.map f) := by
  obtain ⟨cranes, ordered⟩ := h
  refine ⟨?_, List.pairwise_map.2 (ordered.imp fun {x y} hxy => ?_)⟩
  · simpa only [List.map_map, Function.comp_def, hc] using cranes
  · exact Bool.eq_false_iff.2 fun hb => Bool.eq_false_iff.1 hxy (hf x y hb)

/-- A claim of a crane with none in the queue takes its place in order (R44). -/
theorem queueOk_insertClaim {cl : Claim} {q : List Claim} (h : queueOk q) (hn : ∀ x ∈ q, x.crane ≠ cl.crane) :
    queueOk (insertClaim cl q) := by
  obtain ⟨cranes, ordered⟩ := h
  refine ⟨((insertClaim_perm cl q).map _).nodup_iff.2 (List.nodup_cons.2 ⟨?_, cranes⟩), ?_⟩
  · simpa using hn
  · clear cranes hn
    induction q with
    | nil => exact List.pairwise_singleton _ _
    | cons x xs ih =>
      obtain ⟨head, tail⟩ := List.pairwise_cons.1 ordered
      unfold insertClaim
      split
      · next hx =>
        refine List.pairwise_cons.2 ⟨fun y hy => ?_, ordered⟩
        have first : y.before x = false := by
          rcases List.mem_cons.1 hy with rfl | hy
          · exact Claim.before_eq_false.2 (.inr ⟨rfl, le_rfl⟩)
          · exact head y hy
        rw [Claim.before_iff] at hx
        rw [Claim.before_eq_false] at first ⊢
        omega
      · next hx =>
        refine List.pairwise_cons.2 ⟨fun y hy => ?_, ih tail⟩
        rcases mem_insertClaim.1 hy with rfl | hy
        · exact Bool.eq_false_iff.2 hx
        · exact head y hy

/-- The crane's claim is taken out and put back in its place (R48). -/
theorem queueOk_reinsert {c : CraneId} {cl : Claim} {q : List Claim} (h : queueOk q) (hc : cl.crane = c) :
    queueOk (insertClaim cl (dropCrane c q)) :=
  queueOk_insertClaim (queueOk_filter h _) fun _ hx => hc ▸ (mem_dropCrane.1 hx).2

/-! ### One zone -/

/-- The zone's queue is in order, and its holder not in it (R44). -/
def ZoneDyn.Ordered (d : ZoneDyn) : Prop :=
  queueOk d.queue ∧ ∀ h, d.state.holding = some h → ∀ cl ∈ d.queue, cl.crane ≠ h.holder

theorem State.queuesOk_iff (s : State) : s.queuesOk ↔ ∀ z, (s.zone z).Ordered := Iff.rfl

/-- A zone with a queue in order whose cranes had a claim before, and no new holder. -/
theorem ZoneDyn.Ordered.of {a b : ZoneDyn} (h : a.Ordered) (hq : queueOk b.queue)
    (hc : ∀ x ∈ b.queue, ∃ y ∈ a.queue, y.crane = x.crane)
    (hh : b.state.holding = none ∨ b.state.holding.map (·.holder) = a.state.holding.map (·.holder)) :
    b.Ordered := by
  refine ⟨hq, fun x hx cl hcl => ?_⟩
  obtain ⟨y, hy, hyc⟩ := hc cl hcl
  rw [hx] at hh
  obtain ⟨w, hw, holder⟩ := Option.map_eq_some_iff.1 (hh.resolve_left nofun).symm
  have same : w.holder = x.holder := holder
  rw [← hyc, ← same]
  exact h.2 w hw y hy

theorem ZoneDyn.Ordered.requeue {a : ZoneDyn} (h : a.Ordered) {q : List Claim} (hq : queueOk q)
    (hc : ∀ x ∈ q, ∃ y ∈ a.queue, y.crane = x.crane) : ({ a with queue := q } : ZoneDyn).Ordered :=
  h.of hq hc (.inr rfl)

theorem ZoneDyn.Ordered.restate {a b : ZoneDyn} (h : a.Ordered) (hq : b.queue = a.queue)
    (hh : b.state.holding = none ∨ b.state.holding.map (·.holder) = a.state.holding.map (·.holder)) :
    b.Ordered :=
  h.of (hq ▸ h.1) (fun x hx => ⟨x, hq ▸ hx, rfl⟩) hh

theorem ZoneDyn.Ordered.filter {a : ZoneDyn} (h : a.Ordered) (keep : Claim → Bool) :
    ({ a with queue := a.queue.filter keep } : ZoneDyn).Ordered :=
  h.requeue (queueOk_filter h.1 keep) fun x hx => ⟨x, List.mem_of_mem_filter hx, rfl⟩

theorem ZoneDyn.Ordered.map {a : ZoneDyn} (h : a.Ordered) (f : Claim → Claim) (hc : ∀ x, (f x).crane = x.crane)
    (hf : ∀ x y, (f y).before (f x) = true → y.before x = true) :
    ({ a with queue := a.queue.map f } : ZoneDyn).Ordered :=
  h.requeue (queueOk_map h.1 f hc hf) fun _ hx => by
    obtain ⟨y, hy, rfl⟩ := List.mem_map.1 hx
    exact ⟨y, hy, (hc y).symm⟩

/-- A claim of the queue with another level or mark, put back in its place. -/
theorem ZoneDyn.Ordered.reinsert {a : ZoneDyn} (h : a.Ordered) {c : CraneId} {cl new : Claim}
    (hcl : a.queue.find? (·.crane == c) = some cl) (hc : new.crane = cl.crane) :
    ({ a with queue := insertClaim new (dropCrane c a.queue) } : ZoneDyn).Ordered := by
  have crane : new.crane = c := hc.trans (crane_of_find? hcl)
  refine h.requeue (queueOk_reinsert h.1 crane) fun x hx => ?_
  rcases mem_insertClaim.1 hx with rfl | hx
  · exact ⟨cl, List.mem_of_find?_eq_some hcl, hc.symm⟩
  · exact ⟨x, (mem_dropCrane.1 hx).1, rfl⟩

/-- A claim of a crane that neither holds the zone nor has a claim on it takes its place. -/
theorem ZoneDyn.Ordered.insert {a : ZoneDyn} (h : a.Ordered) {cl : Claim}
    (hn : ∀ x ∈ a.queue, x.crane ≠ cl.crane) (hh : ∀ x, a.state.holding = some x → x.holder ≠ cl.crane) :
    ({ a with queue := insertClaim cl a.queue } : ZoneDyn).Ordered := by
  refine ⟨queueOk_insertClaim h.1 hn, fun x hx y hy => ?_⟩
  rcases mem_insertClaim.1 hy with rfl | hy
  · exact (hh x hx).symm
  · exact h.2 x hx y hy

/-- A granted zone has a new holder, whose claim has left the queue (R56). -/
theorem ZoneDyn.Ordered.grant {a : ZoneDyn} (h : a.Ordered) (cl : Claim) : (ZoneDyn.grant cl a).Ordered := by
  refine ⟨queueOk_filter h.1 _, fun x hx y hy => ?_⟩
  cases hx
  exact (mem_dropCrane.1 hy).2

theorem ZoneState.elapse_holder (x : ZoneState) :
    x.elapse.holding.map (·.holder) = x.holding.map (·.holder) := by
  cases x <;> rfl

/-! ### The whole site -/

/-- Queues in order stay in order. -/
def QueuesKept (s t : State) : Prop := s.queuesOk → t.queuesOk

theorem queuesKept_of_each {s t : State} (h : ∀ z, (s.zone z).Ordered → (t.zone z).Ordered) : QueuesKept s t :=
  fun hs => t.queuesOk_iff.2 fun z => h z (s.queuesOk_iff.1 hs z)

theorem queuesKept_of_zones {s t : State} (h : t.zones = s.zones) : QueuesKept s t :=
  queuesKept_of_each fun z => by rw [State.zone_of_zones h z]; exact id

theorem queuesKept_editZone (s : State) (z : ZoneId) (f : ZoneDyn → ZoneDyn)
    (hf : (s.zone z).Ordered → (f (s.zone z)).Ordered) : QueuesKept s (s.editZone z f) :=
  queuesKept_of_each fun y => by
    rw [State.editZone_zone]
    split
    · next e => exact e ▸ hf
    · exact id

/-- Another holding of the same holder (R48, R68). -/
theorem queuesKept_rehold {s : State} {z : ZoneId} {h x : Holding} (held : s.holding z = some h)
    (hx : x.holder = h.holder) : QueuesKept s (s.editZone z fun d => { d with state := .held x }) :=
  queuesKept_editZone s z _ fun ok => ok.restate rfl <| .inr <| by
    rw [State.holding_eq_some.1 held]
    exact congrArg some hx

/-- A renumbering keeps the order of the arrival sequences, and so of the claims (R45). -/
theorem queuesKept_renumbered (s : State) : QueuesKept s s.renumbered := by
  refine queuesKept_of_each fun z ok => ?_
  simp only [State.renumbered, State.zone, Table.entry_mapAll]
  refine ok.map _ (fun _ => rfl) fun x y before => ?_
  rw [Claim.before_iff] at before ⊢
  refine before.imp_right fun ⟨level, arrival⟩ => ⟨level, ?_⟩
  by_contra later
  refine absurd arrival (Nat.not_lt.2 (List.Sublist.length_le (List.monotone_filter_right _ fun n hn => ?_)))
  rw [decide_eq_true_eq] at hn ⊢
  omega

theorem State.renumbered_noStake {s : State} {z : ZoneId} {c : CraneId} (h : s.noStake z c) :
    s.renumbered.noStake z c := by
  obtain ⟨free, none⟩ := h
  rw [State.heldBy_eq_false] at free
  simp only [State.noStake, State.heldBy_eq_false, State.renumbered, State.zone, Table.entry_mapAll]
  exact ⟨free, fun cl hcl => by
    obtain ⟨x, hx, rfl⟩ := List.mem_map.1 hcl
    exact none x hx⟩

/-- A placement on a zone that its crane neither holds nor has a claim on (R45, R51). -/
theorem queuesKept_place (s : State) (z : ZoneId) (c : CraneId) (booked emergency : Bool)
    (free : s.heldBy z c = false) (none : s.hasClaim z c = false) :
    QueuesKept s (s.place z c booked emergency) := by
  obtain ⟨u, cl, hu, rfl, -, -, -, heq⟩ := State.place_eq s z c booked emergency
  have noStake : s.noStake z cl.crane := ⟨free, State.hasClaim_eq_false.1 none⟩
  have ⟨kept, unheld, unqueued⟩ : QueuesKept s u ∧ u.noStake z cl.crane := by
    rcases hu with rfl | rfl
    · exact ⟨id, noStake⟩
    · exact ⟨queuesKept_renumbered s, State.renumbered_noStake noStake⟩
  rw [heq]
  exact fun hs => queuesKept_editZone ({ u with arrivals := u.arrivals + 1 } : State) z _
    (fun ok => ok.insert unqueued fun x hx =>
      State.heldBy_eq_false.1 unheld x (State.holding_eq_some.1 hx)) (kept hs)

theorem queuesOk_of_empty {s : State} (h : ∀ z, (s.zone z).queue = []) : s.queuesOk := fun z => by
  rw [h z]
  exact ⟨⟨List.nodup_nil, .nil⟩, nofun⟩

theorem State.announceStage_zones (s : State) (c : CraneId) (old new : Stage) (cause : StageCause) :
    (s.announceStage c old new cause).zones = s.zones := by
  unfold State.announceStage
  simp only [State.post_zones]
  split <;> rfl

/-- No move of a command disorders a queue (R44). -/
theorem queuesKept_command : CommandMoves QueuesKept where
  refl _ := id
  trans h k := k ∘ h
  chosen _ := queuesKept_of_zones rfl
  post _ _ _ := queuesKept_of_zones (State.post_zones _ _ _)
  trip _ := queuesKept_of_zones rfl
  silence _ := queuesKept_of_zones rfl
  grant s z cl _ _ := queuesKept_editZone s z _ fun ok => ok.grant cl
  demand _ _ _ _ held := queuesKept_rehold held rfl
  figures _ _ _ _ _ _ := queuesKept_of_zones rfl
  judge _ _ := queuesKept_of_zones (State.judgeStage_zones _ _)
  latchKeep _ _ _ _ _ _ _ _ := queuesKept_of_zones rfl
  latchHalt _ _ _ _ _ _ _ := queuesKept_of_zones rfl
  reclaim s z _ _ _ hcl := queuesKept_editZone s z _ fun ok => ok.reinsert hcl rfl
  regrant _ _ _ _ held := queuesKept_rehold held rfl
  suspend _ _ _ _ := queuesKept_of_zones rfl
  bookingEvent _ := queuesKept_of_zones rfl
  swap _ _ _ := queuesKept_of_zones rfl
  windStop _ := queuesKept_of_zones rfl
  hold _ _ _ := queuesKept_of_zones rfl
  govern _ _ _ _ := queuesKept_of_zones rfl
  stage s c _ new cause _ _ := queuesKept_of_zones (State.announceStage_zones s c _ new cause)
  applyDone _ := queuesKept_of_zones rfl
  rezone s z _ hf := queuesKept_editZone s z _ fun ok => ok.restate (hf _).1 (hf _).2
  drop s z keep := queuesKept_editZone s z _ fun ok => ok.filter keep
  remark s z c := queuesKept_editZone s z _ fun ok =>
    ok.map _ (fun _ => by split <;> rfl) fun x y before => by
      simp only [Claim.before_iff] at before ⊢
      split at before <;> split at before <;> exact before
  place := queuesKept_place
  adopt s z := queuesKept_of_each fun y ok => by
    rw [State.adopt_zone]
    split
    · exact ok
    · exact ok
  booking _ _ _ := queuesKept_of_zones rfl
  terminal _ := queuesKept_of_zones (by rw [State.countTerminal_eq])
  event _ _ := queuesKept_of_zones rfl
  clearEvents _ := queuesKept_of_zones rfl
  enables _ _ := queuesKept_of_zones rfl
  areas _ _ _ := queuesKept_of_zones rfl
  config _ _ _ _ _ := queuesKept_of_zones rfl
  permit _ _ _ _ _ _ := queuesKept_of_zones rfl
  position _ _ _ := queuesKept_of_zones rfl
  channel _ _ _ _ := queuesKept_of_zones rfl
  shadow _ _ := queuesKept_of_zones rfl
  upgrade s z _ _ _ hcl := queuesKept_editZone s z _ fun ok => ok.reinsert hcl rfl
  mark _ _ _ _ held := queuesKept_rehold held rfl
  clock _ _ _ _ := queuesKept_of_zones rfl
  entry s b := queuesKept_of_zones <| by
    unfold State.addBooking State.makeSlot
    simp only
    split
    · rfl
    · split <;> rfl
  restartBoxes _ := queuesKept_of_zones rfl
  restartZones s := fun _ => queuesOk_of_empty fun z => by
    simp only [State.restartZones, State.zone, Table.entry_mapAll]
  restartPositions _ := queuesKept_of_zones rfl
  restartPermits _ := queuesKept_of_zones rfl
  restartWind _ := queuesKept_of_zones rfl
  restartBookings _ := queuesKept_of_zones rfl
  restartKind _ _ := queuesKept_of_zones rfl
  link _ _ _ := queuesKept_of_zones rfl
  startTx _ _ := queuesKept_of_zones (State.startTx_zones _ _)
  line _ _ _ := queuesKept_of_zones rfl
  clearLoss _ p := queuesKept_of_zones (by cases p <;> rfl)
  restarted _ := fun _ => queuesOk_of_empty fun z => by
    simp [State.restarted, State.reset, State.zone, Table.entry]

/-- The passing of time changes no holder and no queue (log entry 1). -/
theorem queuesKept_elapse (s : State) : QueuesKept s s.elapse :=
  queuesKept_of_each fun z ok => by
    simp only [State.elapse, State.zone, Table.entry_mapAll]
    exact ok.restate rfl (.inr (ZoneState.elapse_holder _))

end Sys2Proof.Machine

namespace Sys2Proof.Proofs

open Sys2Proof.Machine

/-- Settles O57: every move of a command keeps the queues (`queuesKept_command`), and so does time. -/
theorem stepKeepsQueues : Obligations.StepKeepsQueues := by
  intro s t ok hstep
  unfold step at hstep
  split at hstep
  · cases hstep
    exact queuesKept_elapse s ok
  · exact queuesKept_command.exec hstep ok

end Sys2Proof.Proofs

/-! ## Requests on one zone: conditions and refusals (R50, R53, R57, R59, R61)

CLAIM, WITHDRAW, RELEASE and LIFT_DONE begin with the same rows (`State.craneGate_rows`). -/

namespace Sys2Proof.Machine

/-! ### The rows that crane requests begin with -/

theorem State.craneGate_open {c : CraneId} {s : State} (configured : s.permit c ≠ none)
    (registered : s.permitState c ≠ .offline) : s.craneGate c = none := by
  obtain ⟨p, hp⟩ := Option.ne_none_iff_exists'.1 configured
  rw [State.permitState_of_permit hp] at registered
  simp only [State.craneGate, hp, registered, if_false]

/-- NOT_CONFIGURED and NOT_REGISTERED are given by the gate, and any row behind them past it. -/
theorem State.craneGate_rows {c : CraneId} {s : State} {x : Result} {rest : Option Result}
    (h : (if s.permit c = none then some Result.notConfigured
      else if s.permitState c = .offline then some .notRegistered else rest) = some x) :
    s.craneGate c = some x ∨ (s.craneGate c = none ∧ rest = some x) := by
  unfold State.craneGate
  cases hp : s.permit c with
  | none => exact .inl (by rwa [if_pos hp] at h)
  | some p =>
    rw [if_neg (by simp [hp]), State.permitState_of_permit hp] at h
    split at h
    · next offline => exact .inl (by simpa only [offline, if_true] using h)
    · next registered => exact .inr ⟨by simp only [registered, if_false], h⟩

/-- The rows of a request with a zone number alone, up to BAD_FIELD. -/
theorem State.zoneGate_rows {c : CraneId} {s : State} {n : Byte} {x : Result}
    (h : (if s.permit c = none then some Result.notConfigured
      else if s.permitState c = .offline then some .notRegistered
      else if n.toNat = 0 ∨ 48 < n.toNat then some .badField
      else none) = some x) :
    s.craneGate c = some x ∨ (s.craneGate c = none ∧ zoneOf n.toNat = none ∧ x = .badField) := by
  refine (State.craneGate_rows h).imp_right fun ⟨gate, field⟩ => ⟨gate, ?_⟩
  split at field
  · next bad => exact ⟨zoneOf_eq_none bad, (Option.some.inj field).symm⟩
  · cases field

theorem craneOf_eq_none {n : Nat} (h : n = 0 ∨ 6 < n) : craneOf n = none := by
  unfold craneOf
  rw [dif_neg]
  omega

/-- A planner request with a crane and a zone number, one of them out of range. -/
theorem craneOf_zoneOf_eq_none {n k : Byte}
    (h : n.toNat = 0 ∨ 6 < n.toNat ∨ k.toNat = 0 ∨ 48 < k.toNat) :
    craneOf n.toNat = none ∨ zoneOf k.toNat = none := by
  rcases h with h | h | h | h
  · exact .inl (craneOf_eq_none (.inl h))
  · exact .inl (craneOf_eq_none (.inr h))
  · exact .inr (zoneOf_eq_none (.inl h))
  · exact .inr (zoneOf_eq_none (.inr h))

/-! ### The grant conditions (R53) -/

theorem State.otherOccupant_eq_false {s : State} {z : ZoneId} {c : CraneId} :
    s.otherOccupant z c = false ↔ ∀ d, d ≠ c → s.occupies d z = false := by
  simp [State.otherOccupant, allCranes]

theorem State.grantableButMark_iff {s : State} {c : CraneId} {z : ZoneId} :
    s.grantableButMark c z = true ↔
      (s.zone z).state = .free ∧ ((s.record z).kind = .shared ∨ s.openedForCrane z c = true) ∧
        (∀ d, d ≠ c → s.occupies d z = false) ∧
        (∃ p, s.permit c = some p ∧ (p.state = .disarmed ∨ p.state = .running ∨ p.state = .derated)) ∧
        (s.position c).silent = false := by
  unfold State.grantableButMark
  simp only [Bool.and_eq_true, Bool.or_eq_true, beq_iff_eq, Bool.not_eq_true', State.otherOccupant_eq_false,
    and_assoc]
  refine and_congr_right fun _ => and_congr_right fun _ => and_congr_right fun _ => and_congr_left fun _ => ?_
  unfold State.permitState
  cases s.permit c with
  | none => simp
  | some p => cases hp : p.state <;> simp [hp]

/-! ### CLAIM behind its gates (R50, R51) -/

/-- The rows of R50 for a zone of the site, with ZONE_BUSY of R51 behind them. -/
def State.claimRefusal (c : CraneId) (z : ZoneId) (s : State) : Option Result :=
  if s.footprint z c = none then some .noFootprint
  else if (s.record z).kind = .excluded ∧ s.openedForCrane z c = false then some .zoneClosed
  else if s.heldBy z c = true ∨ s.hasClaim z c = true then some .duplicate
  else if 24 ≤ s.countOf c then some .claimLimit
  else if (s.wind c).stage = .restrict ∧ s.levelFor c z false < 4 then some .windRestricted
  else if (s.wind c).stage = .stop then some .wrongState
  else if s.grantableButMark c z = false ∧ (s.record z).queueing = false then some .zoneBusy
  else none

theorem State.takeClaim_busy {c : CraneId} {z : ZoneId} {s : State}
    (h : s.grantableButMark c z = false ∧ (s.record z).queueing = false) :
    s.takeClaim c z = refuse .zoneBusy s := by
  simp [State.takeClaim, State.grantable, h]

theorem serveClaim_of_gate {c : CraneId} {z : ZoneId} {s : State} (gate : s.craneGate c = none) :
    serveClaim c [BitVec.ofNat 8 (z.val + 1)] s =
      ((s.claimRefusal c z).map fun x => refuse x s).getD (s.takeClaim c z) := by
  unfold serveClaim State.claimRefusal
  simp only [gate, byteAt_cons_zero, toNat_ofNat_zone, zoneOf_zoneNumber, Option.isNone_iff_eq_none,
    Bool.not_eq_true, Bool.or_eq_true]
  split
  · rfl
  split
  · rfl
  split
  · rfl
  split
  · rfl
  split
  · rfl
  split
  · rfl
  split
  · next busy => exact State.takeClaim_busy busy
  · rfl

/-! ### RELEASE and FORCE_RELEASE behind their gates (R59, R61) -/

/-- The rows that RELEASE and FORCE_RELEASE share. -/
def State.releaseRefusal (c : CraneId) (z : ZoneId) (s : State) : Option Result :=
  if s.heldBy z c = false then some .notHolder
  else if s.occupies c z = true then some .releaseOccupied
  else none

theorem State.releaseRefusal_rows {c : CraneId} {z : ZoneId} {s : State} {x : Result}
    (h : s.releaseRefusal c z = some x) (taken : Reply × State) :
    (if s.heldBy z c = false then refuse .notHolder s
      else if s.occupies c z = true then refuse .releaseOccupied s else taken) = refuse x s := by
  unfold State.releaseRefusal at h
  split at h
  · next unheld => rw [if_pos unheld, Option.some.inj h]
  · next held =>
    split at h
    · next occupied => rw [if_neg held, if_pos occupied, Option.some.inj h]
    · cases h

theorem serveRelease_refused {c : CraneId} {z : ZoneId} {s : State} {x : Result} (gate : s.craneGate c = none)
    (h : s.releaseRefusal c z = some x) : serveRelease c [BitVec.ofNat 8 (z.val + 1)] s = refuse x s := by
  unfold serveRelease
  simp only [gate, byteAt_cons_zero, toNat_ofNat_zone, zoneOf_zoneNumber, Bool.not_eq_true]
  exact State.releaseRefusal_rows h _

theorem serveForceRelease_refused {c : CraneId} {z : ZoneId} {s : State} {x : Result}
    (h : s.releaseRefusal c z = some x) :
    serveForceRelease [BitVec.ofNat 8 (c.val + 1), BitVec.ofNat 8 (z.val + 1)] s = refuse x s := by
  unfold serveForceRelease
  simp only [byteAt_cons_zero, byteAt_cons_succ, toNat_ofNat_zone, toNat_ofNat_crane, zoneOf_zoneNumber,
    craneOf_craneNumber, Bool.not_eq_true]
  exact State.releaseRefusal_rows h _

end Sys2Proof.Machine

namespace Sys2Proof.Proofs

open Sys2Proof.Machine

/-- Settles O19: `State.grantable` is the conditions of `State.grantableButMark_iff` and the mark. -/
theorem grantConditions : Obligations.GrantConditions := by
  intro c z s
  simp only [State.grantable, Bool.and_eq_true, State.grantableButMark_iff, Bool.not_eq_true', and_assoc]

/-- Settles O20: the rows of R50 up to the zone number by `State.zoneGate_rows`, those behind it by
`serveClaim_of_gate`. -/
theorem claimRefused : Obligations.ClaimRefused := by
  intro c tag s x hr
  refine ⟨fun n h => ?_, fun z hp ho h => ?_⟩
  · refine refusedAs_crane .claim rfl hr rfl ?_
    show serveClaim c [n] _ = _
    unfold serveClaim
    obtain gate | ⟨gate, number, rfl⟩ := State.zoneGate_rows (s := s.underway (.crane c)) h
    · simp only [gate]
    · simp only [gate, byteAt_cons_zero, number]
  · refine refusedAs_crane .claim rfl hr rfl ?_
    have refusal : (s.underway (.crane c)).claimRefusal c z = some x := h
    refine (serveClaim_of_gate (State.craneGate_open (s := s.underway (.crane c)) hp ho)).trans ?_
    rw [refusal]
    rfl

/-- Settles O23: the gates by `State.zoneGate_rows` and `craneOf_zoneOf_eq_none`, the two rows behind them by
`serveRelease_refused` and `serveForceRelease_refused`. -/
theorem releaseRefused : Obligations.ReleaseRefused := by
  intro c z tag n k s
  refine ⟨fun hr => ⟨fun x h => ?_, fun x hp ho h => ?_⟩, fun hr => ⟨fun h => ?_, fun x h => ?_⟩⟩
  · refine refusedAs_crane .release rfl hr rfl ?_
    show serveRelease c [n] _ = _
    unfold serveRelease
    obtain gate | ⟨gate, number, rfl⟩ := State.zoneGate_rows (s := s.underway (.crane c)) h
    · simp only [gate]
    · simp only [gate, byteAt_cons_zero, number]
  · exact refusedAs_crane .release rfl hr rfl
      (serveRelease_refused (State.craneGate_open (s := s.underway (.crane c)) hp ho) h)
  · refine refusedAs_planner .forceRelease rfl hr rfl ?_
    show serveForceRelease [n, k] _ = _
    unfold serveForceRelease
    simp only [byteAt_cons_zero, byteAt_cons_succ]
    rcases craneOf_zoneOf_eq_none h with bad | bad
    · simp only [bad]
    · rw [bad]
      split <;> simp_all
  · exact refusedAs_planner .forceRelease rfl hr rfl (serveForceRelease_refused h)

end Sys2Proof.Proofs

/-! ## Claims made and withdrawn (R51, R57, R68 to R71, R84)

A notice to another crane than the port's commutes with every write of the port's link
(`State.examined_editLink`), so a claim on a HELD zone is one equation: the queue and `State.examined`. -/

namespace Sys2Proof.Machine

/-! ### Effects that leave a port's link alone -/

theorem Table.edit_comm {α : Type} {n : Nat} (t : Table α n) {i j : Fin n} (f g : α → α) (h : i ≠ j) :
    Table.edit (Table.edit t i f) j g = Table.edit (Table.edit t j g) i f :=
  Table.ext_entry fun k => by
    simp only [Table.entry_edit]
    by_cases hi : k = i <;> by_cases hj : k = j <;> simp_all

theorem State.editLink_comm (s : State) {p q : Port} (f g : Link → Link) (h : p ≠ q) :
    (s.editLink p f).editLink q g = (s.editLink q g).editLink p f := by
  simp only [State.editLink, Table.edit_comm _ f g fun e => h (linkIdx_injective e)]

theorem State.startTx_editLink (s : State) {p : Port} {d : CraneId} (g : Link → Link) (h : .crane d ≠ p) :
    (s.editLink p g).startTx (.crane d) = (s.startTx (.crane d)).editLink p g := by
  unfold State.startTx
  rw [State.editLink_link_other s g h]
  simp only [State.editLink_box]
  split
  · rfl
  · split
    · exact State.editLink_comm s g _ h.symm
    · split
      · rfl
      · next rest _ => exact State.editLink_comm (s.editBox d fun b => { b with queue := rest }) g _ h.symm

/-- A notice to another crane than the port's leaves the port's link to every write. -/
theorem State.post_editLink (s : State) {p : Port} {d : CraneId} (n : Notice) (g : Link → Link)
    (h : .crane d ≠ p) : (s.editLink p g).post d n = (s.post d n).editLink p g := by
  by_cases room : (s.box d).queue.length < (s.box d).capacity
  · have posted : s.post d n = (s.editBox d fun b => { b with queue := b.queue ++ [n] }).startTx (.crane d) :=
      if_pos room
    rw [posted, ← State.startTx_editLink _ g h]
    exact if_pos room
  · have lost : s.post d n = (s.editBox d fun b => { b with loss := true }).setEvent .noticeLoss := if_neg room
    rw [lost]
    exact if_neg room

/-- An examination that tells no holder at the port leaves the port's link to every write (R68 to R71). -/
theorem State.examined_editLink (s : State) (z : ZoneId) {h : Holding} (q : List Claim) {p : Port}
    (g : Link → Link) (other : .crane h.holder ≠ p) :
    (s.editLink p g).examined z h q = (s.examined z h q).editLink p g := by
  unfold State.examined
  simp only [State.editLink_record]
  split
  · rfl
  · exact State.post_editLink (s.editZone z fun d =>
      { d with queue := q, state := .held { h with demand := demandAfter h (s.record z) q } }) _ g other

theorem State.examined_link (s : State) (z : ZoneId) {h : Holding} (q : List Claim) {c : CraneId}
    (other : h.holder ≠ c) : (s.examined z h q).link (.crane c) = s.link (.crane c) := by
  unfold State.examined
  simp only
  split
  · rfl
  · exact (State.post_aside _ _ other.symm).2

/-- A crane request whose block answers `reply` with an effect that leaves the port's link alone is taken. -/
theorem takenAs_crane {i : Instr} {c : CraneId} (k : CraneKind) {tag : Byte} {body : List Byte} {s : State}
    {reply : Reply} {eff : State → State}
    (hi : exec i s = .next (s.arrive (.crane c) { kind := k.code, tag := tag, body := body }))
    (hr : s.ready (.crane c)) (hb : body.length = k.length)
    (hs : serveCrane c k body (s.underway (.crane c)) = (reply, eff (s.underway (.crane c))))
    (hc : reply.clearLoss = false)
    (he : ∀ (g : Link → Link) (u : State), eff (u.editLink (.crane c) g) = (eff u).editLink (.crane c) g)
    (hl : (eff s).link (.crane c) = s.link (.crane c)) :
    TakenAs i (.crane c) k.code tag reply.result reply.body eff s := by
  unfold TakenAs
  rw [hi, State.arrive_effect s (.crane c) _ hr (hb ▸ k.length_le) reply eff
    ((serve_crane c k tag body hb _).trans hs) hc he hl]
  rfl

/-! ### A queue changed, and its zone examined (R68 to R71) -/

theorem State.editZone_editZone (s : State) (z : ZoneId) (f g : ZoneDyn → ZoneDyn) :
    (s.editZone z f).editZone z g = s.editZone z (g ∘ f) := by
  simp [State.editZone, Table.edit, Function.comp]

theorem State.editZone_congr {s : State} {z : ZoneId} {f g : ZoneDyn → ZoneDyn} (h : f (s.zone z) = g (s.zone z)) :
    s.editZone z f = s.editZone z g := by
  have h' : f s.zones[z] = g s.zones[z] := h
  simp only [State.editZone, Table.edit, h']

/-- What an examination finds in the queue is all that a change of the queue before it shows. -/
theorem State.examined_requeued (s : State) (z : ZoneId) (h : Holding) (f : List Claim → List Claim)
    (q : List Claim) : (s.editZone z fun d => { d with queue := f d.queue }).examined z h q = s.examined z h q := by
  unfold State.examined
  simp only [State.editZone_editZone]
  rfl

theorem State.examine_requeued (s : State) (z : ZoneId) {h : Holding} (held : s.holding z = some h)
    (f : List Claim → List Claim) :
    (s.editZone z fun d => { d with queue := f d.queue }).examine z = s.examined z h (f (s.zone z).queue) := by
  have still : (s.editZone z fun d => { d with queue := f d.queue }).holding z = some h := by
    rw [State.holding_eq_some, State.editZone_zone_same]
    exact State.holding_eq_some.1 held
  rw [State.examine_of_held z h _ still, State.examined_requeued, State.editZone_zone_same]

/-- The holding of a zone that has been examined with a queue (R68 to R71). -/
theorem State.examined_holding (s : State) (z : ZoneId) (h : Holding) (q : List Claim) :
    (s.examined z h q).holding z = some { h with demand := demandAfter h (s.record z) q } := by
  rw [State.holding_eq_some, State.examined_zone]

/-! ### A claim placed (R45, R51) -/

/-- The claim that a CLAIM of the crane makes, below the last arrival sequence (R45, R47, R51). -/
def State.newClaim (c : CraneId) (z : ZoneId) (s : State) : Claim :=
  { crane := c, level := s.levelFor c z false, booked := false, emergency := false, arrival := s.arrivals + 1 }

/-- The claim placed, below the last arrival sequence (R45). -/
def State.claimPlaced (c : CraneId) (z : ZoneId) (s : State) : State :=
  ({ s with arrivals := s.arrivals + 1 } : State).editZone z fun d =>
    { d with queue := insertClaim (s.newClaim c z) d.queue }

/-- The zone granted to the claim at once, which never stands in the queue (R51, R56). -/
def State.claimGranted (c : CraneId) (z : ZoneId) (s : State) : State :=
  ({ s with arrivals := s.arrivals + 1 } : State).editZone z fun d =>
    { d with
      state := .held { holder := c, level := s.levelFor c z false, emergency := false, demand := none } }

theorem State.place_below {s : State} (c : CraneId) (z : ZoneId) (h : s.arrivals < 65535) :
    s.place z c false false = s.claimPlaced c z := by
  unfold State.place
  rw [if_neg (Nat.not_le.2 h)]
  rfl

theorem State.takeClaim_granted {s : State} {c : CraneId} {z : ZoneId} (h : s.arrivals < 65535)
    (unclaimed : s.hasClaim z c = false) (grant : s.grantable c z = true) :
    s.takeClaim c z =
      ({ result := .granted }, (s.claimGranted c z).settle [.recompute c, .examine z]) := by
  have others : ∀ x ∈ (s.zone z).queue, x.crane ≠ c := State.hasClaim_eq_false.1 unclaimed
  have placed : (s.claimPlaced c z).claimOf z c = some (s.newClaim c z) :=
    (congrArg (fun d => d.queue.find? (·.crane == c)) (State.editZone_zone_same s z _)).trans
      (find?_insertClaim_self (cl := s.newClaim c z) others)
  have granted : (s.claimPlaced c z).editZone z (ZoneDyn.grant (s.newClaim c z)) = s.claimGranted c z := by
    refine (State.editZone_editZone ({ s with arrivals := s.arrivals + 1 } : State) z _ _).trans
      (State.editZone_congr ?_)
    have queue : dropCrane c (insertClaim (s.newClaim c z) (s.zone z).queue) = (s.zone z).queue := by
      rw [dropCrane_insertClaim (c := c) rfl]
      exact List.filter_eq_self.2 fun x hx => bne_iff_ne.2 (others x hx)
    exact congrArg (fun q => ({ s.zone z with queue := q, state := _ } : ZoneDyn)) queue
  unfold State.takeClaim
  simp only [grant, if_true, State.place_below c z h, placed, State.grantTo, Bool.false_eq_true, if_false, granted]

/-- A taken CLAIM that is not granted at once (R51). -/
theorem State.takeClaim_queued {s : State} {c : CraneId} {z : ZoneId} (h : s.arrivals < 65535)
    (wait : s.grantable c z = false) (queues : s.grantableButMark c z = true ∨ (s.record z).queueing = true) :
    s.takeClaim c z = ({ result := .queued }, ((s.claimPlaced c z).evaluate z).examine z) := by
  have queues' : (s.grantableButMark c z || (s.record z).queueing) = true := Bool.or_eq_true_iff.2 queues
  unfold State.takeClaim
  rw [if_neg (Bool.eq_false_iff.1 wait), if_pos queues', State.place_below c z h]

/-- A claim on a HELD zone is its place in the queue and the examination of the zone (R51, R68). -/
theorem State.takeClaim_held {s : State} {c : CraneId} {z : ZoneId} {h : Holding} (below : s.arrivals < 65535)
    (held : s.holding z = some h) (queues : (s.record z).queueing = true) :
    s.takeClaim c z = ({ result := .queued },
      ({ s with arrivals := s.arrivals + 1 } : State).examined z h
        (insertClaim (s.newClaim c z) (s.zone z).queue)) := by
  have state := State.holding_eq_some.1 held
  have wait : s.grantable c z = false := by
    by_contra grant
    have free := (State.grantable_free (Bool.not_eq_false _ ▸ grant)).1
    rw [state] at free
    cases free
  have still : ((s.claimPlaced c z).zone z).state = .held h :=
    (congrArg ZoneDyn.state (State.editZone_zone_same s z _)).trans state
  have idle : (s.claimPlaced c z).evaluate z = s.claimPlaced c z :=
    State.evaluate_of_none (State.firstEligible_of_not_free (by rw [still]; exact ZoneState.noConfusion))
  rw [State.takeClaim_queued below wait (.inr queues), idle]
  exact congrArg _ (State.examine_requeued ({ s with arrivals := s.arrivals + 1 } : State) z held
    (insertClaim (s.newClaim c z)))

/-- A CLAIM that no row of R50 refuses is taken. -/
theorem serveClaim_taken {c : CraneId} {z : ZoneId} {s : State} (gate : s.craneGate c = none)
    (footprint : s.footprint z c ≠ none) (opened : (s.record z).kind = .shared ∨ s.openedForCrane z c = true)
    (unheld : s.heldBy z c = false) (unclaimed : s.hasClaim z c = false) (limit : s.countOf c < 24)
    (wind : (s.wind c).stage = .calm ∨ (s.wind c).stage = .caution ∨
      ((s.wind c).stage = .restrict ∧ 4 ≤ s.levelFor c z false)) :
    serveClaim c [BitVec.ofNat 8 (z.val + 1)] s = s.takeClaim c z := by
  have present : (s.footprint z c).isNone = false :=
    Option.isNone_eq_false_iff.2 (Option.isSome_iff_ne_none.2 footprint)
  have admits : ¬((s.record z).kind = .excluded ∧ ¬s.openedForCrane z c = true) := fun ⟨excluded, shut⟩ =>
    opened.elim (fun shared => by rw [shared] at excluded; cases excluded) shut
  have fresh : (s.heldBy z c || s.hasClaim z c) = false := by rw [unheld, unclaimed]; rfl
  have restricted : ¬((s.wind c).stage = .restrict ∧ s.levelFor c z false < 4) := fun ⟨stage, low⟩ => by
    rw [stage] at wind
    simp at wind
    omega
  have stopped : (s.wind c).stage ≠ .stop := fun stage => by simp [stage] at wind
  unfold serveClaim
  simp only [gate, byteAt_cons_zero, toNat_ofNat_zone, zoneOf_zoneNumber, present, admits, fresh,
    Nat.not_le.2 limit, restricted, stopped, Bool.false_eq_true, if_false]

/-! ### A claim withdrawn (R57, R84) -/

theorem serveWithdraw_refused {c : CraneId} {z : ZoneId} {s : State} {x : Result} (gate : s.craneGate c = none)
    (h : (s.claimOf z c = none ∧ x = .notQueued) ∨
      ∃ cl, s.claimOf z c = some cl ∧ cl.emergency = true ∧ x = .wrongState) :
    serveWithdraw c [BitVec.ofNat 8 (z.val + 1)] s = refuse x s := by
  unfold serveWithdraw
  simp only [gate, byteAt_cons_zero, toNat_ofNat_zone, zoneOf_zoneNumber]
  obtain ⟨absent, rfl⟩ | ⟨cl, claim, emergency, rfl⟩ := h
  · simp only [absent]
  · simp only [claim, emergency, if_true]

theorem serveWithdraw_taken {c : CraneId} {z : ZoneId} {s : State} {cl : Claim} (gate : s.craneGate c = none)
    (claim : s.claimOf z c = some cl) (own : cl.emergency = false) :
    serveWithdraw c [BitVec.ofNat 8 (z.val + 1)] s = ({ result := .ok }, s.removeClaim z c) := by
  unfold serveWithdraw
  simp only [gate, byteAt_cons_zero, toNat_ofNat_zone, zoneOf_zoneNumber, claim, own, Bool.false_eq_true, if_false]

theorem State.removeClaim_handOffs (z : ZoneId) (c : CraneId) (s : State) :
    HandOffs (s.editZone z fun d => { d with queue := d.queue.filter (·.crane != c) }) (s.removeClaim z c) :=
  handOffs_cascade.examine z _

theorem State.removeClaim_held {s : State} {z : ZoneId} {h : Holding} (c : CraneId) (held : s.holding z = some h) :
    s.removeClaim z c = s.examined z h ((s.zone z).queue.filter (·.crane != c)) :=
  State.examine_requeued s z held (dropCrane c)

/-- The planner's withdrawal is the claim gone, its notice, and the examination of the zone (R58, R84). -/
theorem State.dropClaims_crane {s : State} {z : ZoneId} {c : CraneId} (reason : DropReason)
    (claim : s.claimOf z c ≠ none) :
    HandOffs (s.editZone z fun d => { d with queue := d.queue.filter (·.crane != c) })
        (s.dropClaims z (fun cl => cl.crane == c) reason) ∧
      ∀ h, s.holding z = some h → (s.dropClaims z (fun cl => cl.crane == c) reason).holding z =
        some { h with demand := demandAfter h (s.record z) ((s.zone z).queue.filter (·.crane != c)) } := by
  obtain ⟨cl, hcl⟩ := Option.ne_none_iff_exists'.1 claim
  obtain ⟨queued, crane⟩ := State.claimOf_some hcl
  generalize hd : (s.editZone z fun d => { d with queue := d.queue.filter (·.crane != c) }) = d
  generalize hgone : (s.zone z).queue.filter (fun cl => cl.crane == c) = gone
  have removed : gone ≠ [] :=
    hgone ▸ List.ne_nil_of_mem (List.mem_filter.2 ⟨queued, by simp [crane]⟩)
  have drop : s.dropClaims z (fun cl => cl.crane == c) reason =
      (d.each gone fun cl s => s.post cl.crane (.claimDropped z reason)).examine z := by
    rw [← hd, ← hgone]
    exact if_neg fun empty => removed (hgone ▸ List.isEmpty_iff.1 empty)
  have told := (State.each_post_zone gone z reason d z).1
  have posts := handOffs_cascade.each gone (fun cl s => s.post cl.crane (.claimDropped z reason))
    (fun _ _ s => handOffs_cascade.post s _ _) d
  rw [drop]
  generalize State.each gone _ d = u at told posts ⊢
  have here : u.zone z = { s.zone z with queue := (s.zone z).queue.filter (·.crane != c) } := by
    rw [told, ← hd, State.editZone_zone_same]
  have record : u.record z = s.record z := by
    unfold State.record
    rw [posts.active, ← hd]
    rfl
  refine ⟨posts.trans (handOffs_cascade.examine z u), fun h held => ?_⟩
  have still : u.holding z = some h := by
    rw [State.holding_eq_some, here]
    exact State.holding_eq_some.1 held
  rw [State.examine_of_held z h u still, State.examined_holding, record, here]

theorem servePlannerWithdraw_eq (c : CraneId) (z : ZoneId) (s : State) :
    servePlannerWithdraw [BitVec.ofNat 8 (c.val + 1), BitVec.ofNat 8 (z.val + 1)] s =
      if s.hasClaim z c then ({ result := .ok }, s.dropClaims z (fun cl => cl.crane == c) .planner)
      else refuse .notQueued s := by
  unfold servePlannerWithdraw
  simp only [byteAt_cons_zero, byteAt_cons_succ, toNat_ofNat_zone, toNat_ofNat_crane, zoneOf_zoneNumber,
    craneOf_craneNumber]

end Sys2Proof.Machine

namespace Sys2Proof.Proofs

open Sys2Proof.Machine

/-- Settles O21: `State.takeClaim_granted`, `State.takeClaim_queued` and, on a HELD zone,
`State.takeClaim_held`. -/
theorem claimTaken : Obligations.ClaimTaken := by
  intro c z tag s hr configured registered footprint opened unheld unclaimed limit below wind new
  have taken : serveCrane c .claim [BitVec.ofNat 8 (z.val + 1)] (s.underway (.crane c)) =
      (s.underway (.crane c)).takeClaim c z :=
    serveClaim_taken (s := s.underway (.crane c)) (State.craneGate_open configured registered) footprint opened
      unheld unclaimed limit wind
  refine ⟨fun grant => ?_, fun wait queues => ?_, fun h held queues => ?_⟩
  · exact ⟨_, servedAs_crane .claim rfl hr rfl
      (taken.trans (State.takeClaim_granted (s := s.underway (.crane c)) below unclaimed grant)) rfl
      (handOffs_settle _ _)⟩
  · have queued := State.takeClaim_queued (s := s.underway (.crane c)) below wait queues
    exact ⟨_, servedAs_crane .claim rfl hr rfl (taken.trans queued) rfl
      ((handOffs_evaluate z _).trans (handOffs_cascade.examine z _))⟩
  · have other : h.holder ≠ c := State.heldBy_eq_false.1 unheld h (State.holding_eq_some.1 held)
    refine takenAs_crane .claim (reply := { result := .queued }) rfl hr rfl
      (taken.trans (State.takeClaim_held (s := s.underway (.crane c)) below held queues)) rfl
      (fun g u => State.examined_editLink ({ u with arrivals := s.arrivals + 1 } : State) z _ g
        fun e => other (Port.crane.inj e))
      (State.examined_link ({ s with arrivals := s.arrivals + 1 } : State) z _ other)

/-- Settles O22: `serveWithdraw` by its rows, `State.removeClaim_held` and `State.dropClaims_crane` for the
demand on a HELD zone. -/
theorem claimsWithdrawn : Obligations.ClaimsWithdrawn := by
  intro c z tag n k s
  refine ⟨fun hr => ⟨fun x h => ?_, fun configured registered => ?_⟩,
    fun hr => ⟨fun h => ?_, fun absent => ?_, fun claim => ?_⟩⟩
  · refine refusedAs_crane .withdraw rfl hr rfl ?_
    show serveWithdraw c [n] _ = _
    unfold serveWithdraw
    obtain gate | ⟨gate, number, rfl⟩ := State.zoneGate_rows (s := s.underway (.crane c)) h
    · simp only [gate]
    · simp only [gate, byteAt_cons_zero, number]
  · have gate : (s.underway (.crane c)).craneGate c = none := State.craneGate_open configured registered
    refine ⟨fun absent => ?_, fun cl claim emergency => ?_, fun cl claim own => ?_⟩
    · exact refusedAs_crane .withdraw rfl hr rfl (serveWithdraw_refused gate (.inl ⟨absent, rfl⟩))
    · exact refusedAs_crane .withdraw rfl hr rfl (serveWithdraw_refused gate (.inr ⟨cl, claim, emergency, rfl⟩))
    · have taken := serveWithdraw_taken gate claim own
      refine ⟨_, servedAs_crane .withdraw rfl hr rfl taken rfl (State.removeClaim_handOffs z c _), fun h held => ?_⟩
      have eq := State.removeClaim_held (s := s.underway (.crane c)) c held
      refine ⟨?_, fun other => ?_⟩
      · exact (State.editLink_holding _ _ _ _).trans
          ((congrArg (State.holding z) eq).trans (State.examined_holding (s.underway (.crane c)) z h _))
      · exact takenAs_crane .withdraw (reply := { result := .ok }) rfl hr rfl
          (taken.trans (congrArg _ eq)) rfl
          (fun g u => State.examined_editLink u z _ g fun e => other (Port.crane.inj e))
          (State.examined_link s z _ other)
  · refine refusedAs_planner .withdraw rfl hr rfl ?_
    show servePlannerWithdraw [n, k] _ = _
    unfold servePlannerWithdraw
    simp only [byteAt_cons_zero, byteAt_cons_succ]
    rcases craneOf_zoneOf_eq_none h with bad | bad
    · simp only [bad]
    · rw [bad]
      split <;> simp_all
  · refine refusedAs_planner .withdraw rfl hr rfl ((servePlannerWithdraw_eq c z _).trans (if_neg ?_))
    have unclaimed : (s.underway .planner).claimOf z c = none := absent
    simp [State.hasClaim, unclaimed]
  · obtain ⟨frame, demand⟩ := State.dropClaims_crane (s := s.underway .planner) .planner claim
    have taken := (servePlannerWithdraw_eq c z (s.underway .planner)).trans
      (if_pos (Option.isSome_iff_ne_none.2 claim))
    exact ⟨_, servedAs_planner .withdraw rfl hr rfl taken rfl frame, fun h held =>
      (State.editLink_holding _ _ _ _).trans (demand h held)⟩

end Sys2Proof.Proofs

/-! ## LIFT_DONE (R156)

An end as DONE is one in a terminal state. An end as BOOKED, of a recurring booking, leaves the other bookings
as they are, and the zones as an end as DONE does, the yield demands apart (`State.endBooking_sameZones`). -/

namespace Sys2Proof.Machine

/-! ### The table behind an end as BOOKED (R153) -/

/-- An entry of a recurring booking whose run has ended (R153). -/
def Booking.rebooked (o : Booking) : Booking :=
  { o with state := .booked, remaining := 0, short := false, notPlaced := 0 }

theorem State.recordEnd_booked (s : State) (id : Nat) :
    s.recordEnd id .booked = s.editBooking id Booking.rebooked := rfl

/-- The running bookings of the crane that list the zone: those of before, the rebooked one left out. -/
theorem State.counted_booked (s : State) (b : Booking) (z : ZoneId) :
    ((s.recordEnd b.id .booked).bookings.filter fun o =>
        o.crane == b.crane && o.state.counts && o.zones.contains z) =
      s.bookings.filter fun o =>
        o.id != b.id && o.crane == b.crane && o.state.counts && o.zones.contains z := by
  rw [State.recordEnd_booked]
  show (s.bookings.map fun o => if o.id == b.id then o.rebooked else o).filter _ = _
  induction s.bookings with
  | nil => rfl
  | cons o bs ih =>
    rw [List.map_cons, List.filter_cons, List.filter_cons, ih]
    by_cases ho : o.id = b.id
    · simp [ho, Booking.rebooked, BookingState.counts]
    · simp [ho]

theorem BookingState.counts_iff {x : BookingState} :
    x.counts = true ↔ x = .armed ∨ x = .active ∨ x = .suspended := by
  cases x <;> simp [BookingState.counts]

theorem State.listedElsewhere_booked (s : State) (b : Booking) (z : ZoneId) :
    (s.recordEnd b.id .booked).listedElsewhere b.id b.crane z = true ↔ s.listedBeside b z := by
  have counted (u : State) : u.listedElsewhere b.id b.crane z = true ↔
      ∃ o ∈ u.bookings.filter (fun o => o.crane == b.crane && o.state.counts && o.zones.contains z),
        o.id ≠ b.id := by
    simp only [State.listedElsewhere, List.any_eq_true, List.mem_filter, Bool.and_eq_true, bne_iff_ne]
    exact exists_congr fun o => by tauto
  rw [counted, State.counted_booked]
  simp only [List.mem_filter, Bool.and_eq_true, bne_iff_ne, beq_iff_eq, BookingState.counts_iff,
    List.contains_iff_mem, State.listedBeside]
  exact exists_congr fun o => by tauto

/-- Behind an end as BOOKED the levels of the crane are those without the booking (R47, R48). -/
theorem State.levelFor_booked (s : State) (b : Booking) (z : ZoneId) (e : Bool) :
    (s.recordEnd b.id .booked).levelFor b.crane z e = s.levelWithout b z e := by
  have base : (s.recordEnd b.id .booked).baseLevel b.crane = s.baseLevel b.crane := rfl
  rw [State.levelFor, State.bookingLevel, State.counted_booked, base, State.levelWithout, foldl_max_eq,
    foldr_max_eq _ (if e = true then _ else _)]
  split <;> omega

/-! ### Zones behind an end as BOOKED -/

/-- Every zone is the same in both states, the yield demands apart. -/
def SameZones (s t : State) : Prop := ∀ z, (t.zone z).sans = (s.zone z).sans

theorem SameZones.queue {s t : State} (h : SameZones s t) (z : ZoneId) : (t.zone z).queue = (s.zone z).queue :=
  (congrArg ZoneDyn.queue (h z) :)

theorem SameZones.openedFor {s t : State} (h : SameZones s t) (z : ZoneId) :
    (t.zone z).openedFor = (s.zone z).openedFor := (congrArg ZoneDyn.openedFor (h z) :)

theorem SameZones.free {s t : State} (h : SameZones s t) (z : ZoneId) :
    (t.zone z).state = .free ↔ (s.zone z).state = .free := by
  rw [← ZoneState.sans_eq_free, ZoneDyn.sans_state (h z), ZoneState.sans_eq_free]

theorem SameZones.held {s t : State} (h : SameZones s t) {z : ZoneId} {x : Holding} (hx : s.holding z = some x) :
    ∃ d, t.holding z = some { x with demand := d } := by
  have state := ZoneDyn.sans_state (h z)
  rw [State.holding_eq_some.1 hx] at state
  obtain ⟨d, hd⟩ := ZoneState.sans_held state
  exact ⟨d, State.holding_eq_some.2 hd⟩

/-- The withdrawals ask the table for nothing but the bookings that list a zone (R58). -/
theorem State.endWithdrawn_sameZones (s : State) (b : Booking) :
    SameZones (s.endWithdrawn b .done) (s.endWithdrawn b .booked) := fun z => by
  obtain ⟨-, done⟩ := (s.recordEnd b.id .done).eachOpen_withdrawBooked b.id b.crane b.zones
  obtain ⟨-, booked⟩ := (s.recordEnd b.id .booked).eachOpen_withdrawBooked b.id b.crane b.zones
  have listed : (s.recordEnd b.id .booked).listedElsewhere b.id b.crane z =
      (s.recordEnd b.id .done).listedElsewhere b.id b.crane z :=
    Bool.eq_iff_iff.2 ((s.listedElsewhere_booked b z).trans (State.listedElsewhere_ended rfl z).symm)
  unfold State.endWithdrawn
  by_cases hz : z ∈ b.zones
  · rw [(booked z).1 hz, (done z).1 hz, State.recordEnd_zone, State.recordEnd_zone, listed]
  · rw [(booked z).2 hz, (done z).2 hz, State.recordEnd_zone, State.recordEnd_zone]

/-- A quiet end as BOOKED closes nothing (R9). -/
theorem State.endClosed_booked {s : State} {b : Booking} (quiet : s.EndsQuietly b) :
    s.endClosed b .booked = (s.endWithdrawn b .booked).chosen := by
  have opened (z : ZoneId) : ((s.endWithdrawn b .booked).zone z).openedFor = (s.zone z).openedFor :=
    ((s.endWithdrawn_sameZones b).openedFor z).trans (s.endWithdrawn_reads (new := .done) rfl z).1
  have none : (s.endWithdrawn b .booked).zonesToClose b = [] := by
    rw [State.zonesToClose, List.filter_eq_nil_iff]
    exact fun z _ => by simp [opened, quiet.openForNone z, quiet.opensNone]
  rw [State.endClosed, none]
  rfl

theorem State.endClosed_level {s : State} {b : Booking} {new : BookingState} {z : ZoneId}
    (closed : s.endClosed b new = (s.endWithdrawn b new).chosen)
    (level : ∀ e, (s.recordEnd b.id new).levelFor b.crane z e = s.levelWithout b z e) :
    (s.endClosed b new).levelFor b.crane z = s.levelWithout b z := by
  obtain ⟨table, -⟩ := (s.recordEnd b.id new).eachOpen_withdrawBooked b.id b.crane b.zones
  rw [closed]
  exact funext fun e => (State.levelFor_congr ⟨table.bookings, table.permits⟩ b.crane z e).trans (level e)

/-- The levels ask the table for nothing but the levels without the booking (R48). -/
theorem State.endLevelled_sameZones {s : State} {b : Booking} (quiet : s.EndsQuietly b) :
    SameZones (s.endLevelled b .done) (s.endLevelled b .booked) := fun z => by
  have closed := State.endClosed_of_quiet (new := .done) rfl quiet
  have closed' := State.endClosed_booked quiet
  have level := State.endClosed_level closed (z := z) fun e => State.levelFor_ended rfl z e
  have level' := State.endClosed_level closed' fun e => s.levelFor_booked b z e
  have before : ((s.endClosed b .booked).zone z).sans = ((s.endClosed b .done).zone z).sans := by
    rw [closed, closed']
    exact s.endWithdrawn_sameZones b z
  obtain ⟨-, done⟩ := (s.endClosed b .done).relevelAll_acts b.crane b.zones
  obtain ⟨-, booked⟩ := (s.endClosed b .booked).relevelAll_acts b.crane b.zones
  unfold State.endLevelled
  by_cases hz : z ∈ b.zones
  · rw [(booked z).1 hz, (done z).1 hz, before, level, level']
  · rw [(booked z).2 hz, (done z).2 hz, before]

theorem State.endLevelled_elsewhere {s : State} {b : Booking} (quiet : s.EndsQuietly b) {z : ZoneId}
    (hz : z ∉ b.zones) : (s.endLevelled b .booked).zone z = s.zone z := by
  obtain ⟨-, withdrawn⟩ := (s.recordEnd b.id .booked).eachOpen_withdrawBooked b.id b.crane b.zones
  obtain ⟨-, levelled⟩ := (s.endClosed b .booked).relevelAll_acts b.crane b.zones
  refine ((levelled z).2 hz).trans ?_
  rw [State.endClosed_booked quiet]
  exact ((withdrawn z).2 hz).trans (s.recordEnd_zone _ _ z)

/-- Behind its levels a quiet end as BOOKED touches no zone (R132). -/
theorem State.endBooking_booked {s : State} {b : Booking} (cause : BookingCause) (hb : s.bookingById b.id = some b)
    (quiet : s.EndsQuietly b) (z : ZoneId) :
    (s.endBooking b.id .booked cause).zone z = (s.endLevelled b .booked).zone z := by
  have same := State.endLevelled_sameZones quiet
  rw [State.endBooking_eq .booked cause hb, State.postBooking_zone]
  split
  · next suspended =>
    refine State.zone_of_zones (State.refreshSuspension_zones fun y claimed => ?_) z
    rw [ne_eq, same.free y, State.endLevelled_free (new := .done) rfl quiet y]
    refine quiet.grantsNone suspended y ?_
    obtain ⟨cl, hcl⟩ := Option.isSome_iff_exists.1 claimed
    obtain ⟨queued, crane⟩ := State.claimOf_some hcl
    rw [same.queue y] at queued
    obtain ⟨x, hx, hxc, -⟩ := State.endLevelled_claimsFrom (new := .done) rfl quiet y cl queued
    by_contra unclaimed
    exact State.hasClaim_eq_false.1 (Bool.not_eq_true _ ▸ unclaimed) x hx (hxc.trans crane)
  · rfl

/-- A quiet end as BOOKED leaves every zone as one as DONE does, the yield demands apart. -/
theorem State.endBooking_sameZones {s : State} {b : Booking} (cause : BookingCause)
    (hb : s.bookingById b.id = some b) (quiet : s.EndsQuietly b) :
    SameZones (s.endBooking b.id .done cause) (s.endBooking b.id .booked cause) := fun z => by
  rw [State.endBooking_booked cause hb quiet, State.endBooking_quiet (new := .done) rfl cause hb quiet]
  exact State.endLevelled_sameZones quiet z

/-- What an end as BOOKED leaves of its crane's claims, from what an end as DONE leaves of them (R58, R48). -/
theorem bookingClaimsEnded_booked {s : State} {b : Booking} (cause : BookingCause)
    (hb : s.bookingById b.id = some b) : BookingClaimsEnded b s (s.endBooking b.id .booked cause) := by
  have done := bookingClaimsEnded (new := .done) rfl cause hb
  have same (quiet : s.EndsQuietly b) := State.endBooking_sameZones cause hb quiet
  refine ⟨fun z hz alone cl hcl crane => ?_, fun quiet z hz cl hcl keeps => ?_, fun quiet z hz x hx holder => ?_,
    fun quiet z => ?_, fun quiet z hz => ?_⟩
  · obtain ⟨x, hx, hxc, hxb⟩ := State.endBooking_claimsFrom .booked cause hb z cl hcl
    rw [(s.endWithdrawn_sameZones b).queue z] at hx
    obtain ⟨keeps, listed, zone⟩ := (s.endWithdrawn_zone (b := b) (new := .done) rfl z).1 hz
    obtain rfl : keeps = false := Bool.not_eq_true _ ▸ mt listed.1 alone
    have queue : ((s.endWithdrawn b .done).zone z).queue =
        (s.zone z).queue.filter fun cl => !(cl.crane == b.crane && cl.booked) := (congrArg ZoneDyn.queue zone :)
    rw [queue, List.mem_filter] at hx
    simpa [hxc, crane, hxb] using hx.2
  · have claim := done.kept quiet z hz cl hcl keeps
    unfold State.claimOf at claim ⊢
    rwa [(same quiet).queue z]
  · obtain ⟨d, held⟩ := done.grants quiet z hz x hx holder
    exact (same quiet).held held
  · rw [(same quiet).queue z]
    exact done.others quiet z
  · rw [State.endBooking_booked cause hb quiet]
    exact State.endLevelled_elsewhere quiet hz

/-! ### LIFT_DONE (R156) -/

/-- What a taken LIFT_DONE shows of the state after it (R156). -/
structure LiftEnded (b b' : Booking) (s t : State) : Prop where
  frame : CalendarFrame s t
  found : t.bookingById b.id = some b'
  entry : b' = { b with
    state := b.doneState, remaining := 0, short := if b.recurring then false else b.short
    notPlaced := if b.recurring then 0 else b.notPlaced, terminalOrder := b'.terminalOrder }
  nextId : t.nextId = s.nextId
  claims : BookingClaimsEnded b s t
  ordered : b.recurring = false → TerminalOrderGiven s t b b'
  unordered : b.recurring = true → b'.terminalOrder = b.terminalOrder ∧ t.terminals = s.terminals

theorem State.liftEnded_done {s : State} {b : Booking} (hb : s.bookingById b.id = some b)
    (running : b.state.terminal = false) (once : b.recurring = false) :
    LiftEnded b (s.ended b.id .done b) s (s.endBooking b.id .done .liftDone) := by
  have table := State.endBooking_table .done .liftDone hb
  have recorded := State.recordEnd_eq s b.id (new := .done) rfl
  have bookings : (s.endBooking b.id .done .liftDone).bookings = s.bookings.map (s.ended b.id .done) := by
    rw [table.bookings, recorded]
  have terminals : (s.endBooking b.id .done .liftDone).terminals = s.lastOrder + 1 := by
    rw [table.terminals, recorded]
  refine ⟨calendarFrame_site.endBooking _ _ _ _, ?_, ?_, ?_, bookingClaimsEnded rfl .liftDone hb,
    fun _ => terminalOrderGiven rfl running bookings terminals, fun again => ?_⟩
  · rw [table.bookingById]
    exact State.recordEnd_found rfl hb
  · simp [State.ended_eq rfl running, Booking.doneState, once]
  · rw [table.nextId, recorded]
  · rw [once] at again
    cases again

theorem State.liftEnded_booked {s : State} {b : Booking} (hb : s.bookingById b.id = some b)
    (again : b.recurring = true) : LiftEnded b b.rebooked s (s.endBooking b.id .booked .liftDone) := by
  have table := State.endBooking_table .booked .liftDone hb
  refine ⟨calendarFrame_site.endBooking _ _ _ _, ?_, ?_, table.nextId, bookingClaimsEnded_booked .liftDone hb,
    fun once => ?_, fun _ => ⟨rfl, table.terminals⟩⟩
  · rw [table.bookingById, State.recordEnd_booked,
      State.editBooking_bookingById s b.id b.id Booking.rebooked fun _ => rfl, if_pos rfl, hb]
    rfl
  · simp [Booking.rebooked, Booking.doneState, again]
  · rw [again] at once
    cases once

theorem State.liftDone_outcome {s : State} {b : Booking} (hb : s.bookingById b.id = some b)
    (running : b.state.terminal = false) : ∃ b', LiftEnded b b' s (s.endBooking b.id b.doneState .liftDone) := by
  unfold Booking.doneState
  cases recurring : b.recurring with
  | false => exact ⟨_, State.liftEnded_done hb running recurring⟩
  | true => exact ⟨_, State.liftEnded_booked hb recurring⟩

theorem serveLiftDone_refused {c : CraneId} {n : Byte} {s : State} {x : Result}
    (h : (if s.permit c = none then some Result.notConfigured
        else if s.permitState c = .offline then some .notRegistered
        else if (s.bookingById n.toNat).all (fun b => b.crane != c) = true then some .badField
        else if (s.bookingById n.toNat).all (fun b => b.state != .active && b.state != .suspended) = true
          then some .wrongState
        else none) = some x) : serveLiftDone c [n] s = refuse x s := by
  unfold serveLiftDone
  obtain gate | ⟨gate, rows⟩ := State.craneGate_rows h
  · simp only [gate]
  · simp only [gate, byteAt_cons_zero]
    cases hb : s.bookingById n.toNat with
    | none =>
      simp only [hb, Option.all_none, if_true, Option.some.injEq] at rows
      rw [rows]
    | some b =>
      simp only [hb, Option.all_some] at rows
      have runs : (b.state != .active && b.state != .suspended) = !b.state.runs := by cases b.state <;> rfl
      rw [runs] at rows
      dsimp only
      by_cases crane : b.crane = c
      · rw [if_neg (by simp [crane])] at rows
        rw [if_neg (by simp [crane])]
        split at rows
        · next ended => rw [if_pos (by simpa using ended), Option.some.inj rows]
        · cases rows
      · rw [if_pos (by simp [crane])] at rows
        rw [if_pos crane, Option.some.inj rows]

theorem serveLiftDone_taken {c : CraneId} {n : Byte} {s : State} {b : Booking} (gate : s.craneGate c = none)
    (hb : s.bookingById n.toNat = some b) (crane : b.crane = c) (running : b.state.runs = true) :
    serveLiftDone c [n] s =
      ({ result := .ok, body := byte b.doneState.code }, s.endBooking b.id b.doneState .liftDone) := by
  unfold serveLiftDone
  simp only [gate, byteAt_cons_zero, hb, crane, running, ne_eq, not_true_eq_false, if_false]

end Sys2Proof.Machine

namespace Sys2Proof.Proofs

open Sys2Proof.Machine

/-- Settles O26: the refusals by `serveLiftDone_refused`, the end of the booking by `State.liftDone_outcome`. -/
theorem liftDoneTaken : Obligations.LiftDoneTaken := by
  intro c tag n s hr
  refine ⟨fun x h => ?_, ?_⟩
  · exact refusedAs_crane .liftDone rfl hr rfl (serveLiftDone_refused (s := s.underway (.crane c)) h)
  · intro b configured registered hb crane runs new
    have hid : b.id = n.toNat := State.bookingById_id hb
    have running : b.state.runs = true := by rcases runs with h | h <;> rw [h] <;> rfl
    have unended : b.state.terminal = false := by rcases runs with h | h <;> rw [h] <;> rfl
    have taken := serveLiftDone_taken (s := s.underway (.crane c))
      (State.craneGate_open configured registered) hb crane running
    obtain ⟨b', frame, found, entry, nextId, claims, ordered, unordered⟩ :=
      State.liftDone_outcome (s := s.underway (.crane c)) (hid ▸ hb) unended
    generalize (s.underway (.crane c)).endBooking b.id b.doneState .liftDone = v at *
    rw [hid] at found
    refine ⟨_, b', servedAs_crane .liftDone rfl hr rfl taken rfl frame, found, entry, nextId, ?_, fun once => ?_,
      unordered⟩
    · have quiet (q : s.EndsQuietly b) : (s.underway (.crane c)).EndsQuietly b :=
        ⟨q.opensNone, q.openForNone, q.grantsNone⟩
      exact ⟨claims.withdrawn, fun q => claims.kept (quiet q), fun q => claims.grants (quiet q),
        fun q => claims.others (quiet q), fun q => claims.elsewhere (quiet q)⟩
    · have order := ordered once
      exact ⟨order.counted, order.others, order.renumbered⟩

end Sys2Proof.Proofs

/-! ## RESUME (R76, R128, section 7.4)

The restart of the yield timers is an edit of every zone at once (`State.restartYields_eq`), so it commutes with
the write of the permit record; what follows both is the grant evaluation of a change of the permit state. -/

namespace Sys2Proof.Machine

theorem craneOf_eq_some {n : Nat} {c : CraneId} (h : n = c.val + 1) : craneOf n = some c := by
  rw [h, craneOf_craneNumber]

/-! ### The permit record (R128 stages 1 and 3) -/

theorem Permit.clear_iff_hasLatched {p : Permit} : p.clear = true ↔ ∀ cause, p.hasLatched cause = false := by
  rw [Permit.clear_iff]
  refine ⟨fun h cause => h cause.idx, fun h i => ?_⟩
  obtain ⟨cause, rfl⟩ := Cause.idx_cases i
  exact h cause

theorem Permit.clear_eq (p : Permit) : p.clear = (p.latched == Vector.replicate 6 false) := by
  rw [Bool.eq_iff_iff, Permit.clear_iff, beq_iff_eq]
  refine ⟨fun h => Table.ext_entry fun i => ?_, fun h i => ?_⟩
  · rw [h i, Table.entry_replicate]
  · rw [h, Table.entry_replicate]

theorem Permit.resumed_eq (p : Permit) (left : Table Bool 6) :
    p.resumed left =
      let freed : Bool := left == Vector.replicate 6 false && p.state == .halted
      { p with
        latched := left, state := if freed then .disarmed else p.state, factor := if freed then 0 else p.factor } := by
  unfold Permit.resumed
  dsimp only
  rw [Permit.clear_eq]
  split <;> rfl

/-- The clearing conditions of section 7.4: YIELD_TIMEOUT and PLANNER_HALT always clear. -/
theorem State.remainingCauses_eq (s : State) (c : CraneId) (p : Permit) :
    s.remainingCauses c p =
      #v[p.hasLatched .encroach && (s.position c).unheld, p.hasLatched .intrusion && s.intruded c,
        p.hasLatched .silence && (s.position c).silent, false, false,
        p.hasLatched .sensorLoss && (s.wind c).blind] := by
  simp only [State.remainingCauses, State.clears, Bool.not_not, Bool.not_true, Bool.and_false]

/-! ### The yield timers (R76, R128 stage 2) -/

theorem ZoneDyn.restartYield_demand {d : ZoneDyn} {h : Holding} {x : Demand} (n : Nat) (held : d.state = .held h)
    (demand : h.demand = some x) :
    (d.restartYield n).state =
      .held { h with demand := some { x with timer := if x.timer = none then some (seconds n) else x.timer } } := by
  obtain ⟨holder, level, emergency, _⟩ := h
  obtain ⟨target, timer⟩ := x
  cases demand
  cases timer <;> simp [ZoneDyn.restartYield, held]

theorem ZoneDyn.restartYield_mayPass (d : ZoneDyn) (n : Nat) : d.mayPass (d.restartYield n) := by
  unfold ZoneDyn.restartYield
  split
  · next h held =>
    split
    · refine ⟨rfl, rfl, ?_⟩
      rw [held]
      exact ⟨rfl, _, rfl⟩
    · exact d.mayPass_refl
  · exact d.mayPass_refl

/-- An edit of several zones one after the other, each told its record, is an edit of every zone at once. -/
theorem State.each_editZone (g : ZoneRecord → ZoneDyn → ZoneDyn) {zs : List ZoneId} (distinct : zs.Nodup)
    (s : State) :
    (s.each zs fun z s => s.editZone z (g (s.record z))) =
      { s with zones := Table.mapAll s.zones fun z d => if z ∈ zs then g (s.record z) d else d } := by
  induction zs generalizing s with
  | nil =>
    have same : s.zones = Table.mapAll s.zones fun z d => if z ∈ [] then g (s.record z) d else d :=
      Table.ext_entry fun y => by simp
    exact congrArg (fun t => { s with zones := t }) same
  | cons z zs ih =>
    obtain ⟨fresh, distinct⟩ := List.nodup_cons.1 distinct
    refine (ih distinct (s.editZone z (g (s.record z)))).trans ?_
    refine congrArg (fun t => { s with zones := t }) (Table.ext_entry fun y => ?_)
    simp only [Table.entry_mapAll, State.editZone, Table.entry_edit, List.mem_cons]
    by_cases hy : y = z
    · simp [hy, fresh]
    · simp only [hy, false_or, if_false]
      rfl

theorem State.mem_heldZones {s : State} {c : CraneId} {z : ZoneId} : z ∈ s.heldZones c ↔ s.heldBy z c = true := by
  simp [State.heldZones, allZones]

theorem State.nodup_heldZones (s : State) (c : CraneId) : (s.heldZones c).Nodup :=
  (List.nodup_finRange 48).filter _

theorem State.restartYields_eq (s : State) (c : CraneId) :
    s.restartYields c =
      { s with zones := Table.mapAll s.zones fun z d =>
          if s.heldBy z c = true then d.restartYield (s.record z).yieldTime else d } := by
  simp only [← State.mem_heldZones]
  exact State.each_editZone (fun r => ZoneDyn.restartYield r.yieldTime) (s.nodup_heldZones c) s

/-- Stage 2 of R128: the crane's expired yield timers run again where YIELD_TIMEOUT was latched. -/
def State.yieldsResumed (c : CraneId) (p : Permit) (s : State) : State :=
  if p.hasLatched .yieldTimeout then s.restartYields c else s

theorem State.yieldsResumed_eq (s : State) (c : CraneId) (p : Permit) :
    s.yieldsResumed c p =
      { s with zones := Table.mapAll s.zones fun z d =>
          if p.hasLatched .yieldTimeout = true ∧ s.heldBy z c = true then d.restartYield (s.record z).yieldTime
          else d } := by
  unfold State.yieldsResumed
  split
  · next latched => simpa only [latched, true_and] using s.restartYields_eq c
  · next unlatched =>
    refine congrArg (fun t => { s with zones := t }) (Table.ext_entry fun z => ?_)
    rw [Table.entry_mapAll, if_neg fun h => unlatched h.1]

theorem State.yieldsResumed_zone (s : State) (c : CraneId) (p : Permit) (z : ZoneId) :
    (s.yieldsResumed c p).zone z =
      if p.hasLatched .yieldTimeout = true ∧ s.heldBy z c = true then
        (s.zone z).restartYield (s.record z).yieldTime
      else s.zone z := by
  rw [State.yieldsResumed_eq]
  exact Table.entry_mapAll _ _ z

theorem State.yieldsResumed_holding {s : State} {c : CraneId} {z : ZoneId} {h : Holding} {d : Demand} (p : Permit)
    (held : s.holding z = some h) (holder : h.holder = c) (demand : h.demand = some d) :
    (s.yieldsResumed c p).holding z = some { h with demand := some { d with
      timer := if d.timer = none ∧ p.hasLatched .yieldTimeout = true then some (100 * (s.record z).yieldTime)
        else d.timer } } := by
  have state := State.holding_eq_some.1 held
  have mine : s.heldBy z c = true := State.heldBy_iff.2 ⟨h, state, holder⟩
  rw [State.holding_eq_some, State.yieldsResumed_zone]
  cases latched : p.hasLatched .yieldTimeout with
  | true =>
    rw [if_pos ⟨rfl, mine⟩, ZoneDyn.restartYield_demand _ state demand]
    simp only [and_true]
    rfl
  | false => simpa [← demand] using state

theorem State.yieldsResumed_claimZones (s : State) (c d : CraneId) (p : Permit) :
    (s.yieldsResumed c p).claimZones d = s.claimZones d := by
  have queue (z : ZoneId) : ((s.yieldsResumed c p).zone z).queue = (s.zone z).queue := by
    rw [State.yieldsResumed_zone]
    split
    · exact (RequestMoves.restartYield_keeps _ _).1
    · rfl
  simp only [State.claimZones, State.hasClaim, State.claimOf, queue]

theorem State.yieldsResumed_permit (s : State) (c d : CraneId) (p : Permit) :
    (s.yieldsResumed c p).permit d = s.permit d := by
  simp only [State.yieldsResumed_eq, State.permit]

/-- The yield timers and the permit record are written in either order. -/
theorem State.yieldsResumed_editPermit (s : State) (c : CraneId) (p : Permit) (f : Permit → Permit) :
    (s.editPermit c f).yieldsResumed c p = (s.yieldsResumed c p).editPermit c f := by
  rw [State.yieldsResumed_eq, State.yieldsResumed_eq]
  rfl

theorem State.yieldsResumed_handOffs (s : State) (c : CraneId) (p : Permit) : HandOffs s (s.yieldsResumed c p) := by
  unfold State.yieldsResumed
  split
  · exact handOffs_cascade.each _ _ (fun z _ s => .editZone s z _ (ZoneDyn.restartYield_mayPass _ _)) s
  · exact .refl s

/-! ### What follows a permit change (R55) -/

theorem State.replacePermit_handOffs (s : State) (c : CraneId) (p q : Permit) :
    HandOffs (s.editPermit c fun _ => q) (s.replacePermit c p q) := by
  unfold State.replacePermit
  dsimp only
  split
  · exact .refl _
  · exact handOffs_evaluateClaims c _

/-- With no claim queued a permit change starts nothing (R55). -/
theorem State.replacePermit_unclaimed {s : State} {c : CraneId} (p q : Permit) (none : s.claimZones c = []) :
    (s.replacePermit c p q).zones = s.zones ∧
      (s.replacePermit c p q).permits = (s.editPermit c fun _ => q).permits := by
  unfold State.replacePermit
  dsimp only
  split
  · exact ⟨rfl, rfl⟩
  · have tasks : (s.editPermit c fun _ => q).claimTasks c = [] := by
      simp [State.claimTasks, none, State.arranged]
    unfold State.evaluateClaims
    rw [tasks, settle_nil]
    exact ⟨rfl, rfl⟩

/-! ### A taken RESUME -/

/-- The permit record that a RESUME writes (R128 stages 1 and 3). -/
def State.resumedPermit (c : CraneId) (p : Permit) (s : State) : Permit := p.resumed (s.remainingCauses c p)

theorem State.takeResume_eq (s : State) (c : CraneId) (p : Permit) :
    s.takeResume c p = (s.yieldsResumed c p).replacePermit c p (s.resumedPermit c p) := rfl

theorem State.takeResume_handOffs (s : State) (c : CraneId) (p : Permit) :
    HandOffs (s.editPermit c fun _ => s.resumedPermit c p) (s.takeResume c p) := by
  rw [State.takeResume_eq]
  refine .trans ?_ (State.replacePermit_handOffs _ c p _)
  rw [← State.yieldsResumed_editPermit]
  exact State.yieldsResumed_handOffs _ c p

theorem State.takeResume_permit {s : State} {c : CraneId} {p : Permit} (hp : s.permit c = some p) :
    ∃ q, (s.takeResume c p).permit c = some q := by
  have written : (s.editPermit c fun _ => s.resumedPermit c p).permit c = some (s.resumedPermit c p) := by
    rw [State.editPermit_permit_same, hp]
    rfl
  obtain ⟨q, hq, -⟩ := (s.takeResume_handOffs c p).permit written
  exact ⟨q, hq⟩

/-- With no claim queued a RESUME writes the permit record and restarts the yield timers, and that is all. -/
theorem State.takeResume_unclaimed {s : State} {c : CraneId} {p : Permit} (hp : s.permit c = some p)
    (none : s.claimZones c = []) :
    (s.takeResume c p).permit c = some (s.resumedPermit c p) ∧
      ∀ z, (s.takeResume c p).holding z = (s.yieldsResumed c p).holding z := by
  obtain ⟨zones, permits⟩ := State.replacePermit_unclaimed p (s.resumedPermit c p)
    ((s.yieldsResumed_claimZones c c p).trans none)
  rw [State.takeResume_eq]
  refine ⟨?_, fun z => ?_⟩
  · rw [State.permit, permits]
    refine (State.editPermit_permit_same _ _ _).trans ?_
    rw [State.yieldsResumed_permit, hp]
    rfl
  · simp only [State.holding, State.zone_of_zones zones]

theorem serveResume_taken {c : CraneId} {n : Byte} {s : State} {p q : Permit} (crane : n.toNat = c.val + 1)
    (hp : s.permit c = some p) (latched : ∃ cause, p.hasLatched cause = true)
    (hq : (s.takeResume c p).permit c = some q) :
    serveResume [n] s =
      ({ result := .ok, body := causeBytes q.latched ++ byte q.state.code }, s.takeResume c p) := by
  have unclear : p.clear = false := by
    obtain ⟨cause, h⟩ := latched
    exact Bool.eq_false_iff.2 fun clear => by simp [Permit.clear_iff_hasLatched.1 clear cause] at h
  unfold serveResume
  simp only [byteAt_cons_zero, craneOf_eq_some crane, hp, unclear, hq, Bool.false_eq_true, if_false]

end Sys2Proof.Machine

namespace Sys2Proof.Proofs

open Sys2Proof.Machine

/-- Settles O41: the refusals by the rows of `serveResume`, a taken RESUME by `State.takeResume_handOffs` and, with
no claim queued, by `State.takeResume_unclaimed`. -/
theorem resumeTaken : Obligations.ResumeTaken := by
  intro tag n s hr
  refine ⟨fun bad => ?_, fun c crane => ⟨fun absent => ?_, fun p hp => ⟨fun clear => ?_, fun latched => ?_⟩⟩⟩
  · refine refusedAs_planner .resume rfl hr rfl ?_
    show serveResume [n] _ = _
    unfold serveResume
    simp only [byteAt_cons_zero, craneOf_eq_none bad]
  · refine refusedAs_planner .resume rfl hr rfl ?_
    show serveResume [n] _ = _
    have absent' : (s.underway .planner).permit c = none := absent
    unfold serveResume
    simp only [byteAt_cons_zero, craneOf_eq_some crane, absent']
  · refine refusedAs_planner .resume rfl hr rfl ?_
    show serveResume [n] _ = _
    have hp' : (s.underway .planner).permit c = some p := hp
    unfold serveResume
    simp only [byteAt_cons_zero, craneOf_eq_some crane, hp', Permit.clear_iff_hasLatched.2 clear, if_true]
  · intro left freed after
    have hp' : (s.underway .planner).permit c = some p := hp
    have written : (s.underway .planner).resumedPermit c p = after := by
      rw [State.resumedPermit, State.remainingCauses_eq, Permit.resumed_eq]
      rfl
    obtain ⟨q, hq⟩ := State.takeResume_permit hp'
    have frame := (s.underway .planner).takeResume_handOffs c p
    rw [written] at frame
    refine ⟨_, q, servedAs_planner .resume rfl hr rfl (serveResume_taken crane hp' latched hq) rfl frame, hq,
      fun none => ?_⟩
    obtain ⟨permit, holding⟩ := State.takeResume_unclaimed hp' (s := s.underway .planner) none
    rw [written, hq] at permit
    refine ⟨Option.some.inj permit, fun z h d held holder demand => ?_⟩
    exact (State.editLink_holding _ _ _ z).trans ((holding z).trans
      (State.yieldsResumed_holding p (s := s.underway .planner) held holder demand))

end Sys2Proof.Proofs

/-! ## EMERGENCY_CLAIM (R81, R82)

Each row of R82 is one write of the zone and an examination behind it; on a HELD zone the two are
`State.examined`, which tells no port but the holder's (`State.examined_planner`). -/

namespace Sys2Proof.Machine

/-! ### Examinations at the planner port -/

theorem State.examined_planner (s : State) (z : ZoneId) (h : Holding) (q : List Claim) :
    (s.examined z h q).link .planner = s.link .planner := by
  unfold State.examined
  dsimp only
  split
  · rfl
  · exact (HandOffs.post _ _ _).planner

/-- An examination tells a crane, and so leaves the planner's link to every write. -/
theorem State.examined_editPlanner (s : State) (z : ZoneId) (h : Holding) (q : List Claim) (g : Link → Link) :
    (s.editLink .planner g).examined z h q = (s.examined z h q).editLink .planner g :=
  State.examined_editLink s z q g Port.noConfusion

theorem State.examined_heldBy (s : State) (z : ZoneId) (h : Holding) (q : List Claim) (c : CraneId) :
    (s.examined z h q).heldBy z c = (h.holder == c) := by
  simp only [State.heldBy, State.examined_holding]

/-- Of the holding before it, an examination shows nothing that the new holding does not say. -/
theorem State.examined_reheld (s : State) (z : ZoneId) (x h : Holding) (q : List Claim) :
    (s.editZone z fun d => { d with state := .held x }).examined z h q = s.examined z h q := by
  unfold State.examined
  simp only [State.editZone_editZone]
  rfl

theorem State.examine_reheld (s : State) (z : ZoneId) (h : Holding) :
    (s.editZone z fun d => { d with state := .held h }).examine z = s.examined z h (s.zone z).queue := by
  have held : (s.editZone z fun d => { d with state := .held h }).holding z = some h := by
    rw [State.holding_eq_some, State.editZone_zone_same]
  rw [State.examine_of_held z h _ held, State.examined_reheld, State.editZone_zone_same]

/-- A HELD zone is granted to no one (R53). -/
theorem State.evaluate_of_held {s : State} {z : ZoneId} {h : Holding} (held : s.holding z = some h) :
    s.evaluate z = s :=
  State.evaluate_of_none <| State.firstEligible_of_not_free <| by
    rw [State.holding_eq_some.1 held]
    exact ZoneState.noConfusion

/-! ### The refusals (R81) -/

theorem State.isEmergency_iff {s : State} {c : CraneId} {z : ZoneId} :
    s.isEmergency c z = true ↔ (s.claimOf z c).any (·.emergency) = true ∨
      (s.holding z).any (fun h => h.holder == c && h.emergency) = true := by
  unfold State.isEmergency
  rw [Bool.or_eq_true]
  cases s.holding z <;> rfl

/-- The rows of R81 for a crane and a zone of the site. -/
def State.emergencyRefusal (c : CraneId) (z : ZoneId) (s : State) : Option Result :=
  if s.permit c = none then some .notConfigured
  else if s.footprint z c = none then some .noFootprint
  else if (s.record z).kind = .excluded ∧ s.openedForCrane z c = false then some .zoneClosed
  else if (s.claimOf z c).any (·.emergency) = true ∨
      (s.holding z).any (fun h => h.holder == c && h.emergency) = true then some .duplicate
  else if s.hasClaim z c = false ∧ s.heldBy z c = false ∧ 24 ≤ s.countOf c then some .claimLimit
  else none

theorem serveEmergencyClaim_badField {n k : Byte} (s : State)
    (bad : n.toNat = 0 ∨ 6 < n.toNat ∨ k.toNat = 0 ∨ 48 < k.toNat) :
    serveEmergencyClaim [n, k] s = refuse .badField s := by
  unfold serveEmergencyClaim
  simp only [byteAt_cons_zero, byteAt_cons_succ]
  rcases craneOf_zoneOf_eq_none bad with crane | zone
  · simp only [crane]
  · rw [zone]
    cases craneOf n.toNat <;> rfl

theorem serveEmergencyClaim_eq {c : CraneId} {z : ZoneId} {n k : Byte} (s : State) (crane : n.toNat = c.val + 1)
    (zone : k.toNat = z.val + 1) :
    serveEmergencyClaim [n, k] s =
      ((s.emergencyRefusal c z).map fun x => refuse x s).getD (s.takeEmergency c z) := by
  unfold serveEmergencyClaim State.emergencyRefusal
  simp only [byteAt_cons_zero, byteAt_cons_succ, craneOf_eq_some crane, zoneOf_eq_some zone,
    Option.isNone_iff_eq_none, Bool.not_eq_true, ← State.isEmergency_iff]
  split
  · rfl
  split
  · rfl
  split
  · rfl
  split
  · rfl
  split
  · rfl
  · rfl

/-! ### A claim or a grant marked (R82) -/

/-- The crane's claim with the emergency mark and its new level (R47, R82). -/
def State.emergencyOf (c : CraneId) (z : ZoneId) (cl : Claim) (s : State) : Claim :=
  { cl with emergency := true, level := s.levelFor c z true }

/-- The crane's holding with the emergency mark and its new level (R47, R82). -/
def State.emergencyHolding (c : CraneId) (z : ZoneId) (h : Holding) (s : State) : Holding :=
  { h with emergency := true, level := s.levelFor c z true }

theorem State.takeEmergency_claim {s : State} {c : CraneId} {z : ZoneId} {cl : Claim}
    (claim : s.claimOf z c = some cl) :
    s.takeEmergency c z = ({ result := .queued },
      (s.editZone z fun d =>
        { d with queue := insertClaim (s.emergencyOf c z cl) (dropCrane c d.queue) }).examine z) := by
  have queued : s.hasClaim z c = true := by rw [State.hasClaim, claim]; rfl
  unfold State.takeEmergency State.upgradeClaim
  rw [if_pos queued, claim]
  rfl

theorem State.takeEmergency_grant {s : State} {c : CraneId} {z : ZoneId} {h : Holding}
    (unclaimed : s.claimOf z c = none) (held : s.holding z = some h) (holder : h.holder = c) :
    s.takeEmergency c z = ({ result := .ok },
      (s.editZone z fun d => { d with state := .held (s.emergencyHolding c z h) }).examine z) := by
  have unqueued : s.hasClaim z c ≠ true := by rw [State.hasClaim, unclaimed]; exact Bool.false_ne_true
  have mine : s.heldBy z c = true := State.heldBy_iff.2 ⟨h, State.holding_eq_some.1 held, holder⟩
  unfold State.takeEmergency State.upgradeGrant
  rw [if_neg unqueued, if_pos mine, held]
  rfl

/-! ### A new emergency claim placed (R45, R82) -/

/-- The claim that an EMERGENCY_CLAIM makes, below the last arrival sequence (R45, R47). -/
def State.newEmergency (c : CraneId) (z : ZoneId) (s : State) : Claim :=
  { crane := c, level := s.levelFor c z true, booked := false, emergency := true, arrival := s.arrivals + 1 }

/-- The claim placed, below the last arrival sequence (R45). -/
def State.emergencyPlaced (c : CraneId) (z : ZoneId) (s : State) : State :=
  ({ s with arrivals := s.arrivals + 1 } : State).editZone z fun d =>
    { d with queue := insertClaim (s.newEmergency c z) d.queue }

theorem State.takeEmergency_new {s : State} {c : CraneId} {z : ZoneId} (unclaimed : s.claimOf z c = none)
    (unheld : s.heldBy z c = false) (below : s.arrivals < 65535) :
    s.takeEmergency c z =
      ({ result := if (((s.emergencyPlaced c z).evaluate z).examine z).heldBy z c then .granted else .queued },
        ((s.emergencyPlaced c z).evaluate z).examine z) := by
  have unqueued : s.hasClaim z c ≠ true := by rw [State.hasClaim, unclaimed]; exact Bool.false_ne_true
  have placed : s.place z c false true = s.emergencyPlaced c z := by
    unfold State.place
    rw [if_neg (Nat.not_le.2 below)]
    rfl
  unfold State.takeEmergency
  rw [if_neg unqueued, if_neg (Bool.eq_false_iff.1 unheld), placed, State.examine_heldBy]

/-- On a HELD zone the new claim takes its place in the queue, and the zone is examined (R68). -/
theorem State.emergencyPlaced_held {s : State} {c : CraneId} {z : ZoneId} {h : Holding}
    (held : s.holding z = some h) :
    ((s.emergencyPlaced c z).evaluate z).examine z =
      ({ s with arrivals := s.arrivals + 1 } : State).examined z h
        (insertClaim (s.newEmergency c z) (s.zone z).queue) := by
  have still : (s.emergencyPlaced c z).holding z = some h := by
    rw [State.holding_eq_some, State.emergencyPlaced, State.editZone_zone_same]
    exact State.holding_eq_some.1 held
  rw [State.evaluate_of_held still]
  exact State.examine_requeued ({ s with arrivals := s.arrivals + 1 } : State) z held
    (insertClaim (s.newEmergency c z))

end Sys2Proof.Machine

namespace Sys2Proof.Proofs

open Sys2Proof.Machine

/-- Settles O42: the refusals by `serveEmergencyClaim_eq`, the rows of R82 by `State.takeEmergency_claim`,
`State.takeEmergency_grant` and `State.takeEmergency_new`. -/
theorem emergencyTaken : Obligations.EmergencyTaken := by
  intro tag n k s hr
  refine ⟨fun bad => refusedAs_planner .emergencyClaim rfl hr rfl (serveEmergencyClaim_badField _ bad), ?_⟩
  intro c z crane zone refusal new
  refine ⟨fun x hx => ?_, fun hnone => ?_⟩
  · refine refusedAs_planner .emergencyClaim rfl hr rfl ?_
    have refused : (s.underway .planner).emergencyRefusal c z = some x := hx
    refine (serveEmergencyClaim_eq _ crane zone).trans ?_
    rw [refused]
    rfl
  · have accepted : (s.underway .planner).emergencyRefusal c z = none := hnone
    have taken : servePlanner .emergencyClaim [n, k] (s.underway .planner) =
        (s.underway .planner).takeEmergency c z := by
      refine (serveEmergencyClaim_eq _ crane zone).trans ?_
      rw [accepted]
      rfl
    refine ⟨fun cl claim => ?_, fun h unclaimed held holder => ?_, fun unclaimed unheld below => ?_⟩
    · have marked := taken.trans (State.takeEmergency_claim (s := s.underway .planner) claim)
      refine ⟨_, servedAs_planner .emergencyClaim rfl hr rfl marked rfl (handOffs_cascade.examine z _),
        fun h held => ?_⟩
      have examined := State.examine_requeued (s.underway .planner) z held
        fun q => insertClaim ((s.underway .planner).emergencyOf c z cl) (dropCrane c q)
      exact takenAs_planner .emergencyClaim (reply := { result := .queued }) rfl hr rfl
        (marked.trans (congrArg _ examined)) rfl (fun g u => State.examined_editPlanner u z h _ g)
        (State.examined_planner s z h _)
    · have marked := taken.trans (State.takeEmergency_grant (s := s.underway .planner) unclaimed held holder)
      have examined := State.examine_reheld (s.underway .planner) z ((s.underway .planner).emergencyHolding c z h)
      exact ⟨_, servedAs_planner .emergencyClaim rfl hr rfl marked rfl (handOffs_cascade.examine z _),
        takenAs_planner .emergencyClaim (reply := { result := .ok }) rfl hr rfl
          (marked.trans (congrArg _ examined)) rfl (fun g u => State.examined_editPlanner u z _ _ g)
          (State.examined_planner s z _ _)⟩
    · have placed := taken.trans (State.takeEmergency_new (s := s.underway .planner) unclaimed unheld below)
      have frame := (handOffs_evaluate z ((s.underway .planner).emergencyPlaced c z)).trans
        (handOffs_cascade.examine z _)
      have examined (h : Holding) (held : s.holding z = some h) :=
        State.emergencyPlaced_held (s := s.underway .planner) (c := c) held
      generalize (((s.underway .planner).emergencyPlaced c z).evaluate z).examine z = v at placed frame examined
      refine ⟨_, servedAs_planner .emergencyClaim rfl hr rfl placed rfl frame, fun h held => ?_⟩
      have waits : v.heldBy z c = false := by
        rw [examined h held, State.examined_heldBy]
        exact beq_eq_false_iff_ne.2 (State.heldBy_eq_false.1 unheld h (State.holding_eq_some.1 held))
      rw [waits, examined h held] at placed
      exact takenAs_planner .emergencyClaim (reply := { result := .queued }) rfl hr rfl placed rfl
        (fun g u => State.examined_editPlanner ({ u with arrivals := s.arrivals + 1 } : State) z h _ g)
        (State.examined_planner ({ s with arrivals := s.arrivals + 1 } : State) z h _)

end Sys2Proof.Proofs

/-! ## Channels, lines and clock kept (R87, R88, R94, R135)

The moves of the requests keep the three (`recordsKept_request`). `CommandMoves` lets a command write a line
receiver with anything; what R88 writes there is less than a frame, and is told byte by byte
(`recordsKept_lineByte`). -/

namespace Sys2Proof.Machine

/-- Channel records, line receivers and the clock record stay as R87, R88 and R135 say. -/
structure RecordsKept (s t : State) : Prop where
  channels : s.channelsOk → t.channelsOk
  lines : s.linesOk → t.linesOk
  clock : s.clockOk → t.clockOk

/-- A move that touches none of the three. -/
theorem recordsKept_of_same {s t : State} (hc : t.channels = s.channels) (hl : t.lines = s.lines)
    (hk : t.clock = s.clock) (hd : t.leadTime = s.leadTime) : RecordsKept s t where
  channels h k := by
    simp only [State.channel, hc]
    exact h k
  lines h l := by
    simp only [State.line, hl]
    exact h l
  clock h := by
    unfold State.clockOk
    rw [hk, hd]
    exact h

theorem RecordsKept.refl (s : State) : RecordsKept s s := ⟨id, id, id⟩

theorem RecordsKept.trans {s t u : State} (h : RecordsKept s t) (k : RecordsKept t u) : RecordsKept s u :=
  ⟨k.channels ∘ h.channels, k.lines ∘ h.lines, k.clock ∘ h.clock⟩

theorem recordsKept_editChannel (s : State) (k : ChannelId) (f : Channel → Channel)
    (hf : (s.channel k).ok → (f (s.channel k)).ok) : RecordsKept s (s.editChannel k f) where
  channels h j := by
    rw [State.editChannel_channel]
    split
    · next e => exact e ▸ hf (h k)
    · exact h j
  lines := id
  clock := id

/-- A receiver that is written with less than a frame. -/
theorem recordsKept_setLine (s : State) (l : ChannelId) {r : Receiver} (hr : r.lineOk) :
    RecordsKept s (s.setLine l r) where
  channels := id
  lines h m := by
    rw [State.setLine_line]
    split
    · exact hr
    · exact h m
  clock := id

/-- No move of a request harms a channel record, a line receiver or the clock record. -/
theorem recordsKept_request : RequestMoves RecordsKept where
  refl := .refl
  trans := .trans
  chosen _ := recordsKept_of_same rfl rfl rfl rfl
  post s c n := recordsKept_of_same (HandOffs.post s c n).channels (HandOffs.post s c n).lines
    (HandOffs.post s c n).clock (HandOffs.post s c n).leadTime
  trip _ := recordsKept_of_same rfl rfl rfl rfl
  silence _ := recordsKept_of_same rfl rfl rfl rfl
  grant _ _ _ _ _ := recordsKept_of_same rfl rfl rfl rfl
  demand _ _ _ _ _ := recordsKept_of_same rfl rfl rfl rfl
  figures _ _ _ _ _ _ := recordsKept_of_same rfl rfl rfl rfl
  judge s c :=
    have h := handOffs_cascade.judge s c
    recordsKept_of_same h.channels h.lines h.clock h.leadTime
  latchKeep _ _ _ _ _ _ _ _ := recordsKept_of_same rfl rfl rfl rfl
  latchHalt _ _ _ _ _ _ _ := recordsKept_of_same rfl rfl rfl rfl
  reclaim _ _ _ _ _ _ := recordsKept_of_same rfl rfl rfl rfl
  regrant _ _ _ _ _ := recordsKept_of_same rfl rfl rfl rfl
  suspend _ _ _ _ := recordsKept_of_same rfl rfl rfl rfl
  bookingEvent _ := recordsKept_of_same rfl rfl rfl rfl
  swap _ _ _ := recordsKept_of_same rfl rfl rfl rfl
  windStop _ := recordsKept_of_same rfl rfl rfl rfl
  hold _ _ _ := recordsKept_of_same rfl rfl rfl rfl
  govern _ _ _ _ := recordsKept_of_same rfl rfl rfl rfl
  stage s c p new cause hp hn :=
    have h := windFrame_wind.stage s c p new cause hp hn
    recordsKept_of_same h.channels h.lines h.clock h.leadTime
  applyDone _ := recordsKept_of_same rfl rfl rfl rfl
  rezone _ _ _ _ := recordsKept_of_same rfl rfl rfl rfl
  drop _ _ _ := recordsKept_of_same rfl rfl rfl rfl
  remark _ _ _ := recordsKept_of_same rfl rfl rfl rfl
  place s z c b e hh hc :=
    have h := calendarFrame_site.place s z c b e hh hc
    recordsKept_of_same h.channels h.lines h.clock h.leadTime
  adopt _ _ := recordsKept_of_same rfl rfl rfl rfl
  booking _ _ _ := recordsKept_of_same rfl rfl rfl rfl
  terminal s :=
    have h := calendarFrame_site.terminal s
    recordsKept_of_same h.channels h.lines h.clock h.leadTime
  event _ _ := recordsKept_of_same rfl rfl rfl rfl
  clearEvents _ := recordsKept_of_same rfl rfl rfl rfl
  enables _ _ := recordsKept_of_same rfl rfl rfl rfl
  areas _ _ _ := recordsKept_of_same rfl rfl rfl rfl
  config _ _ _ _ _ := recordsKept_of_same rfl rfl rfl rfl
  permit _ _ _ _ _ _ := recordsKept_of_same rfl rfl rfl rfl
  position _ _ _ := recordsKept_of_same rfl rfl rfl rfl
  channel := recordsKept_editChannel
  shadow _ _ := recordsKept_of_same rfl rfl rfl rfl
  upgrade _ _ _ _ _ _ := recordsKept_of_same rfl rfl rfl rfl
  mark _ _ _ _ _ := recordsKept_of_same rfl rfl rfl rfl
  clock _ _ _ h := ⟨id, id, h⟩
  entry s b := by
    unfold State.addBooking State.makeSlot
    dsimp only
    split
    · exact recordsKept_of_same rfl rfl rfl rfl
    · split <;> exact recordsKept_of_same rfl rfl rfl rfl
  restartBoxes _ := recordsKept_of_same rfl rfl rfl rfl
  restartZones s := by
    unfold State.restartZones
    exact recordsKept_of_same rfl rfl rfl rfl
  restartPositions _ := recordsKept_of_same rfl rfl rfl rfl
  restartPermits _ := recordsKept_of_same rfl rfl rfl rfl
  restartWind s := by
    refine ⟨fun h k => ?_, id, id⟩
    obtain ⟨-, -, -, -, -, -, failures, rejected, -⟩ := h k
    simp only [State.restartWind, State.channel, Table.entry_mapAll] at failures rejected ⊢
    simpa [Channel.ok] using ⟨failures, rejected⟩
  restartBookings _ := recordsKept_of_same rfl rfl rfl rfl
  restartKind _ _ := recordsKept_of_same rfl rfl rfl rfl

/-! ### Ports and lines -/

theorem recordsKept_editLink (s : State) (p : Port) (f : Link → Link) : RecordsKept s (s.editLink p f) :=
  recordsKept_of_same rfl rfl rfl rfl

theorem recordsKept_setEvent (s : State) (e : SiteEvent) : RecordsKept s (s.setEvent e) :=
  recordsKept_of_same rfl rfl rfl rfl

theorem recordsKept_clearLoss (s : State) (p : Port) : RecordsKept s (s.clearLoss p) := by
  cases p <;> exact recordsKept_of_same rfl rfl rfl rfl

theorem recordsKept_startTx (s : State) (p : Port) : RecordsKept s (s.startTx p) :=
  recordsKept_of_same (s.startTx_channels p) (s.startTx_lines p) (s.startTx_clock p) (s.startTx_leadTime p)

theorem recordsKept_takeRequest (s : State) (p : Port) (f : Frame) : RecordsKept s (s.takeRequest p f) := by
  have served := (recordsKept_editLink s p _).trans
    (recordsKept_request.serve p f (s.editLink p fun l => { l with serving := true }))
  unfold State.takeRequest
  dsimp only
  refine .trans (.trans ?_ (recordsKept_editLink _ p _)) (recordsKept_startTx _ p)
  split
  · exact served.trans (recordsKept_clearLoss _ p)
  · exact served

theorem recordsKept_completed (s : State) (p : Port) (f : Frame) : RecordsKept s (s.completed p f) := by
  have heard := recordsKept_editLink s p fun l => { l with rx := .hunt }
  unfold State.completed
  dsimp only
  split
  · exact (heard.trans (recordsKept_editLink _ p _)).trans (recordsKept_setEvent _ _)
  · split
    · exact heard.trans (recordsKept_editLink _ p _)
    · exact heard.trans (recordsKept_takeRequest _ p f)

theorem recordsKept_portByte (p : Port) (b : Byte) (s : State) : RecordsKept s (s.portByte p b) := by
  have dropped (f : Link → Link) : RecordsKept s ((s.editLink p f).setEvent .frame) :=
    (recordsKept_editLink s p f).trans (recordsKept_setEvent _ _)
  unfold State.portByte
  split
  · split
    · exact recordsKept_editLink s p _
    · exact .refl s
  · split
    · exact recordsKept_editLink s p _
    · exact dropped _
    · exact dropped _
    · exact recordsKept_completed s p _

theorem recordsKept_portBytes (p : Port) (bs : List Byte) (s : State) : RecordsKept s (s.portBytes p bs) :=
  State.each_rel .refl .trans bs _ (fun b _ s => recordsKept_portByte p b s) s

theorem recordsKept_endTx (p : Port) (s : State) : RecordsKept s (s.endTx p) := by
  unfold State.endTx
  split
  · exact .refl s
  · exact (recordsKept_editLink s p _).trans (recordsKept_startTx _ p)
  · dsimp only
    split
    · exact (recordsKept_editLink s p _).trans (recordsKept_startTx _ p)
    · exact (recordsKept_editLink s p _).trans (recordsKept_takeRequest _ p _)

theorem recordsKept_dropLate (p : Port) (s : State) : RecordsKept s (s.dropLate p) := by
  unfold State.dropLate
  split
  · exact (recordsKept_editLink s p _).trans (recordsKept_setEvent _ _)
  all_goals exact .refl s

theorem recordsKept_dropSample (l : ChannelId) (s : State) : RecordsKept s (s.dropSample l) := by
  refine (recordsKept_setLine s l (r := .hunt) trivial).trans (recordsKept_editChannel _ l _ fun ok => ?_)
  obtain ⟨ring, figures, bins, count, rejectedRun, recoveryRun, -, rest⟩ := ok
  exact ⟨ring, figures, bins, count, rejectedRun, recoveryRun, saturate_le _, rest⟩

theorem recordsKept_lateSample (l : ChannelId) (s : State) : RecordsKept s (s.lateSample l) := by
  unfold State.lateSample
  split
  · exact recordsKept_dropSample l s
  all_goals exact .refl s

theorem recordsKept_passSample (l : ChannelId) (v : BitVec 16) (x : Byte) (s : State) :
    RecordsKept s (s.passSample l v x) := by
  have heard := recordsKept_setLine s l (r := .hunt) trivial
  unfold State.passSample
  dsimp only
  split
  · next enabled => exact heard.trans (recordsKept_request.takeSample l _ _ _ enabled)
  · exact heard

/-- A receiver that collects its bytes one by one passes the fourth on (R88). -/
theorem recordsKept_lineByte (l : ChannelId) (b : Byte) (s : State) : RecordsKept s (s.lineByte l b) := by
  unfold State.lineByte
  split
  · split
    · exact recordsKept_setLine s l (Nat.zero_le 3)
    · exact .refl s
  · next left got hrx =>
    split
    · split
      · exact recordsKept_passSample l _ _ s
      · exact recordsKept_dropSample l s
    · next short =>
      refine ⟨id, fun h => (recordsKept_setLine s l ?_).lines h, id⟩
      have held : got.length ≤ 3 := by
        have := h l
        rwa [hrx] at this
      show (got ++ [b]).length ≤ 3
      match got, held, short with
      | [], _, _ => simp
      | [_], _, _ => simp
      | [_, _], _, _ => simp
      | [hi, lo, status], _, short => exact absurd rfl (short hi lo status)

theorem recordsKept_lineBytes (l : ChannelId) (bs : List Byte) (s : State) : RecordsKept s (s.lineBytes l bs) :=
  State.each_rel .refl .trans bs _ (fun b _ s => recordsKept_lineByte l b s) s

/-! ### Commands and time -/

theorem recordsKept_restarted (s : State) : RecordsKept s s.restarted := by
  refine ⟨fun _ k => ?_, fun _ l => ?_, fun _ => ?_⟩
  · simp [State.restarted, State.reset, State.channel, Channel.ok]
  · simp [State.restarted, State.reset, State.line, Receiver.lineOk]
  · simp [State.restarted, State.reset, State.clockOk]

theorem recordsKept_exec {i : Instr} {s t : State} (he : exec i s = .next t) : RecordsKept s t := by
  cases i <;> cases he
  case powerOn | reset => exact recordsKept_restarted s
  case frameOversize a | frameCrcError a => exact recordsKept_portBytes a.port a.bytes s
  case frameCompletionTimeout p => exact recordsKept_dropLate p s
  case transmissionEnd p => exact recordsKept_endTx p s
  case sample l v x => exact recordsKept_lineBytes l _ s
  case sampleCheckFailure a => exact recordsKept_lineBytes a.line a.bytes s
  case sampleFrameTimeout l => exact recordsKept_lateSample l s
  case handoverTimerExpiry z => exact recordsKept_request.toZoneMoves.endHandover z s
  case yieldTimerExpiry z => exact recordsKept_request.endYield z s
  case reportTimerExpiry c => exact recordsKept_request.endReport c s
  case staleTimerExpiry k => exact recordsKept_request.endStale k s
  case binTimerExpiry k => exact recordsKept_request.endBin k s
  case holdTimerExpiry c => exact recordsKept_request.toWindMoves.endHold c s
  case stowTimerExpiry c => exact recordsKept_request.endStow c s
  case secondTimerExpiry => exact recordsKept_request.endSecond s
  case minuteTick => exact recordsKept_request.tickMinute s
  case remainingMinutesZero id => exact recordsKept_request.exhaust id s
  case syncByteInHunt p => exact recordsKept_portByte p _ s
  case startCharacterInHunt l => exact recordsKept_lineByte l _ s
  all_goals exact recordsKept_portBytes _ _ s

/-- Time runs the timers down, and starts and stops none (log entry 1). -/
theorem recordsKept_elapse (s : State) : RecordsKept s s.elapse := by
  refine ⟨fun h k => ?_, fun h l => ?_, fun h => ?_⟩
  · have ok := h k
    simp only [State.elapse, State.channel, Table.entry_mapAll, Channel.ok, Timer.elapse] at ok ⊢
    split <;> simp_all
  · have ok := h l
    simp only [State.elapse, State.line, Table.entry_mapAll] at ok ⊢
    generalize Table.entry s.lines l = r at *
    cases r <;> exact ok
  · obtain ⟨weekday, minute, second, lead, runs, invalid⟩ := h
    exact ⟨weekday, minute, second, lead, by simpa [State.elapse, Timer.elapse] using runs, invalid⟩

end Sys2Proof.Machine

namespace Sys2Proof.Proofs

open Sys2Proof.Machine

/-- Settles O59: every command keeps the three records (`recordsKept_exec`), and so does time. -/
theorem stepKeepsChannelsAndClock : Obligations.StepKeepsChannelsAndClock := by
  intro s t channels lines clock hstep
  have kept : RecordsKept s t := by
    unfold step at hstep
    split at hstep
    · cases hstep
      exact recordsKept_elapse s
    · next c rest _ =>
      exact .trans (recordsKept_of_same (t := { s with pending := rest }) rfl rfl rfl rfl) (recordsKept_exec hstep)
  exact ⟨kept.channels channels, kept.lines lines, kept.clock clock⟩

end Sys2Proof.Proofs

/-! ## Bytes at a receiver (R88, R164)

One rule for a byte in HUNT and one for a byte collected, on link ports and on lines; the bytes that complete a
sample frame come to its check, whatever the receiver held before (`State.lineBytes_frame`). -/

namespace Sys2Proof.Machine

/-! ### Link ports -/

theorem State.portByte_sync {s : State} {p : Port} (h : (s.link p).rx = .hunt) :
    s.portByte p 0xC3#8 = s.editLink p fun l => { l with rx := .inFrame 5 [] } := by
  unfold State.portByte
  rw [h]
  exact if_pos rfl

theorem State.portByte_discarded {s : State} {p : Port} {b : Byte} (h : (s.link p).rx = .hunt) (hb : b ≠ 0xC3#8) :
    s.portByte p b = s := by
  unfold State.portByte
  rw [h]
  exact if_neg hb

theorem State.portByte_collected {s : State} {p : Port} {b : Byte} {n : Nat} {got : List Byte}
    (h : (s.link p).rx = .inFrame n got) (more : receptionOf (got ++ [b]) = .more) :
    s.portByte p b = s.editLink p fun l => { l with rx := .inFrame n (got ++ [b]) } := by
  unfold State.portByte
  simp only [h, more]

/-- A length byte of at most 60, and each byte behind it but the last of its L + 4, leaves more to come (R164). -/
theorem receptionOf_more {got : List Byte} {b : Byte}
    (h : got = [] ∧ b.toNat ≤ 60 ∨
      ∃ len more, got = len :: more ∧ len.toNat ≤ 60 ∧ more.length + 1 < len.toNat + 4) :
    receptionOf (got ++ [b]) = .more := by
  rcases h with ⟨rfl, hb⟩ | ⟨len, more, rfl, hlen, hmore⟩
  · simp [receptionOf, Nat.not_lt.2 hb]
  · simp [receptionOf, Nat.not_lt.2 hlen, hmore]

/-! ### Anemometer lines -/

theorem State.lineByte_start {s : State} {l : ChannelId} (h : s.line l = .hunt) :
    s.lineByte l 0xA5#8 = s.setLine l (.inFrame 2 []) := by
  unfold State.lineByte
  rw [h]
  exact if_pos rfl

theorem State.lineByte_discarded {s : State} {l : ChannelId} {b : Byte} (h : s.line l = .hunt) (hb : b ≠ 0xA5#8) :
    s.lineByte l b = s := by
  unfold State.lineByte
  rw [h]
  exact if_neg hb

theorem State.lineByte_collected {s : State} {l : ChannelId} {b : Byte} {n : Nat} {got : List Byte}
    (h : s.line l = .inFrame n got) (short : got.length < 3) :
    s.lineByte l b = s.setLine l (.inFrame n (got ++ [b])) := by
  unfold State.lineByte
  rw [h]
  match got, short with
  | [], _ => rfl
  | [_], _ => rfl
  | [_, _], _ => rfl

theorem State.lineByte_fourth {s : State} {l : ChannelId} {hi lo x check : Byte} {n : Nat}
    (h : s.line l = .inFrame n [hi, lo, x]) :
    s.lineByte l check =
      if check = sampleCheck hi lo x then s.passSample l (hi ++ lo) x else s.dropSample l := by
  unfold State.lineByte
  rw [h]

/-- A dropped frame leaves nothing of what its receiver held (R88). -/
theorem State.dropSample_setLine (s : State) (l : ChannelId) (r : Receiver) :
    (s.setLine l r).dropSample l = s.dropSample l := by
  simp [State.dropSample, State.setLine, Table.edit]

/-- The bytes that are left of a sample frame come to its check (R88). -/
theorem State.lineBytes_rest {l : ChannelId} {hi lo x check : Byte} {n : Nat} (rest : List Byte) :
    ∀ (got : List Byte) (s : State), got ++ rest = [hi, lo, x, check] → rest ≠ [] → s.line l = .inFrame n got →
      s.lineBytes l rest =
        if check = sampleCheck hi lo x then s.passSample l (hi ++ lo) x else s.dropSample l := by
  induction rest with
  | nil => exact fun _ _ _ h => absurd rfl h
  | cons b rest ih =>
    intro got s h _ hrx
    have count := congrArg List.length h
    simp only [List.length_append, List.length_cons, List.length_nil] at count
    show (s.lineByte l b).lineBytes l rest = _
    by_cases last : rest = []
    · subst last
      obtain ⟨rfl, hb⟩ := List.append_inj (s₁ := got) (s₂ := [hi, lo, x]) (t₂ := [check]) h
        (by simp only [List.length_cons, List.length_nil] at count ⊢; omega)
      obtain rfl : b = check := by simpa using hb
      exact State.lineByte_fourth hrx
    · have short : got.length < 3 := by
        have := List.length_pos_of_ne_nil last
        omega
      rw [State.lineByte_collected hrx short, ih (got ++ [b]) _ (by simpa using h) last (by simp),
        State.passSample_setLine, State.dropSample_setLine]

/-- A receiver in HUNT and a whole frame, or a receiver inside a frame and the rest of it (R88). -/
def Receiver.completedBy (bytes : List Byte) (hi lo x check : Byte) (r : Receiver) : Prop :=
  r = .hunt ∧ bytes = [0xA5#8, hi, lo, x, check] ∨
    ∃ n got, r = .inFrame n got ∧ got ++ bytes = [hi, lo, x, check] ∧ bytes ≠ []

theorem State.lineBytes_frame {s : State} {l : ChannelId} {bytes : List Byte} {hi lo x check : Byte}
    (h : (s.line l).completedBy bytes hi lo x check) :
    s.lineBytes l bytes =
      if check = sampleCheck hi lo x then s.passSample l (hi ++ lo) x else s.dropSample l := by
  rcases h with ⟨hunt, rfl⟩ | ⟨n, got, hrx, frame, more⟩
  · show (s.lineByte l 0xA5#8).lineBytes l [hi, lo, x, check] = _
    rw [State.lineByte_start hunt, State.lineBytes_rest _ [] _ rfl (List.cons_ne_nil _ _) (State.setLine_line_same _ _ _),
      State.passSample_setLine, State.dropSample_setLine]
  · exact State.lineBytes_rest bytes got s frame more hrx

/-- A speed given by its two bytes goes out as them (R162). -/
theorem sampleBytes_append (hi lo x : Byte) : sampleBytes (hi ++ lo) x = [hi, lo, x, sampleCheck hi lo x] := by
  have value : (hi ++ lo).toNat = hi.toNat * 256 + lo.toNat := by
    rw [BitVec.toNat_append, ← Nat.shiftLeft_add_eq_or_of_lt lo.isLt, Nat.shiftLeft_eq]
  have high : BitVec.ofNat 8 ((hi ++ lo).toNat / 256) = hi := by
    apply BitVec.eq_of_toNat_eq
    have := hi.isLt
    have := lo.isLt
    simp only [BitVec.toNat_ofNat, value]
    omega
  have low : BitVec.ofNat 8 (hi ++ lo).toNat = lo := by
    apply BitVec.eq_of_toNat_eq
    have := lo.isLt
    simp only [BitVec.toNat_ofNat, value]
    omega
  simp only [sampleBytes, high, low]

/-- A receiver that a frame with a matching check completes awaits that frame (R88). -/
theorem Receiver.completedBy.awaits {r : Receiver} {bytes : List Byte} {hi lo x : Byte}
    (h : r.completedBy bytes hi lo x (sampleCheck hi lo x)) : r.awaits (sampleBytes (hi ++ lo) x) = true := by
  rw [sampleBytes_append]
  rcases h with ⟨rfl, -⟩ | ⟨n, got, rfl, frame, more⟩
  · rfl
  · have part : got <+: [hi, lo, x, sampleCheck hi lo x] := ⟨bytes, frame⟩
    have count := congrArg List.length frame
    have := List.length_pos_of_ne_nil more
    simp only [List.length_append] at count
    simp only [Receiver.awaits, Bool.and_eq_true, decide_eq_true_eq]
    exact ⟨List.isPrefixOf_iff_prefix.2 part, by omega⟩

/-- A receiver that holds other bytes than the frame's beginning is brought the whole frame (log entry 6). -/
theorem Receiver.awaited_of_other {first : Byte} {rest got : List Byte} (n : Nat) (h : ¬got <+: rest) :
    (Receiver.inFrame n got).awaited first rest = first :: rest :=
  if_neg (mt List.isPrefixOf_iff_prefix.1 h)

theorem State.passSample_disabled {s : State} {l : ChannelId} (v : BitVec 16) (x : Byte)
    (h : (s.channel l).enable = false) : s.passSample l v x = s.setLine l .hunt := by
  unfold State.passSample
  exact if_neg (by rw [h]; exact Bool.false_ne_true)

theorem State.lateSample_of_expired {s : State} {l : ChannelId} {got : List Byte} (h : s.line l = .inFrame 0 got) :
    s.lateSample l = s.dropSample l := by
  unfold State.lateSample
  rw [h]

theorem State.lateSample_of_left {s : State} {l : ChannelId} (h : ∀ got, s.line l ≠ .inFrame 0 got) :
    s.lateSample l = s := by
  unfold State.lateSample
  split
  · next got expired => exact absurd expired (h got)
  all_goals rfl

end Sys2Proof.Machine

namespace Sys2Proof.Proofs

open Sys2Proof.Machine

/-- Settles O11, by the rule of one byte in each receiver state. -/
theorem startBytes : Obligations.StartBytes := by
  intro p l b bs s onPort onLine
  refine ⟨rfl, rfl, ⟨_, rfl, rfl⟩, ⟨_, rfl, rfl⟩, rfl, rfl, rfl, fun hunt => ⟨?_, fun other => ?_⟩,
    fun n got hrx place => ?_, fun hunt => ⟨?_, fun other => ?_⟩, fun n got hrx short => ?_⟩
  · exact congrArg Host.Outcome.next (State.portByte_sync hunt)
  · exact congrArg Host.Outcome.next (State.portByte_discarded hunt other)
  · exact congrArg Host.Outcome.next (State.portByte_collected hrx (receptionOf_more place))
  · exact congrArg Host.Outcome.next (State.lineByte_start hunt)
  · exact congrArg Host.Outcome.next (State.lineByte_discarded hunt other)
  · exact congrArg Host.Outcome.next (State.lineByte_collected hrx short)

/-- Settles O47: a frame comes to its check (`State.lineBytes_frame`), and a check that matches is a sample's
(`Receiver.completedBy.awaits`). -/
theorem samplesDropped : Obligations.SamplesDropped := by
  intro k s dropped
  refine ⟨fun v x disabled awaits => ?_, fun bytes hi lo x check frame => ⟨fun differs => ?_, fun agrees => ?_⟩,
    fun n got hi lo x hrx => ?_, fun got expired => ?_, fun left => ?_⟩
  · exact congrArg Host.Outcome.next
      ((State.sampleArrives_passes s k v x awaits).trans (State.passSample_disabled v x disabled))
  · exact congrArg Host.Outcome.next ((State.lineBytes_frame frame).trans (if_neg differs))
  · subst agrees
    exact congrArg Host.Outcome.next (((State.lineBytes_frame frame).trans (if_pos rfl)).trans
      (State.sampleArrives_passes s k _ x (Receiver.completedBy.awaits frame)).symm)
  · intro rest other
    have brought : (s.line k).awaited 0xA5#8 (sampleBytes (hi ++ lo) x) = 0xA5#8 :: rest := by
      rw [sampleBytes_append, hrx]
      exact Receiver.awaited_of_other n other
    exact congrArg (fun bs => Host.Outcome.next (s.lineBytes k bs)) brought
  · exact congrArg Host.Outcome.next (State.lateSample_of_expired expired)
  · exact congrArg Host.Outcome.next (State.lateSample_of_left left)

end Sys2Proof.Proofs

/-! ## Channel records (R87 to R97)

What a sample, an expiry and CONFIG_CHANNEL write of one channel record, in one equation each; the governing
evaluation behind it stays within the wind frame. -/

namespace Sys2Proof.Machine

theorem State.editChannel_congr {s : State} {k : ChannelId} {f g : Channel → Channel}
    (h : f (s.channel k) = g (s.channel k)) : s.editChannel k f = s.editChannel k g := by
  simp only [State.channel, Table.entry] at h
  simp only [State.editChannel, Table.edit, h]

theorem State.editChannel_editChannel (s : State) (k : ChannelId) (f g : Channel → Channel) :
    (s.editChannel k f).editChannel k g = s.editChannel k (g ∘ f) := by
  simp [State.editChannel, Table.edit, Function.comp]

theorem windFrame_governChannel (k : ChannelId) (s : State) : WindFrame s (s.governChannel k) :=
  windFrame_wind.governChannel k s

/-! ### Samples (R89 to R92, R94) -/

theorem ringAppend_eq (ring : List Nat) (x : Nat) :
    ringAppend ring x = if ring.length < 12 then ring ++ [x] else (ring ++ [x]).drop 1 := by
  unfold ringAppend
  simp only [List.length_append, List.length_cons, List.length_nil]
  by_cases h : ring.length < 12
  · rw [if_pos h, if_neg (by omega)]
  · rw [if_neg h, if_pos (by omega)]

/-- The record of a sample that makes or keeps its channel LIVE (R91, R92, R94). -/
theorem Channel.feed_eq (ch : Channel) (x : Nat) :
    ch.feed x = { ch with
      state := .live, ring := ringAppend ch.ring x, gust := some (gustOf (ringAppend ch.ring x))
      staleTimer := some (100 * ch.staleTime)
      openSum := if ch.openCount < 240 then ch.openSum + x else ch.openSum
      openCount := if ch.openCount < 240 then ch.openCount + 1 else ch.openCount } := by
  unfold Channel.feed Channel.bin seconds
  by_cases h : ch.openCount < 240 <;> simp [h]

theorem Channel.accept_of_unfaulted {ch : Channel} (x : Nat) (h : ch.state ≠ .faulted) :
    ch.accept x = ({ ch with rejectedRun := 0 } : Channel).feed x := by
  unfold Channel.accept
  cases hs : ch.state <;> first | rfl | exact absurd hs h

/-- A sample of the recovery run (R92). -/
theorem Channel.accept_of_recovering {ch : Channel} (x : Nat) (h : ch.state = .faulted) (run : ch.recoveryRun < 11) :
    ch.accept x =
      { ch with ring := ringAppend ch.ring x, rejectedRun := 0, recoveryRun := ch.recoveryRun + 1 } := by
  unfold Channel.accept
  simp only [h]
  exact if_pos (by omega)

/-- The twelfth sample of the recovery run (R92). -/
theorem Channel.accept_of_recovered {ch : Channel} (x : Nat) (h : ch.state = .faulted) (run : 11 ≤ ch.recoveryRun) :
    ch.accept x = ({ ch with rejectedRun := 0, recoveryRun := 0 } : Channel).feed x := by
  unfold Channel.accept
  simp only [h]
  exact if_neg (by omega)

theorem Channel.reject_of_faulted {ch : Channel} (h : ch.state = .faulted) :
    ch.reject = { ch with rejected := min 65535 (ch.rejected + 1), recoveryRun := 0 } := by
  unfold Channel.reject
  simp only [h]
  rfl

theorem Channel.reject_of_run {ch : Channel} (h : ch.state ≠ .faulted) (run : ch.rejectedRun < 7) :
    ch.reject = { ch with rejected := min 65535 (ch.rejected + 1), rejectedRun := ch.rejectedRun + 1 } := by
  have short : ch.rejectedRun + 1 < 8 := by omega
  unfold Channel.reject
  cases hs : ch.state <;> first | exact absurd hs h | (simp only [short, if_true]; rfl)

/-- The eighth rejected sample in a row (R89, R90). -/
theorem Channel.reject_of_eighth {ch : Channel} (h : ch.state ≠ .faulted) (run : 7 ≤ ch.rejectedRun) :
    ch.reject = { ch with
      state := .faulted, rejected := min 65535 (ch.rejected + 1), rejectedRun := 0, recoveryRun := 0
      staleTimer := none, ring := [], gust := none, openSum := 0, openCount := 0, bins := [], mean := none } := by
  have long : ¬ch.rejectedRun + 1 < 8 := by omega
  unfold Channel.reject
  cases hs : ch.state <;> first | exact absurd hs h | (simp only [long, if_false]; rfl)

/-- An accepted sample, and the governing evaluation where it leaves its channel LIVE (R89, R99). -/
theorem State.takeSample_accepted (s : State) (k : ChannelId) {v : Nat} (hv : v ≤ 700) :
    s.takeSample k v true =
      if ((s.channel k).accept v).state = .live then (s.editChannel k fun ch => ch.accept v).governChannel k
      else s.editChannel k fun ch => ch.accept v := by
  unfold State.takeSample
  simp only [Bool.true_and, decide_eq_true_eq, hv, if_true, State.editChannel_channel_same]

theorem not_accepted {v : Nat} {ok : Bool} (h : ok = false ∨ 700 < v) : (ok && decide (v ≤ 700)) = false := by
  rcases h with rfl | h
  · exact Bool.false_and _
  · rw [decide_eq_false (Nat.not_le.2 h), Bool.and_false]

/-- A rejected sample that leaves the channel FAULTED or not as it was (R89). -/
theorem State.takeSample_rejected {s : State} {k : ChannelId} {v : Nat} {ok : Bool} (h : ok = false ∨ 700 < v)
    (same : (s.channel k).reject.state = .faulted → (s.channel k).state = .faulted) :
    s.takeSample k v ok = s.editChannel k Channel.reject := by
  unfold State.takeSample
  simp only [not_accepted h, Bool.false_eq_true, if_false, State.editChannel_channel_same]
  by_cases faulted : (s.channel k).state = .faulted
  · simp [faulted]
  · simp [faulted, mt same faulted]

/-- A rejected sample by which the channel becomes FAULTED (R89, R99). -/
theorem State.takeSample_faulting {s : State} {k : ChannelId} {v : Nat} {ok : Bool} (h : ok = false ∨ 700 < v)
    (before : (s.channel k).state ≠ .faulted) (after : (s.channel k).reject.state = .faulted) :
    WindFrame ((s.editChannel k Channel.reject).setEvent .sensor) (s.takeSample k v ok) := by
  unfold State.takeSample
  simp only [not_accepted h, Bool.false_eq_true, if_false, State.editChannel_channel_same, before, after, ne_eq,
    not_false_eq_true, and_self, and_true, if_true]
  split
  · exact windFrame_governChannel k _
  · exact .refl _

/-- A sample frame on an enabled channel whose receiver awaits it is handed to the Wind Unit (R88). -/
theorem State.sampleArrives_taken {s : State} {k : ChannelId} {v : BitVec 16} {x : Byte}
    (enabled : (s.channel k).enable = true) (awaits : (s.line k).awaits (sampleBytes v x) = true) :
    s.sampleArrives k v x = (s.setLine k .hunt).takeSample k v.toNat (x == 0#8) := by
  rw [State.sampleArrives_passes s k v x awaits]
  unfold State.passSample
  exact if_pos enabled

/-! ### Bins (R95) -/

/-- The record of a closed bin (R95). -/
theorem Channel.closeBin_eq (ch : Channel) :
    ch.closeBin =
      let all := ch.bins ++ [(ch.openSum, ch.openCount)]
      let bins := if all.length ≤ 10 then all else all.drop 1
      { ch with bins := bins, openSum := 0, openCount := 0, mean := meanOf bins } := by
  have keep (bins : List (Nat × Nat)) :
      (if 10 < bins.length then bins.drop 1 else bins) = if bins.length ≤ 10 then bins else bins.drop 1 := by
    by_cases h : bins.length ≤ 10
    · rw [if_pos h, if_neg (Nat.not_lt.2 h)]
    · rw [if_neg h, if_pos (Nat.not_le.1 h)]
  simp only [Channel.closeBin, keep]

/-! ### The expiries (R93, R95, R96) -/

theorem State.endStale_of_left {s : State} {k : ChannelId} (h : (s.channel k).staleTimer ≠ some 0) :
    s.endStale k = s := if_neg h

theorem State.endStale_of_live {s : State} {k : ChannelId} (h : (s.channel k).staleTimer = some 0)
    (live : (s.channel k).state = .live) :
    s.endStale k =
      ((s.editChannel k fun ch => { ch.cleared with state := .stale }).setEvent .sensor).governChannel k := by
  unfold State.endStale
  dsimp only
  rw [if_pos h, if_pos live]

theorem State.endBin_of_left {s : State} {k : ChannelId} (h : (s.channel k).binTimer ≠ 0) : s.endBin k = s :=
  if_neg h

theorem State.endBin_of_silent {s : State} {k : ChannelId} (h : (s.channel k).binTimer = 0)
    (silent : (s.channel k).state ≠ .live) : s.endBin k = s.editChannel k fun ch => { ch with binTimer := 6000 } := by
  unfold State.endBin
  dsimp only
  rw [if_pos h, if_neg silent]
  rfl

theorem State.endBin_of_live {s : State} {k : ChannelId} (h : (s.channel k).binTimer = 0)
    (live : (s.channel k).state = .live) :
    s.endBin k =
      (s.editChannel k fun ch => ({ ch with binTimer := 6000 } : Channel).closeBin).governChannel k := by
  unfold State.endBin
  dsimp only
  rw [if_pos h, if_pos live, State.editChannel_editChannel]
  rfl

/-! ### CONFIG_CHANNEL (R97) -/

/-- The record of a channel configured and not disabled (R97). -/
def Channel.configured (enable : Bool) (stale : Nat) (ch : Channel) : Channel :=
  { ch with enable := enable, staleTime := stale, checkFailures := 0, rejected := 0 }

/-- The record of a channel disabled (R97). -/
def Channel.disabled (stale : Nat) (ch : Channel) : Channel :=
  { enable := false, staleTime := stale, binTimer := ch.binTimer }

theorem State.configureChannel_kept {s : State} {k : ChannelId} {enable : Bool} (stale : Nat)
    (h : enable = true ∨ (s.channel k).enable = false) :
    s.configureChannel k enable stale = s.editChannel k (Channel.configured enable stale) := by
  unfold State.configureChannel
  dsimp only
  refine if_neg ?_
  rcases h with h | h <;> simp [h]

theorem State.configureChannel_disabled {s : State} {k : ChannelId} (stale : Nat)
    (h : (s.channel k).enable = true) :
    WindFrame (s.editChannel k (Channel.disabled stale)) (s.configureChannel k false stale) := by
  unfold State.configureChannel
  simp only [h, Bool.not_false, Bool.and_self, if_true, State.editChannel_editChannel]
  split
  · exact windFrame_governChannel k _
  · exact .refl _

theorem serveConfigChannel_badField {n e : Byte} (v : Byte) (s : State) (bad : 7 < n.toNat ∨ 1 < e.toNat) :
    serveConfigChannel [n, e, v] s = refuse .badField s := by
  unfold serveConfigChannel
  simp only [byteAt_cons_zero, byteAt_cons_succ]
  rcases bad with channel | enable
  · rw [channelOf, dif_neg (by omega)]
  · have neither : flagOf e.toNat = none := by
      match e.toNat, enable with
      | _ + 2, _ => rfl
    rw [neither]
    cases channelOf n.toNat <;> rfl

theorem serveConfigChannel_taken {k : ChannelId} {n e : Byte} (v : Byte) {enable : Bool} (s : State)
    (channel : n.toNat = k.val) (flag : flagOf e.toNat = some enable) :
    serveConfigChannel [n, e, v] s =
      ({ result := .ok }, s.configureChannel k enable (max 1 (min 10 v.toNat))) := by
  have found : channelOf n.toNat = some k := by
    rw [channelOf, dif_pos (channel ▸ k.isLt)]
    exact congrArg some (Fin.ext channel)
  unfold serveConfigChannel
  simp only [byteAt_cons_zero, byteAt_cons_succ, found, flag]
  rfl

end Sys2Proof.Machine

namespace Sys2Proof.Proofs

open Sys2Proof.Machine

/-- Settles O30: the refusals, and the two records of R97 (`State.configureChannel_kept`,
`State.configureChannel_disabled`). -/
theorem channelConfigured : Obligations.ChannelConfigured := by
  intro tag n e v s hr
  refine ⟨fun bad => refusedAs_planner .configChannel rfl hr rfl (serveConfigChannel_badField v _ bad),
    fun k channel => ⟨fun kept => ?_, fun off enabled => ?_⟩⟩
  · have taken (enable : Bool) (he : (e == 0x01#8) = enable) (flag : flagOf e.toNat = some enable)
        (h : enable = true ∨ (s.channel k).enable = false) :
        servePlanner .configChannel [n, e, v] (s.underway .planner) =
          ({ result := .ok }, (s.underway .planner).editChannel k
            (Channel.configured (e == 0x01#8) (max 1 (min 10 v.toNat)))) := by
      subst he
      exact (serveConfigChannel_taken v _ channel flag).trans
        (congrArg _ (State.configureChannel_kept (s := s.underway .planner) _ h))
    refine takenAs_planner .configChannel (reply := { result := .ok })
      (eff := fun u => u.editChannel k (Channel.configured (e == 0x01#8) (max 1 (min 10 v.toNat))))
      rfl hr rfl ?_ rfl (fun _ _ => rfl) rfl
    rcases kept with rfl | ⟨rfl, disabled⟩
    · exact taken true rfl rfl (.inl rfl)
    · exact taken false rfl rfl (.inr disabled)
  · subst off
    exact ⟨_, servedAs_planner .configChannel rfl hr rfl
      (serveConfigChannel_taken v (s.underway .planner) channel (enable := false) rfl) rfl
      (State.configureChannel_disabled (s := s.underway .planner) _ enabled)⟩

/-- Settles O46, by the record of each row of R89 and R92. -/
theorem sampleRejectedOrRecovering : Obligations.SampleRejectedOrRecovering := by
  intro k v x s enabled awaits old heard ring gust
  have arrives := State.sampleArrives_taken enabled awaits
  have ring_eq : ringAppend old.ring v.toNat = ring := ringAppend_eq _ _
  refine ⟨fun bad => ?_, fun ok range faulted => ⟨fun run => ?_, fun run count sum => ?_⟩⟩
  · have rejected : (x == 0#8) = false ∨ 700 < v.toNat := bad.imp_left fun h => beq_eq_false_iff_ne.2 h
    refine ⟨fun faulted => ?_, fun unfaulted run => ?_, fun unfaulted run => ?_⟩
    · refine congrArg Host.Outcome.next ((arrives.trans (State.takeSample_rejected rejected fun _ => faulted)).trans ?_)
      exact State.editChannel_congr (s := heard) (Channel.reject_of_faulted faulted)
    · refine congrArg Host.Outcome.next ((arrives.trans (State.takeSample_rejected rejected fun h => ?_)).trans ?_)
      · exact absurd ((congrArg Channel.state (Channel.reject_of_run unfaulted run)).symm.trans h) unfaulted
      · exact State.editChannel_congr (s := heard) (Channel.reject_of_run unfaulted run)
    · have record := Channel.reject_of_eighth unfaulted run
      refine ⟨_, congrArg Host.Outcome.next arrives, ?_⟩
      rw [State.editChannel_congr (g := Channel.reject)]
      · exact State.takeSample_faulting (s := heard) rejected unfaulted (congrArg Channel.state record)
      · exact record.symm
  · subst ok
    have record := Channel.accept_of_recovering v.toNat faulted run
    refine congrArg Host.Outcome.next ((arrives.trans (State.takeSample_accepted _ _ range)).trans ?_)
    have silent : ¬(old.accept v.toNat).state = .live := by
      rw [record, faulted]
      exact ChannelState.noConfusion
    rw [ring_eq] at record
    exact (if_neg silent).trans (State.editChannel_congr (s := heard) record)
  · subst ok
    have record := (Channel.accept_of_recovered v.toNat faulted run).trans (Channel.feed_eq _ _)
    have live : (old.accept v.toNat).state = .live := congrArg Channel.state record
    have taken := (arrives.trans (State.takeSample_accepted _ _ range)).trans (if_pos live)
    refine ⟨_, congrArg Host.Outcome.next taken, ?_⟩
    rw [show old.openCount = 0 from count, show old.openSum = 0 from sum, ring_eq] at record
    simp only [Nat.ofNat_pos, if_true, Nat.zero_add] at record
    rw [State.editChannel_congr (g := fun ch => ch.accept v.toNat)]
    · exact windFrame_governChannel k _
    · exact record.symm

end Sys2Proof.Proofs

/-! ## The wind check of a crane's bookings (R154)

A wind check replaces each booking of its crane by `Booking.checked`, and leaves the other bookings and every
wind record (`State.checkBookings_checks`). Two checks under records that judge alike are one
(`BookingsChecked.again`). -/

namespace Sys2Proof.Machine

/-! ### One booking -/

/-- A booking behind a wind check under the record `x`, with hysteresis `h` (R154). -/
def Booking.checked (h : Nat) (x : Wind) (b : Booking) : Booking :=
  match b.state with
  | .active => if x.suspends b.windLimit then { b with state := .suspended } else b
  | .suspended => if x.returns b.windLimit h then { b with state := .active } else b
  | .booked | .armed | .done | .lapsed | .cancelled => b

section

variable {h : Nat} {x y : Wind} {b : Booking}

theorem Booking.checked_active (hs : b.state = .active) :
    b.checked h x = if x.suspends b.windLimit then { b with state := .suspended } else b := by
  unfold Booking.checked
  rw [hs]

theorem Booking.checked_suspended (hs : b.state = .suspended) :
    b.checked h x = if x.returns b.windLimit h then { b with state := .active } else b := by
  unfold Booking.checked
  rw [hs]

theorem Booking.checked_other (hs : b.state.runs = false) : b.checked h x = b := by
  unfold Booking.checked
  cases hst : b.state <;> rw [hst] at hs <;> first | rfl | cases hs

/-- A wind check edits the state alone. -/
theorem Booking.checked_eq (h : Nat) (x : Wind) (b : Booking) :
    b.checked h x = { b with state := (b.checked h x).state } := by
  unfold Booking.checked
  split
  · split <;> rfl
  · split <;> rfl
  all_goals rfl

@[simp] theorem Booking.checked_id (h : Nat) (x : Wind) (b : Booking) : (b.checked h x).id = b.id := by
  rw [Booking.checked_eq]

@[simp] theorem Booking.checked_crane (h : Nat) (x : Wind) (b : Booking) : (b.checked h x).crane = b.crane := by
  rw [Booking.checked_eq]

theorem Wind.returns_iff : x.returns b.windLimit h = true ↔ b.allowed h x := by
  unfold Wind.returns Booking.allowed
  rcases b.windLimit with _ | l <;> rcases x.gust with _ | g <;> simp [and_assoc]

/-- A record that forbids a lift lets none return (R154). -/
theorem Wind.not_returns_of_suspends {limit : Option Nat} (hs : x.suspends limit = true) :
    x.returns limit h = false := by
  unfold Wind.suspends at hs
  unfold Wind.returns
  cases limit with
  | none => simpa [or_iff_not_imp_left] using hs
  | some l =>
    cases hg : x.gust with
    | none => simp
    | some g =>
      simp only [hg, Bool.or_eq_true, decide_eq_true_eq, beq_iff_eq] at hs
      rcases hs with (blind | stop) | above
      · simp [blind]
      · simp [stop]
      · simp [show l < g + h by omega]

/-- Two wind records by which every booking is judged alike (R154). -/
def Wind.JudgesAs (x y : Wind) : Prop :=
  ∀ limit, x.suspends limit = y.suspends limit ∧ ∀ h, x.returns limit h = y.returns limit h

theorem Wind.judgesAs_of_same (gust : x.gust = y.gust) (blind : x.blind = y.blind) (stage : x.stage = y.stage) :
    x.JudgesAs y := fun limit => by
  unfold Wind.suspends Wind.returns
  rw [gust, blind, stage]
  exact ⟨rfl, fun _ => rfl⟩

/-- A blind crane's stage does not matter (R154). -/
theorem Wind.judgesAs_of_blind (hx : x.blind = true) (hy : y.blind = true) : x.JudgesAs y := fun limit => by
  simp [Wind.suspends, Wind.returns, hx, hy]

theorem Wind.JudgesAs.checked (k : x.JudgesAs y) (h : Nat) (b : Booking) : b.checked h x = b.checked h y := by
  obtain ⟨suspends, returns⟩ := k b.windLimit
  unfold Booking.checked
  rw [suspends, returns]

/-- A booking checked stands at a second check (R154). -/
theorem Booking.checked_checked (h : Nat) (x : Wind) (b : Booking) : (b.checked h x).checked h x = b.checked h x := by
  cases hs : b.state with
  | active =>
    rw [Booking.checked_active hs]
    split
    · next suspends =>
      rw [Booking.checked_suspended rfl]
      exact if_neg (by rw [Wind.not_returns_of_suspends suspends]; exact Bool.false_ne_true)
    · next stays => rw [Booking.checked_active hs, if_neg stays]
  | suspended =>
    rw [Booking.checked_suspended hs]
    split
    · next returns =>
      rw [Booking.checked_active rfl]
      refine if_neg fun suspends => ?_
      rw [Wind.not_returns_of_suspends suspends] at returns
      cases returns
    · next stays => rw [Booking.checked_suspended hs, if_neg stays]
  | booked | armed | done | lapsed | cancelled => simp [Booking.checked_other, hs, BookingState.runs]

/-- A booking checked is what the table of R154 makes of it. -/
theorem Booking.checked_judged {event : Bool} (he : b.state = .active → x.suspends b.windLimit = true → event = true) :
    BookingChecked h x event b (b.checked h x) where
  suspended hs forbidden := by
    have suspends := Wind.suspends_iff.2 forbidden
    exact ⟨(Booking.checked_active hs).trans (if_pos suspends), he hs suspends⟩
  goesOn hs stays := (Booking.checked_active hs).trans (if_neg (mt Wind.suspends_iff.1 stays))
  returned hs allowed := (Booking.checked_suspended hs).trans (if_pos (Wind.returns_iff.2 allowed))
  waits hs stays := (Booking.checked_suspended hs).trans (if_neg (mt Wind.returns_iff.1 stays))
  others ha hs := Booking.checked_other (by cases hst : b.state <;> simp_all [BookingState.runs])

end

/-! ### One judgement -/

/-- A change between ACTIVE and SUSPENDED edits the entries of its id, and sets site event BOOKING on the way
into SUSPENDED (R154, R155). -/
theorem State.swapSuspension_bookings {s : State} {id : Nat} {b : Booking} (new : BookingState)
    (cause : BookingCause) (hb : s.bookingById id = some b) :
    (s.swapSuspension id new cause).bookings = (s.editBooking id fun b => { b with state := new }).bookings ∧
      (new = .suspended → (s.swapSuspension id new cause).event .booking = true) := by
  unfold State.swapSuspension
  rw [hb]
  dsimp only
  have levelled := bookingsStand_zone.toLevelMoves.relevelAll b.crane b.zones
    (s.editBooking id fun b => { b with state := new })
  have refreshed := bookingsStand_zone.trans levelled (bookingsStand_zone.toLevelMoves.refreshSuspension b.crane _)
  have posted (u : State) := calendarFrame_site.toZoneMoves.postBooking id b.state cause u
  have stood (u : State) := bookingsStand_zone.postBooking id b.state cause u
  unfold State.suspensionEvent
  split
  · exact ⟨(stood _).bookings.trans refreshed.bookings, fun _ => (posted _).flags _ (State.setEvent_event_same _ _)⟩
  · next other => exact ⟨(stood _).bookings.trans refreshed.bookings, fun h => absurd h other⟩

theorem eq_of_bookingById {s : State} (hn : (s.bookings.map (·.id)).Nodup) {id : Nat} {b o : Booking}
    (hb : s.bookingById id = some b) (ho : o ∈ s.bookings) (hid : o.id = id) : o = b :=
  eq_of_id hn ho (List.mem_of_find?_eq_some hb) (hid.trans (State.bookingById_id hb).symm)

/-- One judgement replaces the booking of its id by the booking checked (R154). -/
theorem State.checkBooking_checks {s : State} (hn : (s.bookings.map (·.id)).Nodup) (byStage : Bool) {id : Nat}
    {b : Booking} (hb : s.bookingById id = some b) :
    (s.checkBooking byStage id).bookings = (s.bookings.map fun o =>
      if o.id = id then b.checked (s.hysteresis b.crane) (s.wind b.crane) else o) ∧
    (b.state = .active → (s.wind b.crane).suspends b.windLimit = true →
      (s.checkBooking byStage id).event .booking = true) := by
  have stands (same : b.checked (s.hysteresis b.crane) (s.wind b.crane) = b) :
      s.bookings = s.bookings.map fun o =>
        if o.id = id then b.checked (s.hysteresis b.crane) (s.wind b.crane) else o := by
    refine ((List.map_congr_left fun o ho => ?_).trans (List.map_id _)).symm
    split
    · next hid => exact same.trans (eq_of_bookingById hn hb ho hid).symm
    · rfl
  have swaps (new : BookingState) (cause : BookingCause)
      (same : b.checked (s.hysteresis b.crane) (s.wind b.crane) = { b with state := new }) :
      (s.swapSuspension id new cause).bookings = s.bookings.map fun o =>
        if o.id = id then b.checked (s.hysteresis b.crane) (s.wind b.crane) else o := by
    rw [(State.swapSuspension_bookings new cause hb).1, State.editBooking_bookings]
    refine List.map_congr_left fun o ho => ?_
    by_cases hid : o.id = id
    · simp [same, eq_of_bookingById hn hb ho hid]
    · simp [hid]
  unfold State.checkBooking
  rw [hb]
  dsimp only
  cases hs : b.state with
  | active =>
    dsimp only
    have checked := Booking.checked_active (h := s.hysteresis b.crane) (x := s.wind b.crane) hs
    by_cases suspends : (s.wind b.crane).suspends b.windLimit = true
    · rw [if_pos suspends] at checked ⊢
      exact ⟨swaps _ _ checked, fun _ _ => (State.swapSuspension_bookings _ _ hb).2 rfl⟩
    · rw [if_neg suspends] at checked ⊢
      exact ⟨stands checked, fun _ h => absurd h suspends⟩
  | suspended =>
    dsimp only
    have checked := Booking.checked_suspended (h := s.hysteresis b.crane) (x := s.wind b.crane) hs
    by_cases returns : (s.wind b.crane).returns b.windLimit (s.hysteresis b.crane) = true
    · rw [if_pos returns] at checked ⊢
      exact ⟨swaps _ _ checked, nofun⟩
    · rw [if_neg returns] at checked ⊢
      exact ⟨stands checked, nofun⟩
  | booked | armed | done | lapsed | cancelled =>
    exact ⟨stands (Booking.checked_other (by rw [hs]; rfl)), nofun⟩

/-! ### All bookings of a crane -/

/-- The bookings of crane `c` have gone through a wind check under the record `x` (R154). -/
structure BookingsChecked (c : CraneId) (h : Nat) (x : Wind) (s t : State) : Prop where
  bookings : t.bookings = s.bookings.map fun o => if o.crane = c then o.checked h x else o
  event : ∀ o ∈ s.bookings, o.crane = c → o.state = .active → x.suspends o.windLimit = true → t.event .booking = true

theorem calendarFrame_checkBooking (byStage : Bool) (id : Nat) (s : State) :
    CalendarFrame s (s.checkBooking byStage id) := calendarFrame_site.toSwapMoves.checkBooking byStage id s

theorem calendarFrame_checkBookings (byStage : Bool) (c : CraneId) (s : State) :
    CalendarFrame s (s.checkBookings byStage c) := calendarFrame_site.toSwapMoves.checkBookings byStage c s

theorem configKept_checkBooking (byStage : Bool) (id : Nat) (s : State) :
    ConfigKept s (s.checkBooking byStage id) := configKept_swap.checkBooking byStage id s

theorem State.hysteresis_of_config {s t : State} (h : ConfigKept s t) (c : CraneId) :
    t.hysteresis c = s.hysteresis c := by
  have same := h c
  unfold State.hysteresis
  cases hs : s.permit c <;> cases ht : t.permit c <;> rw [hs, ht] at same <;> simp_all

theorem State.checkBooking_absent {s : State} (byStage : Bool) {id : Nat} (h : s.bookingById id = none) :
    s.checkBooking byStage id = s := by
  unfold State.checkBooking
  rw [h]

theorem map_id_of_checked (f : Booking → Booking) (hf : ∀ o, (f o).id = o.id) (bs : List Booking) :
    (bs.map f).map (·.id) = bs.map (·.id) := by
  rw [List.map_map]
  exact List.map_congr_left fun o _ => hf o

section

variable {c : CraneId} {h : Nat} {x : Wind} {u : State}

/-- The judgement of an id of the crane's bookings, whether or not the table has it (R154). -/
theorem State.checkBooking_own (byStage : Bool) (id : Nat) (hn : (u.bookings.map (·.id)).Nodup)
    (own : ∀ o ∈ u.bookings, o.id = id → o.crane = c) (wind : u.wind c = x) (hyst : u.hysteresis c = h) :
    (u.checkBooking byStage id).bookings = (u.bookings.map fun o => if o.id = id then o.checked h x else o) ∧
      ∀ o ∈ u.bookings, o.id = id → o.state = .active → x.suspends o.windLimit = true →
        (u.checkBooking byStage id).event .booking = true := by
  cases hb : u.bookingById id with
  | none =>
    have absent : ∀ o ∈ u.bookings, o.id ≠ id := fun o ho hid => List.find?_eq_none.1 hb o ho (by simpa using hid)
    rw [State.checkBooking_absent byStage hb]
    refine ⟨((List.map_congr_left fun o ho => ?_).trans (List.map_id _)).symm, fun o ho hid => absurd hid (absent o ho)⟩
    exact if_neg (absent o ho)
  | some b =>
    obtain ⟨checked, shown⟩ := State.checkBooking_checks hn byStage hb
    have crane : b.crane = c := own b (List.mem_of_find?_eq_some hb) (State.bookingById_id hb)
    rw [crane, wind] at shown
    rw [crane, hyst, wind] at checked
    refine ⟨checked.trans (List.map_congr_left fun o ho => ?_), fun o ho hid => ?_⟩
    · split
      · next hid => rw [eq_of_bookingById hn hb ho hid]
      · rfl
    · rwa [eq_of_bookingById hn hb ho hid]

/-- Judgements of a crane's bookings one after the other (R154). -/
theorem State.each_checkBooking (byStage : Bool) (ids : List Nat) (hn : (u.bookings.map (·.id)).Nodup)
    (own : ∀ o ∈ u.bookings, o.id ∈ ids → o.crane = c) (wind : u.wind c = x) (hyst : u.hysteresis c = h) :
    (u.each ids (State.checkBooking byStage)).bookings =
        (u.bookings.map fun o => if o.id ∈ ids then o.checked h x else o) ∧
      ∀ o ∈ u.bookings, o.id ∈ ids → o.state = .active → x.suspends o.windLimit = true →
        (u.each ids (State.checkBooking byStage)).event .booking = true := by
  induction ids generalizing u with
  | nil => exact ⟨by simp [State.each], by simp⟩
  | cons id ids ih =>
    obtain ⟨checked, shown⟩ := State.checkBooking_own byStage id hn
      (fun o ho hid => own o ho (hid ▸ List.mem_cons_self)) wind hyst
    have frame := calendarFrame_checkBooking byStage id u
    have rest := State.each_rel CalendarFrame.refl CalendarFrame.trans ids (State.checkBooking byStage)
      (fun id _ s => calendarFrame_checkBooking byStage id s) (u.checkBooking byStage id)
    have names (o : Booking) : (if o.id = id then o.checked h x else o).id = o.id ∧
        (if o.id = id then o.checked h x else o).crane = o.crane := by split <;> simp
    obtain ⟨bookings, event⟩ := ih (u := u.checkBooking byStage id)
      (by rw [checked, map_id_of_checked _ fun o => (names o).1]; exact hn)
      (fun o ho hin => by
        rw [checked] at ho
        obtain ⟨a, ha, rfl⟩ := List.mem_map.1 ho
        rw [(names a).1] at hin
        rw [(names a).2]
        exact own a ha (List.mem_cons_of_mem _ hin))
      (by simp only [State.wind, frame.winds]; exact wind)
      ((State.hysteresis_of_config (configKept_checkBooking byStage id u) c).trans hyst)
    refine ⟨?_, fun o ho hin active suspends => ?_⟩
    · refine bookings.trans ?_
      rw [checked, List.map_map]
      refine List.map_congr_left fun o _ => ?_
      by_cases now : o.id = id <;> by_cases later : o.id ∈ ids <;> simp [now, later, Booking.checked_checked]
    · by_cases now : o.id = id
      · exact rest.flags _ (shown o ho now active suspends)
      · refine event o ?_ ((List.mem_cons.1 hin).resolve_left now) active suspends
        rw [checked]
        exact List.mem_map.2 ⟨o, ho, if_neg now⟩

end

/-- The wind check of a crane (R154). -/
theorem State.checkBookings_checks {s : State} (hn : (s.bookings.map (·.id)).Nodup) (byStage : Bool) (c : CraneId) :
    BookingsChecked c (s.hysteresis c) (s.wind c) s (s.checkBookings byStage c) := by
  have listed (o : Booking) (ho : o ∈ s.bookings) :
      o.id ∈ s.arranged id ((s.bookings.filter fun b => b.crane == c && b.state.runs).map (·.id)) ↔
        o.crane = c ∧ o.state.runs = true := by
    simp only [State.mem_arranged, List.mem_map, List.mem_filter, Bool.and_eq_true, beq_iff_eq]
    refine ⟨fun ⟨a, ⟨ha, runs⟩, e⟩ => ?_, fun runs => ⟨o, ⟨ho, runs⟩, rfl⟩⟩
    rwa [← eq_of_id hn ha ho e]
  obtain ⟨bookings, event⟩ := State.each_checkBooking (u := s.chosen) byStage _ hn
    (fun o ho hin => ((listed o ho).1 hin).1) rfl rfl
  refine ⟨bookings.trans (List.map_congr_left fun o ho => ?_), fun o ho crane active suspends =>
    event o ho ((listed o ho).2 ⟨crane, by rw [active]; rfl⟩) active suspends⟩
  by_cases crane : o.crane = c
  · rw [if_pos crane]
    split
    · rfl
    · next idle =>
      refine (Booking.checked_other ?_).symm
      rw [listed o ho] at idle
      simpa [crane] using idle
  · rw [if_neg crane, if_neg fun hin => crane ((listed o ho).1 hin).1]

/-- Two checks under records that judge alike are one (R154). -/
theorem BookingsChecked.again {c : CraneId} {h : Nat} {x y : Wind} {s t u : State} (k : BookingsChecked c h x s t)
    (l : BookingsChecked c h y t u) (alike : x.JudgesAs y) (flags : t.event .booking = true → u.event .booking = true) :
    BookingsChecked c h x s u where
  bookings := by
    rw [l.bookings, k.bookings, List.map_map]
    refine List.map_congr_left fun o _ => ?_
    by_cases crane : o.crane = c
    · simp [crane, ← alike.checked, Booking.checked_checked]
    · simp [crane]
  event o ho crane active suspends := flags (k.event o ho crane active suspends)

theorem BookingsChecked.congr {c : CraneId} {h : Nat} {x y : Wind} {s s' t t' : State}
    (k : BookingsChecked c h x s t) (alike : x.JudgesAs y) (hs : s'.bookings = s.bookings)
    (ht : t'.bookings = t.bookings) (flags : t.event .booking = true → t'.event .booking = true) :
    BookingsChecked c h y s' t' where
  bookings := by
    rw [ht, hs, k.bookings]
    exact List.map_congr_left fun o _ => by rw [alike.checked]
  event o ho crane active suspends :=
    flags (k.event o (hs ▸ ho) crane active ((alike o.windLimit).1.trans suspends))

end Sys2Proof.Machine

/-! ## Permits through hand-offs and wind checks (R125, R132, R154)

A hand-off or a wind check changes a permit by latches and by the speed factor of an armed crane alone, and
halts none without site event TRIP (`Trips`). -/

namespace Sys2Proof.Machine

/-! ### Permit records -/

/-- A permit record through latches and new speed factors (R125, R132). -/
structure Permit.mayTrip (p q : Permit) : Prop where
  masks : ∀ cause, q.masks cause = p.masks cause
  live : p.state.halts → q.state.halts ∨ q.state = .halted ∧ q.factor = 0
  stands : ¬p.state.halts → q.state = p.state ∧ q.factor = p.factor ∧
    ∀ cause, p.hasLatched cause = true → q.hasLatched cause = true

section

variable {p q r : Permit}

theorem Permit.mayTrip.refl (p : Permit) : p.mayTrip p := ⟨fun _ => rfl, .inl, fun _ => ⟨rfl, rfl, fun _ => id⟩⟩

theorem Permit.mayTrip.trans (h : p.mayTrip q) (k : q.mayTrip r) : p.mayTrip r where
  masks cause := (k.masks cause).trans (h.masks cause)
  live hp := by
    rcases h.live hp with hq | ⟨halted, factor⟩
    · exact k.live hq
    · obtain ⟨state, same, -⟩ := k.stands (by simp [halted, PermitState.halts])
      exact .inr ⟨state.trans halted, same.trans factor⟩
  stands hp := by
    obtain ⟨state, factor, latched⟩ := h.stands hp
    obtain ⟨state', factor', latched'⟩ := k.stands (by rwa [state])
    exact ⟨state'.trans state, factor'.trans factor, fun cause hc => latched' cause (latched cause hc)⟩

theorem Permit.mayTrip.of_mayLatch (h : p.mayLatch q) : p.mayTrip q where
  masks := h.masks
  live hp := (em _).imp_right fun hq => h.halted hp hq
  stands hp := by
    refine ⟨h.state hp, ?_, h.2.1⟩
    obtain ⟨-, -, hs⟩ := h
    cases hst : p.state with
    | offline =>
      rw [hst] at hs
      rw [hs]
    | disarmed => exact absurd (.inl hst) hp
    | running => exact absurd (.inr (.inl hst)) hp
    | derated => exact absurd (.inr (.inr hst)) hp
    | halted | stowing | stowed =>
      rw [hst] at hs
      exact hs.2

theorem Permit.rearmed_armed (h : p.state.armed = true) (x : Stage) : p.rearmed x = p.armAt (p.armedFactor x) :=
  if_pos h

theorem Permit.rearmed_unarmed (h : p.state.armed = false) (x : Stage) : p.rearmed x = p :=
  if_neg (by rw [h]; exact Bool.false_ne_true)

/-- A new speed factor leaves an armed crane armed (R131). -/
theorem Permit.rearmed_halts (hp : p.state.halts) (x : Stage) : (p.rearmed x).state.halts := by
  cases ha : p.state.armed with
  | true =>
    rw [Permit.rearmed_armed ha]
    unfold Permit.armAt
    dsimp only
    split
    · exact .inr (.inl rfl)
    · exact .inr (.inr rfl)
  | false => rwa [Permit.rearmed_unarmed ha]

theorem Permit.mayTrip.rearmed (p : Permit) (x : Stage) : p.mayTrip (p.rearmed x) where
  masks cause := by
    rw [Permit.rearmed_shift]
    cases cause <;> rfl
  live hp := .inl (Permit.rearmed_halts hp x)
  stands hp := by
    have unarmed : p.state.armed = false := by
      cases hs : p.state <;> first | rfl | exact absurd (by simp [hs, PermitState.halts]) hp
    rw [Permit.rearmed_unarmed unarmed]
    exact ⟨rfl, rfl, fun _ => id⟩

/-- The suspension mark and the speed factor that goes with it (R132). -/
theorem Permit.mayTrip.suspend (p : Permit) (mark : Bool) (x : Stage) :
    p.mayTrip (({ p with suspended := mark } : Permit).rearmed x) :=
  .trans (q := { p with suspended := mark }) ⟨fun cause => by cases cause <;> rfl, .inl, fun _ => ⟨rfl, rfl, fun _ => id⟩⟩
    (.rearmed _ x)

/-- Below STOP a stage change gives a new speed factor or nothing (R132). -/
theorem Permit.followStage_below {old new : Stage} (ho : old ≠ .stop) (hn : new ≠ .stop) (p : Permit) :
    p.followStage old new = p.rearmed new ∨ p.followStage old new = p := by
  unfold Permit.followStage
  rw [if_neg hn, if_neg ho]
  split
  · exact .inl rfl
  · exact .inr rfl

end

/-! ### One crane's permit in the site -/

/-- Crane `d`'s permit has gone through latches and speed factors alone, and was not halted unseen. -/
structure Trips (d : CraneId) (s t : State) : Prop where
  permit : ∀ p, s.permit d = some p → ∃ q, t.permit d = some q ∧ p.mayTrip q
  shown : s.haltShown d → t.haltShown d

theorem State.settlesTo_raise (cause : Cause) (c : CraneId) (s : State) : s.settlesTo (s.raise cause c) :=
  ⟨s.choice, [.raise cause c], rfl⟩

theorem State.settlesTo_replacePermit (c : CraneId) (p q : Permit) (s : State) :
    (s.editPermit c fun _ => q).settlesTo (s.replacePermit c p q) := by
  unfold State.replacePermit
  dsimp only
  split
  · exact State.settlesTo_refl _
  · exact State.settlesTo_evaluateClaims c _

namespace Trips

variable {d : CraneId} {s t u : State}

theorem refl (d : CraneId) (s : State) : Trips d s s := ⟨fun p hp => ⟨p, hp, .refl p⟩, id⟩

theorem trans (h : Trips d s t) (k : Trips d t u) : Trips d s u where
  permit p hp := by
    obtain ⟨q, hq, hpq⟩ := h.permit p hp
    obtain ⟨r, hr, hqr⟩ := k.permit q hq
    exact ⟨r, hr, hpq.trans hqr⟩
  shown := k.shown ∘ h.shown

theorem of_settlesTo (h : s.settlesTo t) : Trips d s t where
  permit p hp := by
    obtain ⟨q, hq, hpq⟩ := h.handOffs.permit hp
    exact ⟨q, hq, .of_mayLatch hpq⟩
  shown := h.haltShown

/-- A move that leaves the permits and clears no flag. -/
theorem of_permits (hp : t.permits = s.permits) (flags : s.event .trip = true → t.event .trip = true) :
    Trips d s t where
  permit p h := ⟨p, by simpa only [State.permit, hp] using h, .refl p⟩
  shown := Or.imp (fun ⟨q, hq, live⟩ => ⟨q, by simpa only [State.permit, hp] using hq, live⟩) flags

/-- A permit edit, of the crane itself only by a new speed factor. -/
theorem editPermit {c : CraneId} {p q : Permit} (hp : s.permit c = some p)
    (own : d = c → p.mayTrip q ∧ (p.state.halts → q.state.halts)) : Trips d s (s.editPermit c fun _ => q) := by
  by_cases hd : d = c
  · subst hd
    obtain ⟨trip, live⟩ := own rfl
    have edited : (s.editPermit d fun _ => q).permit d = some q := by simp [hp]
    constructor
    · intro x hx
      obtain rfl : p = x := Option.some.inj (hp.symm.trans hx)
      exact ⟨q, edited, trip⟩
    · refine Or.imp (fun ⟨x, hx, halts⟩ => ⟨q, edited, live ?_⟩) id
      rwa [Option.some.inj (hp.symm.trans hx)]
  · have same := s.editPermit_permit_other (fun _ => q) hd
    exact ⟨fun x hx => ⟨x, same.trans hx, .refl x⟩, Or.imp (fun ⟨x, hx, halts⟩ => ⟨x, same.trans hx, halts⟩) id⟩

theorem refreshSuspension (d c : CraneId) (s : State) : Trips d s (s.refreshSuspension c) := by
  unfold State.refreshSuspension
  split
  · exact .refl d s
  · next p hp =>
    split
    · exact .refl d s
    · refine .trans (.editPermit hp fun _ => ⟨.suspend p _ _, fun halts => ?_⟩)
        (.of_settlesTo (State.settlesTo_replacePermit c p _ s))
      exact Permit.rearmed_halts (p := { p with suspended := s.suspendedBooking c }) halts _

theorem relevelAll (d c : CraneId) (zs : List ZoneId) (s : State) : Trips d s (s.relevelAll c zs) :=
  .of_permits (s.relevelAll_acts c zs).1.permits ((calendarFrame_level.relevelAll c zs s).flags _)

theorem postBooking (d : CraneId) (id : Nat) (old : BookingState) (cause : BookingCause) (s : State) :
    Trips d s (s.postBooking id old cause) := by
  refine .of_permits ?_ ((calendarFrame_site.toZoneMoves.postBooking id old cause s).flags _)
  unfold State.postBooking
  split
  · rfl
  · exact State.post_permits _ _ _

theorem setEvent (d : CraneId) (e : SiteEvent) (s : State) : Trips d s (s.setEvent e) :=
  .of_permits rfl fun h => by simp [State.setEvent_event, h]

theorem swapSuspension (d : CraneId) (id : Nat) (new : BookingState) (cause : BookingCause) (s : State) :
    Trips d s (s.swapSuspension id new cause) := by
  unfold State.swapSuspension
  split
  · exact .refl d s
  · next b _ =>
    have edited : Trips d s (s.editBooking id fun b => { b with state := new }) := .of_permits rfl fun h => h
    refine .trans (((edited.trans (.relevelAll d b.crane b.zones _)).trans (.refreshSuspension d b.crane _)).trans ?_)
      (.postBooking d id b.state cause _)
    unfold State.suspensionEvent
    split
    · exact .setEvent d _ _
    · exact .refl d _

theorem checkBooking (d : CraneId) (byStage : Bool) (id : Nat) (s : State) : Trips d s (s.checkBooking byStage id) := by
  unfold State.checkBooking
  split
  · exact .refl d s
  · dsimp only
    split
    · split
      · exact .swapSuspension d _ _ _ s
      · exact .refl d s
    · split
      · exact .swapSuspension d _ _ _ s
      · exact .refl d s
    all_goals exact .refl d s

theorem checkBookings (d : CraneId) (byStage : Bool) (c : CraneId) (s : State) :
    Trips d s (s.checkBookings byStage c) :=
  .trans (t := s.chosen) (.of_permits rfl fun h => h)
    (State.each_rel (.refl d) .trans _ _ (fun id _ u => .checkBooking d byStage id u) s.chosen)

end Trips

end Sys2Proof.Machine

/-! ## Stages and governing figures of one crane (R98, R100, R106 to R108, R111)

Ascent, blind floor and descent test are each one `Figured` step, and so is the whole figure
(`State.takeFigure_figured`): the stage of `Wind.risen`, with a wind check of the crane's bookings where it is
new. -/

namespace Sys2Proof.Machine

theorem configKept_of_handOffs {s t : State} (h : HandOffs s t) : ConfigKept s t := fun c => by
  cases hp : s.permit c with
  | none =>
    have same := h.permits c
    rw [hp] at same
    cases ht : t.permit c with
    | none => rfl
    | some q =>
      rw [ht] at same
      exact same.elim
  | some p =>
    obtain ⟨q, hq, hpq⟩ := h.permit hp
    rw [hq, Option.map_some, Option.map_some, hpq.config]

theorem ConfigKept.refl (s : State) : ConfigKept s s := fun _ => rfl

theorem ConfigKept.trans {s t u : State} (h : ConfigKept s t) (k : ConfigKept t u) : ConfigKept s u :=
  fun c => (k c).trans (h c)

theorem State.wind_of_winds {s t : State} (h : t.winds = s.winds) (c : CraneId) : t.wind c = s.wind c := by
  simp only [State.wind, h]

/-! ### A stage change (R111) -/

theorem State.announceStage_winds (s : State) (c : CraneId) (old new : Stage) (cause : StageCause) :
    (s.announceStage c old new cause).winds = (s.editWind c fun w => { w with stage := new }).winds := by
  unfold State.announceStage
  simp only [State.post_winds]
  split <;> rfl

theorem State.announceStage_bookings (s : State) (c : CraneId) (old new : Stage) (cause : StageCause) :
    (s.announceStage c old new cause).bookings = s.bookings := by
  unfold State.announceStage
  simp only [State.post_bookings]
  split <;> rfl

/-- The Permit Unit follows a stage change by one edit and by what settles behind it (R111 stage 4). -/
theorem State.tellPermit_settles {s : State} {c : CraneId} {p : Permit} (old new : Stage) (hp : s.permit c = some p) :
    ∃ u, (s.editPermit c fun _ => p.followStage old new).settlesTo u ∧ u.settlesTo (s.tellPermit c old new) := by
  unfold State.tellPermit
  rw [hp]
  dsimp only
  refine ⟨_, State.settlesTo_replacePermit c p _ s, ?_⟩
  split
  · exact State.settlesTo_raise _ _ _
  · exact State.settlesTo_refl _

/-- Behind the first four stages of R111: the stage and nothing else of the wind records, and no booking. -/
structure StageTold (c : CraneId) (new : Stage) (s v : State) : Prop where
  winds : v.winds = (s.editWind c fun w => { w with stage := new }).winds
  bookings : v.bookings = s.bookings
  config : ConfigKept s v
  trips : ∀ d, d ≠ c ∨ ((s.wind c).stage ≠ .stop ∧ new ≠ .stop) → Trips d s v

theorem State.changeStage_told {s : State} {c : CraneId} {p : Permit} {new : Stage} (cause : StageCause)
    (hp : s.permit c = some p) (hn : (s.wind c).stage ≠ new) :
    ∃ v, StageTold c new s v ∧ s.changeStage c (s.wind c).stage new cause = v.checkBookings true c := by
  refine ⟨_, ?_, rfl⟩
  have permits := s.announceStage_permits c (s.wind c).stage new cause
  have record : (s.announceStage c (s.wind c).stage new cause).permit c = some p := by
    simpa only [State.permit, permits] using hp
  obtain ⟨u, follows, settles⟩ := State.tellPermit_settles (s.wind c).stage new record
  have handOffs := follows.handOffs.trans settles.handOffs
  have announced (d : CraneId) : Trips d s (s.announceStage c (s.wind c).stage new cause) :=
    .of_permits permits ((windFrame_wind.stage s c p new cause hp hn).flags _)
  refine ⟨handOffs.winds.trans (s.announceStage_winds c _ new cause),
    handOffs.bookings.trans (s.announceStage_bookings c _ new cause),
    .trans (configKept_of_permits permits) (.trans (configKept_edit record rfl (p.followStage_config _ _))
      (configKept_of_handOffs handOffs)), fun d hd => ?_⟩
  refine (announced d).trans (.trans (.editPermit record fun own => ?_)
    ((Trips.of_settlesTo follows).trans (.of_settlesTo settles)))
  obtain ⟨ho, hnew⟩ := hd.resolve_left fun other => other own
  rcases p.followStage_below ho hnew with same | same <;> rw [same]
  · exact ⟨.rearmed p new, fun halts => Permit.rearmed_halts halts new⟩
  · exact ⟨.refl p, id⟩

/-! ### A figure taken (R106 to R108) -/

theorem Stage.rank_injective {a b : Stage} (h : a.rank = b.rank) : a = b := by
  cases a <;> cases b <;> first | rfl | cases h

/-- Crane `c`'s stage has become or stayed `st`, its bookings checked where it is new. -/
structure Figured (c : CraneId) (st : Stage) (s t : State) : Prop where
  frame : WindFrame s t
  config : ConfigKept s t
  others : ∀ d, d ≠ c → t.wind d = s.wind d
  own : ∃ x, t.wind c = { s.wind c with stage := st, holdTimer := x }
  rises : (s.wind c).stage.rank ≤ st.rank
  same : st = (s.wind c).stage → t.bookings = s.bookings
  checked : st ≠ (s.wind c).stage → (s.bookings.map (·.id)).Nodup →
    BookingsChecked c (s.hysteresis c) { s.wind c with stage := st } s t

theorem WindFrame.ids {s t : State} (h : WindFrame s t) : t.bookings.map (·.id) = s.bookings.map (·.id) := by
  have := congrArg (List.map (·.id)) h.bookings
  simpa [Function.comp_def] using this

theorem Figured.refl (c : CraneId) (s : State) : Figured c (s.wind c).stage s s :=
  ⟨.refl s, .refl s, fun _ _ => rfl, ⟨_, rfl⟩, le_rfl, fun _ => rfl, fun h => absurd rfl h⟩

/-- A second rise, which only a blind crane can have, makes the two checks one. -/
theorem Figured.trans {c : CraneId} {a b : Stage} {s t u : State} (h : Figured c a s t) (k : Figured c b t u)
    (hb : (s.wind c).blind = true ∨ b = a) : Figured c b s u := by
  obtain ⟨x, own⟩ := h.own
  obtain ⟨y, own'⟩ := k.own
  have stage : (t.wind c).stage = a := by rw [own]
  have mid := k.rises
  rw [stage] at mid
  have settled (e : b = (s.wind c).stage) : a = (s.wind c).stage :=
    Stage.rank_injective (le_antisymm (e ▸ mid) h.rises)
  have hyst := State.hysteresis_of_config h.config c
  refine ⟨h.frame.trans k.frame, h.config.trans k.config, fun d hd => (k.others d hd).trans (h.others d hd),
    ⟨y, by rw [own', own]⟩, h.rises.trans mid, fun e => ?_, fun e hn => ?_⟩
  · exact (k.same (by rw [stage, settled e, e])).trans (h.same (settled e))
  · have alike : ({ t.wind c with stage := b } : Wind).JudgesAs { s.wind c with stage := b } := by
      rw [own]
      exact Wind.judgesAs_of_same rfl rfl rfl
    by_cases first : a = (s.wind c).stage
    · have second : b ≠ (t.wind c).stage := by rwa [stage, first]
      have checked := k.checked second (h.frame.ids ▸ hn)
      rw [hyst] at checked
      exact checked.congr alike (h.same first).symm rfl id
    · have checked := h.checked first hn
      by_cases second : b = a
      · rw [second]
        exact checked.congr (Wind.judgesAs_of_same rfl rfl rfl) rfl (k.same (by rw [stage, second])) (k.frame.flags _)
      · have blind := hb.resolve_right second
        have again := k.checked (by rwa [stage]) (h.frame.ids ▸ hn)
        rw [hyst] at again
        refine (checked.again again (Wind.judgesAs_of_blind blind ?_) (k.frame.flags _)).congr
          (Wind.judgesAs_of_blind blind blind) rfl rfl id
        rw [own]
        exact blind

theorem Figured.setHold (c : CraneId) (t : Timer) (s : State) : Figured c (s.wind c).stage s (s.setHold c t) :=
  ⟨windFrame_wind.hold s c t, configKept_wind.hold s c t, fun _ hd => State.editWind_wind_other s _ hd,
    ⟨t, State.editWind_wind_same s c _⟩, le_rfl, fun _ => rfl, fun h => absurd rfl h⟩

theorem State.setHold_wind_same (c : CraneId) (t : Timer) (s : State) :
    (s.setHold c t).wind c = { s.wind c with holdTimer := t } := State.editWind_wind_same s c _

/-- A rise is a stage change behind the stop of the hold timer (R106). -/
theorem State.riseTo_told {s : State} {c : CraneId} {p : Permit} {new : Stage} (cause : StageCause)
    (hp : s.permit c = some p) (hn : (s.wind c).stage.rank < new.rank) :
    ∃ v, StageTold c new (s.setHold c none) v ∧ s.riseTo c new cause = v.checkBookings true c := by
  have stage : ((s.setHold c none).wind c).stage = (s.wind c).stage := by rw [State.setHold_wind_same]
  obtain ⟨v, told, rise⟩ := State.changeStage_told (s := s.setHold c none) cause hp
    (by rw [stage]; exact WindMoves.rank_ne hn)
  rw [stage] at rise
  exact ⟨v, told, rise⟩

theorem State.riseTo_figured {s : State} {c : CraneId} {p : Permit} {new : Stage} (cause : StageCause)
    (hp : s.permit c = some p) (hn : (s.wind c).stage.rank < new.rank) : Figured c new s (s.riseTo c new cause) := by
  have ne : (s.wind c).stage ≠ new := WindMoves.rank_ne hn
  have frame := windFrame_wind.riseTo c p new cause s hp ne
  have config := configKept_wind.riseTo c p new cause s hp ne
  obtain ⟨v, told, rise⟩ := State.riseTo_told cause hp hn
  rw [rise] at frame config ⊢
  have wind (d : CraneId) : (v.checkBookings true c).wind d =
      if d = c then { (s.setHold c none).wind d with stage := new } else (s.setHold c none).wind d := by
    rw [State.wind_of_winds ((calendarFrame_checkBookings true c v).winds.trans told.winds), State.editWind_wind]
  refine ⟨frame, config, fun d hd => ?_, ⟨none, ?_⟩, hn.le, fun e => absurd e.symm ne, fun _ nodup => ?_⟩
  · rw [wind, if_neg hd]
    exact State.editWind_wind_other s _ hd
  · rw [wind, if_pos rfl, State.setHold_wind_same]
  · have checked := State.checkBookings_checks (s := v) (told.bookings ▸ nodup) true c
    rw [State.hysteresis_of_config told.config c] at checked
    refine checked.congr ?_ told.bookings.symm rfl id
    rw [State.wind_of_winds told.winds, State.editWind_wind_same, State.setHold_wind_same]
    exact Wind.judgesAs_of_same rfl rfl rfl

/-- The stage behind the ascent (R106). -/
def Wind.ascended (g : CraneConfig) (w : Wind) : Stage :=
  if w.stage.rank < (candidate g w.gust w.mean).1.rank then (candidate g w.gust w.mean).1 else w.stage

/-- The stage behind ascent and blind floor (R106, R107). -/
def Wind.risen (g : CraneConfig) (w : Wind) : Stage :=
  if w.blind && (w.ascended g).rank < Stage.restrict.rank then .restrict else w.ascended g

theorem Wind.risen_of_seen (g : CraneConfig) {w : Wind} (h : w.blind = false) : w.risen g = w.ascended g := by
  simp [Wind.risen, h]

theorem Wind.ascended_rank (g : CraneConfig) (w : Wind) :
    (candidate g w.gust w.mean).1.rank ≤ (w.ascended g).rank := by
  unfold Wind.ascended
  split
  · exact le_rfl
  · next h => exact Nat.not_lt.1 h

theorem Wind.risen_rank (g : CraneConfig) (w : Wind) : (w.ascended g).rank ≤ (w.risen g).rank := by
  unfold Wind.risen
  split
  · next h =>
    rw [Bool.and_eq_true, decide_eq_true_eq] at h
    exact h.2.le
  · exact le_rfl

/-- A blind crane is in RESTRICT or above (R107). -/
theorem Wind.risen_of_blind (g : CraneConfig) {w : Wind} (h : w.blind = true) : 2 ≤ (w.risen g).rank := by
  unfold Wind.risen
  simp only [h, Bool.true_and, decide_eq_true_eq]
  split
  · exact le_rfl
  · next above => exact Nat.not_lt.1 above

theorem State.ascend_figured {s : State} {c : CraneId} {p : Permit} (hp : s.permit c = some p) :
    Figured c ((s.wind c).ascended p.config) s (s.ascend c p.config) := by
  unfold State.ascend Wind.ascended
  dsimp only
  split
  · next above => exact State.riseTo_figured _ hp above
  · exact .refl c s

theorem State.blindFloor_figured {s : State} {c : CraneId} {p : Permit} (hp : s.permit c = some p) :
    Figured c (if (s.wind c).blind && (s.wind c).stage.rank < Stage.restrict.rank then .restrict
      else (s.wind c).stage) s (s.blindFloor c) := by
  unfold State.blindFloor
  split
  · next below =>
    rw [Bool.and_eq_true, decide_eq_true_eq] at below
    exact State.riseTo_figured _ hp below.2
  · exact .refl c s

theorem State.testDescent_figured (g : CraneConfig) (c : CraneId) (s : State) :
    Figured c (s.wind c).stage s (s.editWind c (Wind.testDescent g)) := by
  rw [State.editWind_congr (g := fun w => { w with holdTimer := ((s.wind c).testDescent g).holdTimer })
    (Wind.testDescent_eq g _)]
  exact .setHold c _ s

/-- A new governing figure taken (R106 to R108). -/
theorem State.takeFigure_figured {s : State} {c : CraneId} {p : Permit} (hp : s.permit c = some p) :
    Figured c ((s.wind c).risen p.config) s (s.takeFigure c p.config) := by
  have up := State.ascend_figured hp
  obtain ⟨q, hq, -⟩ := up.config.some hp
  obtain ⟨x, own⟩ := up.own
  have floor := State.blindFloor_figured hq
  rw [own] at floor
  have both : Figured c ((s.wind c).risen p.config) s ((s.ascend c p.config).blindFloor c) := by
    refine up.trans floor ?_
    cases hb : (s.wind c).blind with
    | true => exact .inl rfl
    | false => exact .inr (Wind.risen_of_seen _ hb)
  obtain ⟨y, own'⟩ := both.own
  have test := State.testDescent_figured p.config c ((s.ascend c p.config).blindFloor c)
  rw [own'] at test
  exact both.trans test (.inr rfl)

/-! ### The governing evaluation of a crane (R98, R100) -/

/-- The governing items that an evaluation of crane `c` draws, and the stage that follows from them. -/
def State.drawn (c : CraneId) (g : CraneConfig) (s : State) : Wind :=
  { s.governed c g with stage := (s.governed c g).risen g }

/-- The evaluation changes what bookings are judged by: gust, blind flag or stage (R100, R111, R154). -/
def State.redrawn (c : CraneId) (g : CraneConfig) (s : State) : Prop :=
  (s.wind c).gust ≠ (s.drawn c g).gust ∨ (s.wind c).blind ≠ (s.drawn c g).blind ∨
    (s.wind c).stage ≠ (s.drawn c g).stage

theorem State.governed_stage (c : CraneId) (g : CraneConfig) (s : State) :
    (s.governed c g).stage = (s.wind c).stage := by
  unfold State.governed
  dsimp only
  split
  · rfl
  · split
    · rfl
    · split <;> rfl

/-- A blind crane has no governing figure (R98). -/
theorem State.governed_blind {c : CraneId} {g : CraneConfig} {s : State} (h : (s.governed c g).blind = true) :
    (s.governed c g).gust = none ∧ (s.governed c g).mean = none := by
  unfold State.governed at h ⊢
  dsimp only at h ⊢
  split
  · next live =>
    rw [if_pos live] at h
    cases h
  · next silent =>
    rw [if_neg silent] at h
    split at h <;> [exact ⟨rfl, rfl⟩; skip]
    split at h
    · cases h
    · next dead => simp [dead]

theorem State.setGoverning_settles (c : CraneId) (p : Permit) (s : State) :
    (s.editWind c fun _ => s.governed c p.config).settlesTo (s.setGoverning c p) := by
  unfold State.setGoverning
  dsimp only
  split
  · exact State.settlesTo_raise _ _ _
  · exact State.settlesTo_refl _

theorem State.setGoverning_wind (c : CraneId) (p : Permit) (s : State) (d : CraneId) :
    (s.setGoverning c p).wind d = if d = c then s.governed c p.config else s.wind d := by
  rw [State.wind_of_winds (s.setGoverning_settles c p).handOffs.winds, State.editWind_wind]

/-- What a governing evaluation of crane `c` leaves (R98, R100). -/
structure Evaluated (c : CraneId) (g : CraneConfig) (s t : State) : Prop where
  frame : WindFrame s t
  others : ∀ d, d ≠ c → t.wind d = s.wind d
  own : ∃ x, t.wind c = { s.drawn c g with holdTimer := x }
  same : ¬s.redrawn c g → t.bookings = s.bookings
  checked : s.redrawn c g → (s.bookings.map (·.id)).Nodup →
    BookingsChecked c (s.hysteresis c) (s.drawn c g) s t

/-- The figures set and taken, before the last two stages of R100: checked where the stage is new. -/
structure Staged (c : CraneId) (g : CraneConfig) (s u : State) : Prop where
  config : ConfigKept s u
  ids : u.bookings.map (·.id) = s.bookings.map (·.id)
  others : ∀ d, d ≠ c → u.wind d = s.wind d
  own : ∃ x, u.wind c = { s.drawn c g with holdTimer := x }
  same : (s.drawn c g).stage = (s.wind c).stage → u.bookings = s.bookings
  checked : (s.drawn c g).stage ≠ (s.wind c).stage → (s.bookings.map (·.id)).Nodup →
    BookingsChecked c (s.hysteresis c) (s.drawn c g) s u

theorem State.setGoverning_staged {s : State} {c : CraneId} {p : Permit} (hp : s.permit c = some p) :
    Staged c p.config s ((s.setGoverning c p).takeFigure c p.config) := by
  have bookings : (s.setGoverning c p).bookings = s.bookings := (s.setGoverning_settles c p).handOffs.bookings
  have config : ConfigKept s (s.setGoverning c p) := configKept_wind.setGoverning c p s hp
  have wind : (s.setGoverning c p).wind c = s.governed c p.config := by rw [State.setGoverning_wind, if_pos rfl]
  obtain ⟨q, hq, same⟩ := config.some hp
  have figured := State.takeFigure_figured hq
  rw [same, wind] at figured
  have old : ((s.setGoverning c p).wind c).stage = (s.wind c).stage := by rw [wind, State.governed_stage]
  obtain ⟨x, own⟩ := figured.own
  refine ⟨config.trans figured.config, figured.frame.ids.trans (by rw [bookings]), fun d hd => ?_,
    ⟨x, by rw [own, wind]; rfl⟩, fun h => (figured.same (by rw [old]; exact h)).trans bookings, fun h hn => ?_⟩
  · rw [figured.others d hd, State.setGoverning_wind, if_neg hd]
  · have checked := figured.checked (by rw [old]; exact h) (bookings ▸ hn)
    rw [State.hysteresis_of_config config, wind] at checked
    exact checked.congr (Wind.judgesAs_of_same rfl rfl rfl) bookings.symm rfl id

/-- A changed figure: recomputation, and the wind check of the crane's bookings (R100 stages 4 and 5). -/
theorem Staged.evaluated {c : CraneId} {g : CraneConfig} {s u : State} (h : Staged c g s u)
    (frame : WindFrame s ((u.recompute c).checkBookings false c)) (redrawn : s.redrawn c g) :
    Evaluated c g s ((u.recompute c).checkBookings false c) := by
  have recomputed := handOffs_recompute c u
  have after := calendarFrame_checkBookings false c (u.recompute c)
  have wind (d : CraneId) : ((u.recompute c).checkBookings false c).wind d = u.wind d :=
    State.wind_of_winds (after.winds.trans recomputed.winds) d
  obtain ⟨x, own⟩ := h.own
  refine ⟨frame, fun d hd => (wind d).trans (h.others d hd), ⟨x, (wind c).trans own⟩,
    fun no => absurd redrawn no, fun _ hn => ?_⟩
  have nodup : ((u.recompute c).bookings.map (·.id)).Nodup := by
    rw [recomputed.bookings, h.ids]
    exact hn
  have checked := State.checkBookings_checks nodup false c
  rw [State.hysteresis_of_config (h.config.trans (configKept_of_handOffs recomputed)),
    State.wind_of_winds recomputed.winds, own] at checked
  have last : BookingsChecked c (s.hysteresis c) (s.drawn c g) u _ :=
    checked.congr (Wind.judgesAs_of_same rfl rfl rfl) recomputed.bookings.symm rfl id
  have alike : (s.drawn c g).JudgesAs (s.drawn c g) := Wind.judgesAs_of_same rfl rfl rfl
  by_cases rise : (s.drawn c g).stage = (s.wind c).stage
  · exact last.congr alike (h.same rise).symm rfl id
  · exact (h.checked rise hn).again last alike fun shown => after.flags _ (recomputed.flags _ shown)

theorem State.govern_evaluated {s : State} {c : CraneId} {p : Permit} (hp : s.permit c = some p) :
    Evaluated c p.config s (s.govern c) := by
  have staged := State.setGoverning_staged hp
  have frame : WindFrame s (s.govern c) := windFrame_wind.governAll c s
  unfold State.govern at frame ⊢
  rw [hp] at frame ⊢
  dsimp only at frame ⊢
  split at frame
  · next changed =>
    rw [if_pos changed]
    rw [Bool.or_eq_true, bne_iff_ne, bne_iff_ne] at changed
    exact staged.evaluated frame (changed.imp_right .inl)
  · next changed =>
    rw [if_neg changed]
    rw [Bool.not_eq_true, Bool.or_eq_false_iff, bne_eq_false_iff_eq, bne_eq_false_iff_eq] at changed
    obtain ⟨gust, blind⟩ := changed
    refine ⟨frame, staged.others, staged.own, fun h => staged.same ?_, fun h => staged.checked ?_⟩
    · by_contra rise
      exact h (.inr (.inr (Ne.symm rise)))
    · exact Ne.symm ((h.resolve_left fun differs => differs gust).resolve_left fun differs => differs blind)

/-! ### Its permits (R100 stage 2, R107) -/

theorem State.governed_unrisen {c : CraneId} {g : CraneConfig} {s : State} (h : (s.governed c g).blind = true) :
    (candidate g (s.governed c g).gust (s.governed c g).mean).1 = .calm := by
  obtain ⟨gust, mean⟩ := State.governed_blind h
  rw [gust, mean]
  rfl

/-- A rise trips no other crane unseen, and below STOP not its own either. -/
theorem State.riseTo_trips {s : State} {c d : CraneId} {p : Permit} {new : Stage} (cause : StageCause)
    (hp : s.permit c = some p) (hn : (s.wind c).stage.rank < new.rank)
    (hd : d ≠ c ∨ ((s.wind c).stage ≠ .stop ∧ new ≠ .stop)) : Trips d s (s.riseTo c new cause) := by
  obtain ⟨v, told, rise⟩ := State.riseTo_told cause hp hn
  rw [rise]
  refine .trans (.trans (t := s.setHold c none) (.of_permits rfl fun h => h) (told.trips d ?_)) (.checkBookings d true c v)
  rwa [State.setHold_wind_same]

theorem State.takeFigure_trips {s : State} {c d : CraneId} {p : Permit} (hp : s.permit c = some p)
    (hd : d ≠ c ∨ ((s.wind c).blind = true ∧ (candidate p.config (s.wind c).gust (s.wind c).mean).1 = .calm)) :
    Trips d s (s.takeFigure c p.config) := by
  have up : Trips d s (s.ascend c p.config) ∧ (d ≠ c ∨ (s.ascend c p.config).wind c = s.wind c) := by
    unfold State.ascend
    dsimp only
    split
    · next above =>
      have other : d ≠ c := hd.resolve_right fun ⟨_, calm⟩ => by
        rw [calm] at above
        exact absurd above (Nat.not_lt_zero _)
      exact ⟨State.riseTo_trips _ hp above (.inl other), .inl other⟩
    · exact ⟨.refl d s, .inr rfl⟩
  obtain ⟨trips, stays⟩ := up
  obtain ⟨q, hq, -⟩ := (configKept_wind.ascend c p s hp).some hp
  refine .trans (t := (s.ascend c p.config).blindFloor c) (trips.trans ?_) (.of_permits rfl fun h => h)
  unfold State.blindFloor
  split
  · next below =>
    rw [Bool.and_eq_true, decide_eq_true_eq] at below
    refine State.riseTo_trips _ hq below.2 (.inr ⟨fun stop => ?_, Stage.noConfusion⟩)
    rw [stop] at below
    exact absurd below.2 (by decide)
  · exact .refl d _

theorem State.govern_trips {s : State} {c d : CraneId} {p : Permit} (hp : s.permit c = some p)
    (hd : d ≠ c ∨ (s.governed c p.config).blind = true) :
    Trips d (s.setGoverning c p) (s.govern c) := by
  have config : ConfigKept s (s.setGoverning c p) := configKept_wind.setGoverning c p s hp
  obtain ⟨q, hq, same⟩ := config.some hp
  have taken : Trips d (s.setGoverning c p) ((s.setGoverning c p).takeFigure c p.config) := by
    have := State.takeFigure_trips (d := d) hq
    rw [same, State.setGoverning_wind, if_pos rfl] at this
    exact this (hd.imp_right fun blind => ⟨blind, State.governed_unrisen blind⟩)
  unfold State.govern
  rw [hp]
  dsimp only
  split
  · exact (taken.trans (.of_settlesTo (State.settlesTo_recompute c _))).trans (.checkBookings d false c _)
  · exact taken

theorem State.setGoverning_trips (d c : CraneId) (p : Permit) (s : State) : Trips d s (s.setGoverning c p) :=
  .trans (t := s.editWind c fun _ => s.governed c p.config) (.of_permits rfl fun h => h)
    (.of_settlesTo (s.setGoverning_settles c p))

/-- A registered crane that becomes blind has SENSOR_LOSS caught where it is not masked (R100 stage 2, R125). -/
theorem State.govern_caught {s : State} {c : CraneId} {p : Permit} (hp : s.permit c = some p)
    (seen : (s.wind c).blind = false) (blind : (s.governed c p.config).blind = true) (registered : p.state ≠ .offline)
    (unmasked : p.masks .sensorLoss = false) : (s.govern c).caught .sensorLoss c := by
  have raised : s.setGoverning c p = (s.editWind c fun _ => s.governed c p.config).raise .sensorLoss c := by
    unfold State.setGoverning
    exact if_pos (by rw [seen, blind]; rfl)
  obtain ⟨q, hq, latched, stopped⟩ : (s.setGoverning c p).caught .sensorLoss c := by
    rw [raised]
    exact State.raise_caught hp registered unmasked
  obtain ⟨r, hr, trip⟩ := (State.govern_trips hp (.inr blind)).permit q hq
  obtain ⟨state, -, kept⟩ := trip.stands stopped
  exact ⟨r, hr, kept _ latched, by rwa [state]⟩

end Sys2Proof.Machine

/-! ## The cranes of a channel (R99)

Each crane that a channel governs is evaluated once, and what stands of a crane while others are evaluated is
`Beside`; so a crane's outcome is that of its own evaluation (`State.governChannel_own`). -/

namespace Sys2Proof.Machine

/-- What stands of crane `d` while other cranes are evaluated. -/
structure Beside (d : CraneId) (s t : State) : Prop where
  frame : WindFrame s t
  wind : t.wind d = s.wind d
  trips : Trips d s t
  bookings : (s.bookings.map (·.id)).Nodup → ∀ b ∈ s.bookings, b.crane = d → b ∈ t.bookings

theorem Beside.refl (d : CraneId) (s : State) : Beside d s s := ⟨.refl s, rfl, .refl d s, fun _ _ h _ => h⟩

theorem Beside.trans {d : CraneId} {s t u : State} (h : Beside d s t) (k : Beside d t u) : Beside d s u :=
  ⟨h.frame.trans k.frame, k.wind.trans h.wind, h.trips.trans k.trips, fun hn b hb hd =>
    k.bookings (h.frame.ids ▸ hn) b (h.bookings hn b hb hd) hd⟩

/-- A booking of another crane stands through an evaluation. -/
theorem Evaluated.mem_other {c : CraneId} {g : CraneConfig} {s t : State} (h : Evaluated c g s t)
    (hn : (s.bookings.map (·.id)).Nodup) {b : Booking} (hb : b ∈ s.bookings) (hc : b.crane ≠ c) : b ∈ t.bookings := by
  by_cases redrawn : s.redrawn c g
  · rw [(h.checked redrawn hn).bookings]
    exact List.mem_map.2 ⟨b, hb, if_neg hc⟩
  · rwa [h.same redrawn]

theorem State.govern_of_bare {s : State} {c : CraneId} (h : s.permit c = none) : s.govern c = s := by
  unfold State.govern
  rw [h]

theorem State.govern_beside (s : State) {c d : CraneId} (hd : d ≠ c) : Beside d s (s.govern c) := by
  cases hp : s.permit c with
  | none =>
    rw [State.govern_of_bare hp]
    exact .refl d s
  | some p =>
    have evaluated := State.govern_evaluated hp
    refine ⟨evaluated.frame, evaluated.others d hd, (s.setGoverning_trips d c p).trans (State.govern_trips hp (.inl hd)),
      fun hn b hb hb' => evaluated.mem_other hn hb (hb' ▸ hd)⟩

theorem Beside.each {d : CraneId} (cs : List CraneId) (hd : d ∉ cs) (s : State) :
    Beside d s (s.each cs State.govern) :=
  State.each_rel (.refl d) .trans cs State.govern
    (fun _ hc u => u.govern_beside fun e => hd (e ▸ hc)) s

theorem Beside.chosen (d : CraneId) (s : State) : Beside d s s.chosen :=
  ⟨windFrame_wind.chosen s, rfl, .of_permits rfl fun h => h, fun _ _ h _ => h⟩

theorem State.mem_cranesOn {s : State} {k : ChannelId} {c : CraneId} :
    c ∈ s.cranesOn k ↔ ∃ p, s.permit c = some p ∧ (p.config.primary = k ∨ p.config.fallback = some k) := by
  unfold State.cranesOn
  cases hp : s.permit c <;> simp [allCranes, hp]

theorem State.cranesOn_nodup (s : State) (k : ChannelId) : (s.cranesOn k).Nodup :=
  (List.nodup_finRange 6).filter _

/-- A crane that the channel does not govern stands. -/
theorem State.governChannel_beside {s : State} {k : ChannelId} {d : CraneId} (h : d ∉ s.cranesOn k) :
    Beside d s (s.governChannel k) :=
  (Beside.chosen d s).trans (.each _ (fun hd => h ((State.mem_arranged _ _ _ _).1 hd)) s.chosen)

/-- A crane that the channel governs: its own evaluation, behind that of others and before that of others. -/
theorem State.governChannel_own {s : State} {k : ChannelId} {c : CraneId} (h : c ∈ s.cranesOn k) :
    ∃ u, Beside c s u ∧ Beside c (u.govern c) (s.governChannel k) := by
  obtain ⟨before, after, order⟩ := List.append_of_mem ((State.mem_arranged Fin.val _ s c).2 h)
  have nodup : (before ++ c :: after).Nodup :=
    order ▸ (State.arranged_perm Fin.val _ s).nodup_iff.2 (s.cranesOn_nodup k)
  obtain ⟨-, last, apart⟩ := List.nodup_append.1 nodup
  have split : s.governChannel k =
      ((s.chosen.each before State.govern).govern c).each after State.govern := by
    unfold State.governChannel State.eachOpen
    rw [order]
    exact List.foldl_append ..
  refine ⟨s.chosen.each before State.govern,
    (Beside.chosen c s).trans (.each before (fun hc => apart c hc c List.mem_cons_self rfl) _), ?_⟩
  rw [split]
  exact .each after (List.nodup_cons.1 last).1 _

/-! ### What a crane's own evaluation shows behind the channel's -/

theorem WindFrame.permit {s t : State} (h : WindFrame s t) {c : CraneId} {p : Permit} (hp : s.permit c = some p) :
    ∃ q, t.permit c = some q ∧ q.config = p.config := by
  have follows := h.permits c
  rw [hp] at follows
  cases hq : t.permit c with
  | none =>
    rw [hq] at follows
    exact follows.elim
  | some q =>
    rw [hq] at follows
    exact ⟨q, rfl, by rw [show q = _ from follows]⟩

theorem State.governed_congr {s u : State} (c : CraneId) (g : CraneConfig) (channels : u.channels = s.channels)
    (wind : u.wind c = s.wind c) : u.governed c g = s.governed c g := by
  have channel (k : ChannelId) : u.channel k = s.channel k := by simp only [State.channel, channels]
  unfold State.governed
  dsimp only
  rw [wind, channel]
  cases g.fallback with
  | none => rfl
  | some f => simp only [channel]

/-- Crane `c`, configured with `g`, as the evaluation of its channel leaves it: the items drawn from the
channels, and its bookings checked by them where they have changed. -/
structure Governs (c : CraneId) (g : CraneConfig) (s t : State) : Prop where
  own : ∃ x, t.wind c = { s.drawn c g with holdTimer := x }
  bookings : (s.bookings.map (·.id)).Nodup → ∀ b ∈ s.bookings, b.crane = c → ∃ b', t.bookingById b.id = some b' ∧
    (s.redrawn c g → BookingChecked g.hysteresis (t.wind c) (t.event .booking) b b') ∧
    (¬s.redrawn c g → b' = b)

section

variable {s : State} {k : ChannelId} {c : CraneId} {p : Permit}

theorem State.governChannel_governs (hp : s.permit c = some p)
    (on : p.config.primary = k ∨ p.config.fallback = some k) : Governs c p.config s (s.governChannel k) := by
  obtain ⟨u, before, after⟩ := State.governChannel_own (State.mem_cranesOn.2 ⟨p, hp, on⟩)
  obtain ⟨q, hq, config⟩ := before.frame.permit hp
  have evaluated := State.govern_evaluated hq
  have drawn : u.drawn c q.config = s.drawn c p.config := by
    unfold State.drawn
    rw [config, State.governed_congr c p.config before.frame.channels before.wind]
  have redrawn : u.redrawn c q.config ↔ s.redrawn c p.config := by
    unfold State.redrawn
    rw [drawn, before.wind]
  obtain ⟨x, own⟩ := evaluated.own
  rw [drawn, ← after.wind] at own
  refine ⟨⟨x, own⟩, fun hn b hb hc => ?_⟩
  have nodup : (u.bookings.map (·.id)).Nodup := before.frame.ids ▸ hn
  have mem : b ∈ u.bookings := before.bookings hn b hb hc
  have found {b' : Booking} (hb' : b' ∈ (u.govern c).bookings) (hc' : b'.crane = c) (id : b'.id = b.id) :
      (s.governChannel k).bookingById b.id = some b' := by
    have nodup' : ((u.govern c).bookings.map (·.id)).Nodup := evaluated.frame.ids ▸ nodup
    rw [← id]
    exact State.bookingById_of_mem (after.frame.ids ▸ nodup') (after.bookings nodup' b' hb' hc')
  by_cases change : s.redrawn c p.config
  · have checked := evaluated.checked (redrawn.2 change) nodup
    have hyst : u.hysteresis c = p.config.hysteresis := by
      unfold State.hysteresis
      rw [hq, ← config]
    rw [hyst, drawn] at checked
    refine ⟨b.checked p.config.hysteresis (s.drawn c p.config), found ?_ ?_ ?_, fun _ => ?_,
      fun same => absurd change same⟩
    · rw [checked.bookings]
      exact List.mem_map.2 ⟨b, mem, if_pos hc⟩
    · rw [Booking.checked_crane, hc]
    · exact Booking.checked_id _ _ _
    · have alike : (s.drawn c p.config).JudgesAs ((s.governChannel k).wind c) := by
        rw [own]
        exact Wind.judgesAs_of_same rfl rfl rfl
      rw [alike.checked]
      exact Booking.checked_judged fun active suspends =>
        after.frame.flags _ (checked.event b mem hc active ((alike _).1.trans suspends))
  · refine ⟨b, found ?_ hc rfl, fun same => absurd same change, fun _ => rfl⟩
    rwa [evaluated.same (mt redrawn.1 change)]

/-- SENSOR_LOSS behind the evaluation of the channel by which a crane becomes blind (R100 stage 2, R125). -/
theorem State.governChannel_caught (hp : s.permit c = some p)
    (on : p.config.primary = k ∨ p.config.fallback = some k) (seen : (s.wind c).blind = false)
    (blind : (s.governed c p.config).blind = true) (registered : p.state ≠ .offline)
    (unmasked : p.maskSensorLoss = false) :
    ∃ q, (s.governChannel k).permit c = some q ∧ q.hasLatched .sensorLoss = true ∧
      (p.state.halts → q.state = .halted ∧ q.factor = 0 ∧ (s.governChannel k).event .trip = true) := by
  obtain ⟨u, before, after⟩ := State.governChannel_own (State.mem_cranesOn.2 ⟨p, hp, on⟩)
  obtain ⟨q, hq, trip⟩ := before.trips.permit p hp
  obtain ⟨q', hq', config⟩ := before.frame.permit hp
  obtain rfl : q = q' := Option.some.inj (hq.symm.trans hq')
  have blind' : (u.governed c q.config).blind = true := by
    rw [config, State.governed_congr c p.config before.frame.channels before.wind]
    exact blind
  have registered' : q.state ≠ .offline := by
    by_cases live : p.state.halts
    · rcases trip.live live with halts | ⟨halted, -⟩
      · exact halts.registered
      · rw [halted]
        exact PermitState.noConfusion
    · rwa [(trip.stands live).1]
  obtain ⟨r, hr, latched, stopped⟩ := State.govern_caught hq (before.wind ▸ seen) blind' registered'
    ((trip.masks .sensorLoss).trans unmasked)
  have own : Trips c u (u.govern c) := (u.setGoverning_trips c c q).trans (State.govern_trips hq (.inr blind'))
  obtain ⟨r', hr', trip'⟩ := own.permit q hq
  obtain rfl : r = r' := Option.some.inj (hr.symm.trans hr')
  obtain ⟨t, ht, trip''⟩ := after.trips.permit r hr
  obtain ⟨state, -, kept⟩ := trip''.stands stopped
  have rests : ¬t.state.halts := by rwa [state]
  refine ⟨t, ht, kept _ latched, fun live => ?_⟩
  obtain ⟨halted, factor⟩ := ((trip.trans trip').trans trip'').live live |>.resolve_left rests
  refine ⟨halted, factor, (((before.trips.trans own).trans after.trips).shown (.inl ⟨p, hp, live⟩)).resolve_left ?_⟩
  rintro ⟨x, hx, halts⟩
  exact rests (Option.some.inj (hx.symm.trans ht) ▸ halts)

/-- A crane that the channel does not govern, and its bookings, stand. -/
theorem State.governChannel_aside
    (off : ∀ p, s.permit c = some p → p.config.primary ≠ k ∧ p.config.fallback ≠ some k) :
    (s.governChannel k).wind c = s.wind c ∧
      ((s.bookings.map (·.id)).Nodup → ∀ b ∈ s.bookings, b.crane = c → b ∈ (s.governChannel k).bookings) := by
  have beside : Beside c s (s.governChannel k) := State.governChannel_beside fun on => by
    obtain ⟨p, hp, here⟩ := State.mem_cranesOn.1 on
    obtain ⟨primary, fallback⟩ := off p hp
    exact here.elim primary fallback
  exact ⟨beside.wind, beside.bookings⟩

end

/-! ### The items drawn (R98, R106) -/

section

variable {s : State} {c : CraneId} {g : CraneConfig}

theorem State.governed_primary (h : (s.channel g.primary).state = .live) :
    s.governed c g = { s.wind c with
      source := .primary, gust := (s.channel g.primary).gust, mean := (s.channel g.primary).mean, blind := false } :=
  if_pos h

theorem State.governed_fallback {f : ChannelId} (h : (s.channel g.primary).state ≠ .live) (hf : g.fallback = some f)
    (live : (s.channel f).state = .live) :
    s.governed c g = { s.wind c with
      source := .fallback
      gust := (s.channel f).gust.map fun x => min 700 (x + g.fbm)
      mean := (s.channel f).mean.map fun x => min 700 (x + g.fbm)
      blind := false } := by
  unfold State.governed
  dsimp only
  rw [if_neg h, hf]
  exact if_pos live

theorem State.governed_none (h : (s.channel g.primary).state ≠ .live)
    (hf : ∀ f, g.fallback = some f → (s.channel f).state ≠ .live) :
    s.governed c g = { s.wind c with source := .none, gust := none, mean := none, blind := true } := by
  unfold State.governed
  dsimp only
  rw [if_neg h]
  cases fallback : g.fallback with
  | none => rfl
  | some f => exact if_neg (hf f fallback)

/-- The candidate stage lies no lower than each threshold that gust or mean has reached (R106). -/
theorem candidate_rank (g : CraneConfig) (gust mean : Option Nat) :
    (mean.any (g.stopMean ≤ ·) = true → (candidate g gust mean).1.rank = 3) ∧
    (gust.any (g.stop ≤ ·) = true → (candidate g gust mean).1.rank = 3) ∧
    (gust.any (g.restrict ≤ ·) = true → 2 ≤ (candidate g gust mean).1.rank) ∧
    (gust.any (g.caution ≤ ·) = true → 1 ≤ (candidate g gust mean).1.rank) := by
  unfold candidate
  split
  · simp [Stage.rank]
  split
  · simp [Stage.rank]
  split
  · simp_all [Stage.rank]
  split
  · simp_all [Stage.rank]
  · simp_all [Stage.rank]

theorem Stage.eq_stop_of_rank {x : Stage} (h : 3 ≤ x.rank) : x = .stop := by
  cases x <;> first | rfl | exact absurd h (by decide)

theorem State.drawn_rank (c : CraneId) (g : CraneConfig) (s : State) :
    (candidate g (s.governed c g).gust (s.governed c g).mean).1.rank ≤ (s.drawn c g).stage.rank :=
  (Wind.ascended_rank g _).trans (Wind.risen_rank g _)

end

end Sys2Proof.Machine

/-! ## Samples and expiries as their cranes show them (R91, R93, R95, R98 to R100, R106, R107, R154) -/

namespace Sys2Proof.Machine

section

variable {c : CraneId} {g : CraneConfig} {s : State}

/-- The stage drawn lies no lower than each threshold that the governing items have reached (R106). -/
theorem State.drawn_reaches (c : CraneId) (g : CraneConfig) (s : State) :
    (∀ m, (s.governed c g).mean = some m → g.stopMean ≤ m → (s.drawn c g).stage = .stop) ∧
    ∀ x, (s.governed c g).gust = some x →
      (g.stop ≤ x → (s.drawn c g).stage = .stop) ∧ (g.restrict ≤ x → 2 ≤ (s.drawn c g).stage.rank) ∧
      (g.caution ≤ x → 1 ≤ (s.drawn c g).stage.rank) := by
  have above := s.drawn_rank c g
  obtain ⟨stopMean, stop, restrict, caution⟩ := candidate_rank g (s.governed c g).gust (s.governed c g).mean
  refine ⟨fun m hm reached => ?_, fun x hx => ⟨fun reached => ?_, fun reached => ?_, fun reached => ?_⟩⟩
  · exact Stage.eq_stop_of_rank ((stopMean (by simp [hm, reached])).symm.le.trans above)
  · exact Stage.eq_stop_of_rank ((stop (by simp [hx, reached])).symm.le.trans above)
  · exact (restrict (by simp [hx, reached])).trans above
  · exact (caution (by simp [hx, reached])).trans above

section

variable {t : State} (h : Governs c g s t)

include h

/-- The crane's wind record behind the evaluation of its channel, item by item (R98). -/
theorem Governs.items :
    (t.wind c).source = (s.governed c g).source ∧ (t.wind c).gust = (s.governed c g).gust ∧
      (t.wind c).mean = (s.governed c g).mean ∧ (t.wind c).blind = (s.governed c g).blind ∧
      (t.wind c).stage = (s.drawn c g).stage := by
  obtain ⟨x, own⟩ := h.own
  rw [own]
  exact ⟨rfl, rfl, rfl, rfl, rfl⟩

/-- A LIVE primary channel governs the crane, and its stage reaches what gust and mean call for (R98, R106). -/
theorem Governs.of_primary {ch : Channel} (hch : s.channel g.primary = ch) (live : ch.state = .live) :
    (t.wind c).source = .primary ∧ (t.wind c).gust = ch.gust ∧ (t.wind c).mean = ch.mean ∧
      (t.wind c).blind = false ∧
      (∀ m, ch.mean = some m → g.stopMean ≤ m → (t.wind c).stage = .stop) ∧
      ∀ x, ch.gust = some x → (g.stop ≤ x → (t.wind c).stage = .stop) ∧
        (g.restrict ≤ x → 2 ≤ (t.wind c).stage.rank) ∧ (g.caution ≤ x → 1 ≤ (t.wind c).stage.rank) := by
  have governed := State.governed_primary (s := s) (c := c) (g := g) (by rw [hch]; exact live)
  obtain ⟨source, gust, mean, blind, stage⟩ := h.items
  obtain ⟨byMean, byGust⟩ := s.drawn_reaches c g
  rw [governed, hch] at source gust mean blind byMean byGust
  rw [stage]
  exact ⟨source, gust, mean, blind, byMean, byGust⟩

/-- A LIVE fallback channel behind a primary that is not LIVE governs the crane with the margin added (R98). -/
theorem Governs.of_fallback {f : ChannelId} {ch : Channel} (silent : (s.channel g.primary).state ≠ .live)
    (hf : g.fallback = some f) (hch : s.channel f = ch) (live : ch.state = .live) :
    (t.wind c).source = .fallback ∧ (t.wind c).gust = ch.gust.map (fun x => min 700 (x + g.fbm)) ∧
      (t.wind c).mean = ch.mean.map (fun x => min 700 (x + g.fbm)) ∧ (t.wind c).blind = false := by
  subst hch
  obtain ⟨source, gust, mean, blind, -⟩ := h.items
  rw [State.governed_fallback silent hf live] at source gust mean blind
  exact ⟨source, gust, mean, blind⟩

/-- Without a LIVE channel the crane is blind, in RESTRICT or above (R98, R107). -/
theorem Governs.of_none
    (governed : s.governed c g = { s.wind c with source := .none, gust := none, mean := none, blind := true }) :
    (t.wind c).source = .none ∧ (t.wind c).gust = none ∧ (t.wind c).mean = none ∧ (t.wind c).blind = true ∧
      2 ≤ (t.wind c).stage.rank := by
  obtain ⟨source, gust, mean, blind, stage⟩ := h.items
  rw [governed] at source gust mean blind
  refine ⟨source, gust, mean, blind, ?_⟩
  rw [stage]
  exact Wind.risen_of_blind g (by rw [governed])

/-- What bookings are judged by has changed where the crane's record shows it (R100, R111, R154). -/
theorem Governs.redrawn_iff :
    s.redrawn c g ↔ (s.wind c).gust ≠ (t.wind c).gust ∨ (s.wind c).blind ≠ (t.wind c).blind ∨
      (t.wind c).stage ≠ (s.wind c).stage := by
  obtain ⟨x, own⟩ := h.own
  rw [own]
  exact or_congr_right (or_congr_right ne_comm)

/-- A crane's booking behind that evaluation, where `checked` says that its record has changed (R154). -/
theorem Governs.booking (hn : (s.bookings.map (·.id)).Nodup) {b : Booking}
    (hb : b ∈ s.bookings) (hc : b.crane = c) {checked : Prop}
    (hch : checked ↔ (s.wind c).gust ≠ (t.wind c).gust ∨ (s.wind c).blind ≠ (t.wind c).blind ∨
      (t.wind c).stage ≠ (s.wind c).stage) :
    ∃ b', t.bookingById b.id = some b' ∧
      (checked → BookingChecked g.hysteresis (t.wind c) (t.event .booking) b b') ∧ (¬checked → b' = b) := by
  obtain ⟨b', found, judged, stands⟩ := h.bookings hn b hb hc
  have same := hch.trans h.redrawn_iff.symm
  exact ⟨b', found, judged ∘ same.1, stands ∘ mt same.2⟩

end

end

/-- The record of an accepted sample on a channel that is not FAULTED (R91, R94). -/
def Channel.sampled (x : Nat) (ring : List Nat) (ch : Channel) : Channel :=
  { ch with
    state := .live, ring := ring, gust := some (gustOf ring), staleTimer := some (100 * ch.staleTime), rejectedRun := 0
    openSum := if ch.openCount < 240 then ch.openSum + x else ch.openSum
    openCount := if ch.openCount < 240 then ch.openCount + 1 else ch.openCount }

theorem State.sampleArrives_accepted {s : State} {k : ChannelId} {v : BitVec 16}
    (enabled : (s.channel k).enable = true) (range : v.toNat ≤ 700) (unfaulted : (s.channel k).state ≠ .faulted)
    (awaits : (s.line k).awaits (sampleBytes v 0x00#8) = true) :
    s.sampleArrives k v 0x00#8 = ((s.setLine k .hunt).editChannel k
      (Channel.sampled v.toNat (ringAppend (s.channel k).ring v.toNat))).governChannel k := by
  have record := (Channel.accept_of_unfaulted v.toNat unfaulted).trans (Channel.feed_eq _ _)
  have live : ((s.channel k).accept v.toNat).state = .live := congrArg Channel.state record
  rw [State.sampleArrives_taken enabled awaits]
  refine (State.takeSample_accepted _ _ range).trans ((if_pos live).trans ?_)
  rw [State.editChannel_congr (s := s.setLine k .hunt) (f := fun ch => ch.accept v.toNat) (g := Channel.sampled _ _)]
  exact record

end Sys2Proof.Machine

namespace Sys2Proof.Proofs

open Sys2Proof.Machine

/-- Settles O45: the record of the sample, and the evaluation of each crane on the channel
(`State.governChannel_governs`, `State.governChannel_aside`). -/
theorem sampleAccepted : Obligations.SampleAccepted := by
  intro k v s enabled range unfaulted awaits old ring gust
  have ring_eq : ringAppend old.ring v.toNat = ring := ringAppend_eq _ _
  have arrives := State.sampleArrives_accepted enabled range unfaulted awaits
  rw [ring_eq] at arrives
  refine ⟨_, congrArg Host.Outcome.next arrives, windFrame_governChannel k _, ?_⟩
  generalize hu : (s.setLine k .hunt).editChannel k (Channel.sampled v.toNat ring) = u
  have channel : u.channel k = Channel.sampled v.toNat ring old := by simp [← hu, old]
  have other (j : ChannelId) (hj : j ≠ k) : u.channel j = s.channel j := by
    rw [← hu, State.editChannel_channel_other _ _ hj]
    rfl
  have permits (c : CraneId) : u.permit c = s.permit c := by rw [← hu]; rfl
  have winds (c : CraneId) : u.wind c = s.wind c := by rw [← hu]; rfl
  have bookings : u.bookings = s.bookings := by rw [← hu]; rfl
  refine ⟨fun c p hp primary => ?_, fun c p hp primary fallback silent => ?_, fun c off => ?_⟩
  · have governs := State.governChannel_governs ((permits c).trans hp) (.inl primary)
    obtain ⟨source, gust', mean, blind, byMean, byGust⟩ := governs.of_primary (primary ▸ channel) rfl
    obtain ⟨stop, restrict, caution⟩ := byGust gust rfl
    refine ⟨source, gust', mean, blind, stop, restrict, caution, byMean, fun hn b hb hc => ?_⟩
    refine governs.booking (bookings ▸ hn) (bookings ▸ hb) hc ?_
    rw [gust', blind, winds, Bool.ne_false_iff]
    rfl
  · have governs := State.governChannel_governs ((permits c).trans hp) (.inr fallback)
    exact governs.of_fallback (by rw [other _ primary]; exact silent) fallback channel rfl
  · rw [← winds, ← bookings]
    exact State.governChannel_aside fun p hp => off p ((permits c).symm.trans hp)

/-- Settles O48: the record of each expiry, and the evaluation of each crane on the channel
(`State.governChannel_governs`, `State.governChannel_caught`). -/
theorem channelTimersExpire : Obligations.ChannelTimersExpire := by
  intro k s old
  refine ⟨fun left => congrArg Host.Outcome.next (State.endStale_of_left left), fun expired live => ?_,
    fun left => congrArg Host.Outcome.next (State.endBin_of_left left),
    fun expired silent => congrArg Host.Outcome.next (State.endBin_of_silent expired silent),
    fun expired live => ?_⟩
  · refine ⟨_, congrArg Host.Outcome.next (State.endStale_of_live expired live), windFrame_governChannel k _,
      fun c p hp primary alone => ?_⟩
    generalize hu : (s.editChannel k fun ch => { ch.cleared with state := .stale }).setEvent .sensor = u
    have here : (u.channel k).state = .stale := by simp [← hu]
    have other (j : ChannelId) (hj : j ≠ k) : u.channel j = s.channel j := by
      rw [← hu]
      exact State.editChannel_channel_other _ _ hj
    have permit : u.permit c = some p := by rw [← hu]; exact hp
    have wind : u.wind c = s.wind c := by rw [← hu]; rfl
    have bookings : u.bookings = s.bookings := by rw [← hu]; rfl
    have dead : (u.channel k).state ≠ .live := by rw [here]; exact ChannelState.noConfusion
    have governed := State.governed_none (s := u) (c := c) (g := p.config) (by rw [primary]; exact dead) fun f hf => by
      by_cases same : f = k
      · rwa [same]
      · rw [other f same]
        exact (alone f hf).resolve_left same
    have lost : (u.governed c p.config).blind = true := by rw [governed]
    have governs := State.governChannel_governs permit (.inl primary)
    obtain ⟨source, gust, mean, blind, floor⟩ := governs.of_none governed
    refine ⟨source, gust, mean, blind, floor,
      fun seen unmasked registered =>
        State.governChannel_caught permit (.inl primary) (by rw [wind]; exact seen) lost registered unmasked,
      fun hn b hb hc => governs.booking (bookings ▸ hn) (bookings ▸ hb) hc ?_⟩
    rw [gust, blind, wind, ← Bool.not_eq_true]
  · intro all bins sum count mean
    have record : ({ old with binTimer := 6000 } : Channel).closeBin =
        { old with binTimer := 6000, bins := bins, openSum := 0, openCount := 0, mean := mean } := Channel.closeBin_eq _
    have edited : (s.editChannel k fun ch => ({ ch with binTimer := 6000 } : Channel).closeBin) =
        s.editChannel k fun ch =>
          { ch with binTimer := 6000, bins := bins, openSum := 0, openCount := 0, mean := mean } :=
      State.editChannel_congr record
    refine ⟨_, congrArg Host.Outcome.next (State.endBin_of_live expired live), ?_, fun c p hp primary => ?_⟩
    · rw [edited]
      exact windFrame_governChannel k _
    · rw [edited]
      generalize hu : s.editChannel k _ = u
      have channel := (congrArg (State.channel k) hu).symm.trans (s.editChannel_channel_same k _)
      have live' : (u.channel k).state = .live := by rw [channel]; exact live
      have governs := State.governChannel_governs (s := u) (c := c) (p := p) (by rw [← hu]; exact hp) (.inl primary)
      obtain ⟨-, -, shown, -, byMean, -⟩ := governs.of_primary (congrArg u.channel primary) live'
      rw [channel] at shown byMean
      exact ⟨shown, byMean⟩

end Sys2Proof.Proofs

/-! ## The permit records and the STOP stage (R113, R119, R125, R131)

A permit record fits its crane's wind stage (`PermitFits`): its speed factor and its latched causes go with
its state, and at STOP its state is STOWING, STOWED or OFFLINE. Every single move of a command writes the
permit and the stage of one crane, or hands causes to the permits (`HandOffs`), and keeps every crane's
record fitting (`permitsKept_command`). -/

namespace Sys2Proof.Machine

/-! ### One permit record -/

/-- A good record that STOP finds STOWING, STOWED or OFFLINE. -/
structure Permit.Fits (x : Stage) (p : Permit) : Prop where
  ok : p.ok
  parked : x = .stop → p.state.parked

/-- The record of a crane fits its stage; a crane without a record is not at STOP (R118). -/
def PermitFits (x : Stage) : Option Permit → Prop
  | none => x ≠ .stop
  | some p => p.Fits x

section

variable {p q : Permit} {x y : Stage}

theorem PermitState.parked_not_halts {a : PermitState} (h : a.parked) : ¬a.halts := by
  rcases h with rfl | rfl | rfl <;> simp [PermitState.halts]

theorem PermitState.not_parked_of_armed {a : PermitState} (h : a.armed = true) : ¬a.parked := by
  rintro (rfl | rfl | rfl) <;> cases h

/-- A latch leaves a good record (R125). -/
theorem Permit.mayLatch.ok (h : p.mayLatch q) (ok : p.ok) : q.ok := by
  obtain ⟨rest, latched, states⟩ := h
  obtain ⟨low, high, state⟩ := ok
  have config : q.config = p.config := by rw [rest]
  have caught (hc : p.clear = false) : q.clear = false := by
    rw [Bool.eq_false_iff, Ne, Permit.clear_iff_hasLatched] at hc ⊢
    exact fun clear => hc fun cause => Bool.eq_false_iff.2 fun hp =>
      Bool.eq_false_iff.1 (clear cause) (latched cause hp)
  have halted (hq : q.state = .halted ∧ q.factor = 0 ∧ q.clear = false) : q.ok := by
    obtain ⟨hst, hfac, hc⟩ := hq
    simp only [Permit.ok, config, hst]
    exact ⟨low, high, hfac, hc⟩
  cases hst : p.state <;> simp only [hst] at states state
  case offline => exact states ▸ ⟨low, high, hst ▸ state⟩
  case disarmed | running | derated =>
    rcases states with rfl | hq
    · exact ⟨low, high, hst ▸ state⟩
    · exact halted hq
  case halted => exact halted ⟨states.1, states.2.trans state.1, caught state.2⟩
  case stowing | stowed =>
    simp only [Permit.ok, config, states.1]
    exact ⟨low, high, states.2.trans state⟩

theorem Permit.mayLatch.fits (h : p.mayLatch q) (fits : p.Fits x) : q.Fits x where
  ok := h.ok fits.ok
  parked hx := by
    have parked := fits.parked hx
    rwa [h.state (PermitState.parked_not_halts parked)]

/-- RUNNING and DERATED have no cause latched (R119). -/
theorem Permit.clear_of_armed (ok : p.ok) (h : p.state.armed = true) : p.clear = true := by
  obtain ⟨-, -, state⟩ := ok
  cases hst : p.state <;> simp only [hst] at state h
  case running => exact state.2
  case derated => exact state.2.2
  all_goals cases h

/-- A speed factor computed afresh fits the state it gives (R131). -/
theorem Permit.rearmed_ok (ok : p.ok) (x : Stage) : (p.rearmed x).ok := by
  cases ha : p.state.armed with
  | true => exact Permit.rearmed_armed ha x ▸ Permit.ok_armed ok x (Permit.clear_of_armed ok ha)
  | false => rwa [Permit.rearmed_unarmed ha]

theorem Permit.rearmed_parked (h : p.state.parked) (x : Stage) : (p.rearmed x).state.parked := by
  rwa [Permit.rearmed_unarmed (Bool.eq_false_iff.2 fun ha => PermitState.not_parked_of_armed ha h)]

theorem Permit.stow_parked (p : Permit) : p.stow.state.parked := by
  unfold Permit.stow
  cases hst : p.state <;> simp [PermitState.parked, hst]

theorem Permit.stow_ok (ok : p.ok) : p.stow.ok := by
  obtain ⟨low, high, -⟩ := id ok
  unfold Permit.stow
  cases p.state
  case offline | stowing | stowed => exact ok
  all_goals exact ⟨low, high, rfl⟩

theorem Permit.unstow_ok (ok : p.ok) : p.unstow.ok := by
  obtain ⟨low, high, -⟩ := id ok
  unfold Permit.unstow
  split
  · refine ⟨low, high, ?_⟩
    cases hc : p.clear <;> exact ⟨rfl, hc⟩
  · exact ok

/-- A record that follows its crane's stage fits the new stage (R112, R113, R116). -/
theorem Permit.followStage_fits (ok : p.ok) (old new : Stage) : (p.followStage old new).Fits new := by
  unfold Permit.followStage
  by_cases hn : new = .stop
  · rw [if_pos hn]
    exact ⟨Permit.stow_ok ok, fun _ => p.stow_parked⟩
  · refine ⟨?_, fun h => absurd h hn⟩
    rw [if_neg hn]
    split
    · exact Permit.rearmed_ok (Permit.unstow_ok ok) new
    · split
      · exact Permit.rearmed_ok ok new
      · exact ok

/-- A suspension mark and the speed factor that goes with it fit the stage (R132). -/
theorem Permit.suspend_fits (h : p.Fits x) (mark : Bool) :
    (({ p with suspended := mark } : Permit).rearmed x).Fits x where
  ok := Permit.rearmed_ok (p := { p with suspended := mark }) h.ok x
  parked hx := Permit.rearmed_parked (p := { p with suspended := mark }) (h.parked hx) x

/-- Another configuration fits a record that is OFFLINE or DISARMED (R120). -/
theorem Permit.configured_fits (h : p.Fits x) (rest : p.state = .offline ∨ p.state = .disarmed) {g : CraneConfig}
    (factor : 10 ≤ g.restrictFactor ∧ g.restrictFactor ≤ 90) : ({ p with config := g } : Permit).Fits x := by
  obtain ⟨⟨-, -, state⟩, parked⟩ := h
  refine ⟨⟨factor.1, factor.2, ?_⟩, parked⟩
  rcases rest with hst | hst <;> rw [hst] at state <;> simp only [hst] <;> exact state

end

/-! ### The whole site -/

/-- The invariant of the permits, crane by crane. -/
theorem State.permitFits_iff (s : State) :
    (∀ c, PermitFits (s.wind c).stage (s.permit c)) ↔ s.permitsOk ∧ s.stopIsStowed := by
  constructor
  · intro fits
    refine ⟨fun c p hp => ?_, fun c stop => ?_⟩
    · have own := fits c
      rw [hp] at own
      exact own.ok
    · have own := fits c
      cases hp : s.permit c with
      | none =>
        rw [hp] at own
        exact absurd stop own
      | some p =>
        rw [hp] at own
        exact ⟨p, rfl, own.parked stop⟩
  · rintro ⟨ok, stowed⟩ c
    cases hp : s.permit c with
    | none =>
      intro stop
      obtain ⟨p, record, -⟩ := stowed c stop
      exact nomatch hp.symm.trans record
    | some p =>
      refine ⟨ok c p hp, fun stop => ?_⟩
      obtain ⟨q, record, parked⟩ := stowed c stop
      obtain rfl : p = q := Option.some.inj (hp.symm.trans record)
      exact parked

/-- Records that fit their stages keep fitting. -/
def PermitsKept (s t : State) : Prop :=
  ∀ c, PermitFits (s.wind c).stage (s.permit c) → PermitFits (t.wind c).stage (t.permit c)

theorem permitsKept_of_stages {s t : State} (stages : ∀ c, (t.wind c).stage = (s.wind c).stage)
    (permits : t.permits = s.permits) : PermitsKept s t := fun c fits => by
  rw [stages]
  simpa only [State.permit, permits] using fits

theorem permitsKept_of_same {s t : State} (winds : t.winds = s.winds) (permits : t.permits = s.permits) :
    PermitsKept s t :=
  permitsKept_of_stages (fun c => by rw [State.wind_of_winds winds]) permits

/-- What latches causes keeps the records (R125). -/
theorem permitsKept_of_handOffs {s t : State} (h : HandOffs s t) : PermitsKept s t := fun c fits => by
  rw [State.wind_of_winds h.winds]
  have latched := h.permits c
  cases hp : s.permit c with
  | none =>
    rw [hp] at fits latched
    cases ht : t.permit c with
    | none => exact fits
    | some q =>
      rw [ht] at latched
      exact latched.elim
  | some p =>
    obtain ⟨q, hq, hpq⟩ := h.permit hp
    rw [hp] at fits
    rw [hq]
    exact hpq.fits fits

theorem permitsKept_editWind (s : State) (c : CraneId) (f : Wind → Wind)
    (hf : (f (s.wind c)).stage = (s.wind c).stage) : PermitsKept s (s.editWind c f) := by
  refine permitsKept_of_stages (fun d => ?_) rfl
  rw [State.editWind_wind]
  split
  · next same => exact same ▸ hf
  · rfl

theorem permitsKept_editPermit {s : State} {c : CraneId} {p q : Permit} (hp : s.permit c = some p)
    (hq : p.Fits (s.wind c).stage → q.Fits (s.wind c).stage) : PermitsKept s (s.editPermit c fun _ => q) := by
  intro d fits
  rw [State.editPermit_permit, State.editPermit_wind]
  split
  · next same =>
    subst same
    rw [hp] at fits ⊢
    exact hq fits
  · exact fits

/-- A permit edit of a handler (GoodPermitEdit of RequestMoves.lean). -/
theorem permitsKept_goodPermitEdit {s : State} {c : CraneId} {p q : Permit} (hp : s.permit c = some p)
    (good : GoodPermitEdit s c p q) : PermitsKept s (s.editPermit c fun _ => q) :=
  permitsKept_editPermit hp fun fits => ⟨good.1 fits.ok, fun stop => good.2 stop (fits.parked stop)⟩

/-- A change of a crane's stage with its permit's answer (R111, R113, R116). -/
theorem permitsKept_stage {s : State} {c : CraneId} {p : Permit} (new : Stage) (cause : StageCause)
    (hp : s.permit c = some p) :
    PermitsKept s ((s.announceStage c (s.wind c).stage new cause).editPermit c
      fun _ => p.followStage (s.wind c).stage new) := by
  intro d fits
  rw [State.editPermit_permit, State.editPermit_wind, State.wind_of_winds (s.announceStage_winds c _ new cause),
    State.editWind_wind]
  have permit : (s.announceStage c (s.wind c).stage new cause).permit d = s.permit d := by
    simp only [State.permit, State.announceStage_permits]
  rw [permit]
  split
  · next same =>
    subst same
    rw [hp] at fits ⊢
    exact Permit.followStage_fits fits.ok _ new
  · exact fits

/-- A configuration is stored for a crane that is OFFLINE or DISARMED, and first makes its record (R121). -/
theorem permitsKept_storeConfig {s : State} {c : CraneId} {g : CraneConfig}
    (rest : s.permitState c = .offline ∨ s.permitState c = .disarmed)
    (factor : 10 ≤ g.restrictFactor ∧ g.restrictFactor ≤ 90) : PermitsKept s (s.storeConfig c g) := by
  intro d fits
  show PermitFits (s.wind d).stage ((s.storeConfig c g).permit d)
  simp only [State.storeConfig, State.permit, Table.entry_edit] at fits ⊢
  split
  · next same =>
    subst same
    cases hp : s.permit d with
    | none =>
      simp only [State.permit] at hp
      rw [hp] at fits ⊢
      exact ⟨⟨factor.1, factor.2, rfl, rfl⟩, fun stop => absurd stop fits⟩
    | some p =>
      simp only [State.permitState, hp] at rest
      simp only [State.permit] at hp
      rw [hp] at fits ⊢
      exact Permit.configured_fits fits rest factor
  · exact fits

/-- A record written for every crane that has one. -/
theorem permitsKept_mapPermits {s t : State} {f : Permit → Permit}
    (permits : t.permits = Table.mapAll s.permits fun _ => Option.map f)
    (stages : ∀ c, (t.wind c).stage = (s.wind c).stage) (hf : ∀ x p, p.Fits x → (f p).Fits x) :
    PermitsKept s t := by
  intro c fits
  have permit : t.permit c = (s.permit c).map f := by simp only [State.permit, permits, Table.entry_mapAll]
  rw [stages, permit]
  cases hp : s.permit c with
  | none =>
    rw [hp] at fits
    exact fits
  | some p =>
    rw [hp] at fits
    exact hf _ p fits

/-- Records that are cleared to OFFLINE fit every stage (R134). -/
theorem permitsKept_restartPermits (s : State) : PermitsKept s s.restartPermits :=
  permitsKept_mapPermits rfl (fun _ => rfl) fun _ _ ⟨⟨low, high, _⟩, _⟩ =>
    ⟨⟨low, high, rfl, rfl⟩, fun _ => .inr (.inr rfl)⟩

/-- A wind record as after power-on is CALM (R103). -/
theorem permitFits_of_calm {x : Stage} (hx : x = .calm) {o : Option Permit} (ok : ∀ p, o = some p → p.ok) :
    PermitFits x o := by
  subst hx
  cases o with
  | none => exact nofun
  | some p => exact ⟨ok p rfl, nofun⟩

theorem permitsKept_restartWind (s : State) : PermitsKept s s.restartWind := fun c fits =>
  permitFits_of_calm (by simp [State.restartWind, State.wind, Table.entry]) fun p hp => by
    rw [show s.permit c = some p from hp] at fits
    exact fits.ok

theorem permitsKept_restarted (s : State) : PermitsKept s s.restarted := fun c _ =>
  permitFits_of_calm (by simp [State.restarted, State.reset, State.wind, Table.entry]) fun p hp => by
    simp [State.restarted, State.reset, State.permit, Table.entry] at hp

/-- No move of a request leaves a record that does not fit its stage (R113, R125, R131). -/
theorem permitsKept_request : RequestMoves PermitsKept where
  refl _ _ := id
  trans h k c := k c ∘ h c
  chosen _ := permitsKept_of_same rfl rfl
  post s c n := permitsKept_of_handOffs (.post s c n)
  trip _ := permitsKept_of_same rfl rfl
  silence _ := permitsKept_of_same rfl rfl
  grant _ _ _ _ _ := permitsKept_of_same rfl rfl
  demand _ _ _ _ _ := permitsKept_of_same rfl rfl
  figures _ _ _ _ _ _ := permitsKept_of_same rfl rfl
  judge s c := permitsKept_of_handOffs (handOffs_cascade.judge s c)
  latchKeep s c p cause hp state mask new :=
    permitsKept_of_handOffs (handOffs_cascade.latchKeep s c p cause hp state mask new)
  latchHalt s c p cause hp state mask :=
    permitsKept_of_handOffs (handOffs_cascade.latchHalt s c p cause hp state mask)
  reclaim _ _ _ _ _ _ := permitsKept_of_same rfl rfl
  regrant _ _ _ _ _ := permitsKept_of_same rfl rfl
  suspend _ _ _ hp := permitsKept_editPermit hp fun fits => Permit.suspend_fits fits _
  bookingEvent _ := permitsKept_of_same rfl rfl
  swap _ _ _ := permitsKept_of_same rfl rfl
  windStop _ := permitsKept_of_same rfl rfl
  hold s c _ := permitsKept_editWind s c _ rfl
  govern s c p _ := permitsKept_editWind s c _ (s.governed_stage c p.config)
  stage _ _ _ new cause hp _ := permitsKept_stage new cause hp
  applyDone _ := permitsKept_of_same rfl rfl
  rezone _ _ _ _ := permitsKept_of_same rfl rfl
  drop _ _ _ := permitsKept_of_same rfl rfl
  remark _ _ _ := permitsKept_of_same rfl rfl
  place s z c b e _ _ := by
    obtain ⟨zs, n, h⟩ := RequestMoves.place_rest s z c b e
    rw [h]
    exact permitsKept_of_same rfl rfl
  adopt _ _ := permitsKept_of_same rfl rfl
  booking _ _ _ := permitsKept_of_same rfl rfl
  terminal s := by
    rw [s.countTerminal_eq]
    exact permitsKept_of_same rfl rfl
  event _ _ := permitsKept_of_same rfl rfl
  clearEvents _ := permitsKept_of_same rfl rfl
  enables _ _ := permitsKept_of_same rfl rfl
  areas _ _ _ := permitsKept_of_same rfl rfl
  config _ _ _ rest factor := permitsKept_storeConfig rest factor
  permit _ _ _ _ hp good := permitsKept_goodPermitEdit hp good
  position _ _ _ := permitsKept_of_same rfl rfl
  channel _ _ _ _ := permitsKept_of_same rfl rfl
  shadow _ _ := permitsKept_of_same rfl rfl
  upgrade _ _ _ _ _ _ := permitsKept_of_same rfl rfl
  mark _ _ _ _ _ := permitsKept_of_same rfl rfl
  clock _ _ _ _ := permitsKept_of_same rfl rfl
  entry s b := by
    unfold State.addBooking State.makeSlot
    dsimp only
    split
    · exact permitsKept_of_same rfl rfl
    · split <;> exact permitsKept_of_same rfl rfl
  restartBoxes _ := permitsKept_of_same rfl rfl
  restartZones s := by
    unfold State.restartZones
    exact permitsKept_of_same rfl rfl
  restartPositions _ := permitsKept_of_same rfl rfl
  restartPermits := permitsKept_restartPermits
  restartWind := permitsKept_restartWind
  restartBookings _ := permitsKept_mapPermits rfl (fun _ => rfl) fun _ _ fits => ⟨fits.ok, fits.parked⟩
  restartKind _ _ := permitsKept_of_same rfl rfl

/-- No move of a port or a line changes a permit or a stage. -/
theorem permitsKept_command : CommandMoves PermitsKept where
  toRequestMoves := permitsKept_request
  link _ _ _ := permitsKept_of_same rfl rfl
  startTx s p := permitsKept_of_stages (fun c => by rw [State.startTx_wind]) (s.startTx_permits p)
  line _ _ _ := permitsKept_of_same rfl rfl
  clearLoss _ p := by cases p <;> exact permitsKept_of_same rfl rfl
  restarted := permitsKept_restarted

/-- The passing of time runs stow timers down and changes no stage (log entry 1). -/
theorem permitsKept_elapse (s : State) : PermitsKept s s.elapse :=
  permitsKept_mapPermits rfl (fun c => by simp only [State.elapse, State.wind, Table.entry_mapAll])
    fun _ _ fits => ⟨fits.ok, fits.parked⟩

theorem permitsKept_step {s t : State} (hstep : step s = .next t) : PermitsKept s t := by
  unfold step at hstep
  split at hstep
  · cases hstep
    exact permitsKept_elapse s
  · next c rest _ =>
    exact permitsKept_command.trans (t := { s with pending := rest }) (permitsKept_of_same rfl rfl)
      (permitsKept_command.exec hstep)

end Sys2Proof.Machine

namespace Sys2Proof.Proofs

open Sys2Proof.Machine

/-- Settles O58: crane by crane (`State.permitFits_iff`), every move of a command keeps the record fitting
the stage (`permitsKept_command`), and so does time. -/
theorem stepKeepsPermits : Obligations.StepKeepsPermits := by
  intro s t ok stowed hstep
  have fits := s.permitFits_iff.2 ⟨ok, stowed⟩
  exact t.permitFits_iff.1 fun c => permitsKept_step hstep c (fits c)

end Sys2Proof.Proofs

/-! ## The expiry of a hold timer (R108, R109, R116, R154)

The expiry sets the hold timer of the stage below and then changes the stage (`State.endHold_told`). The
second half follows a permit that has left STOWING through the rest of the stage change
(`State.changeStage_unstowed`). -/

namespace Sys2Proof.Machine

/-! ### The stage below and its hold timer -/

/-- The wind record one stage down, with the descent condition of the new stage tested at once (R109). -/
def Wind.lowered (g : CraneConfig) (w : Wind) : Wind :=
  ({ w with stage := w.stage.below, holdTimer := none } : Wind).testDescent g

theorem Wind.lowered_eq (g : CraneConfig) (w : Wind) :
    w.lowered g = { w with stage := w.stage.below, holdTimer := (w.lowered g).holdTimer } :=
  Wind.testDescent_eq g { w with stage := w.stage.below, holdTimer := none }

theorem Wind.lowered_stage (g : CraneConfig) (w : Wind) : (w.lowered g).stage = w.stage.below := by
  rw [Wind.lowered_eq]

theorem Wind.lowered_items (g : CraneConfig) (w : Wind) :
    (w.lowered g).gust = w.gust ∧ (w.lowered g).mean = w.mean ∧ (w.lowered g).blind = w.blind := by
  rw [Wind.lowered_eq]
  exact ⟨rfl, rfl, rfl⟩

/-- The descent condition reads the governing items alone (R108). -/
theorem descends_of_same (g : CraneConfig) (x : Stage) {v w : Wind} (blind : v.blind = w.blind)
    (gust : v.gust = w.gust) (mean : v.mean = w.mean) : descends g x v = descends g x w := by
  unfold descends
  rw [blind, gust, mean]

theorem Wind.lowered_holdTimer (g : CraneConfig) (w : Wind) :
    (w.lowered g).holdTimer =
      if descends g w.stage.below w then some (seconds (holdTime g w.stage.below)) else none := by
  unfold Wind.lowered Wind.testDescent
  dsimp only
  rw [descends_of_same g w.stage.below (v := { w with stage := w.stage.below, holdTimer := none }) (w := w)
    rfl rfl rfl]
  split <;> rfl

theorem descends_restrict_iff {g : CraneConfig} {w : Wind} :
    descends g .restrict w = true ↔
      w.blind = false ∧ ∃ x, w.gust = some x ∧ x + g.hysteresis < g.restrict := by
  simp [descends, Option.any_eq_true]

theorem descends_caution_iff {g : CraneConfig} {w : Wind} :
    descends g .caution w = true ↔
      w.blind = false ∧ ∃ x, w.gust = some x ∧ x + g.hysteresis < g.caution := by
  simp [descends, Option.any_eq_true]

theorem Stage.ne_below {x : Stage} (h : x ≠ .calm) : x ≠ x.below := by
  cases x
  case calm => exact absurd rfl h
  all_goals exact Stage.noConfusion

/-! ### The expiry as a stage change (R111) -/

/-- A hold timer that has not run out does not expire (R110). -/
theorem State.endHold_of_running {s : State} {c : CraneId} (h : (s.wind c).holdTimer ≠ some 0) :
    s.endHold c = s := by
  unfold State.endHold
  split
  · next out => exact absurd out h
  · rfl

section

variable {s : State} {c : CraneId} {p : Permit} (hp : s.permit c = some p)
  (out : (s.wind c).holdTimer = some 0) (above : (s.wind c).stage ≠ .calm)

include hp out above

theorem State.endHold_of_out :
    s.endHold c = (s.setHold c ((s.wind c).lowered p.config).holdTimer).changeStage c (s.wind c).stage
      (s.wind c).stage.below .hold := by
  unfold State.endHold
  rw [hp, out]
  exact if_neg above

theorem State.endHold_told :
    ∃ v, StageTold c (s.wind c).stage.below (s.setHold c ((s.wind c).lowered p.config).holdTimer) v ∧
      s.endHold c = v.checkBookings true c := by
  have stage (x : Timer) : ((s.setHold c x).wind c).stage = (s.wind c).stage := by rw [State.setHold_wind_same]
  rw [State.endHold_of_out hp out above]
  generalize ((s.wind c).lowered p.config).holdTimer = x
  have told := State.changeStage_told (s := s.setHold c x) (new := (s.wind c).stage.below) .hold hp
    (by rw [stage]; exact Stage.ne_below above)
  rwa [stage] at told

/-- The lowered record for the crane, and no other record changed. -/
theorem State.endHold_wind (d : CraneId) :
    (s.endHold c).wind d = if d = c then (s.wind c).lowered p.config else s.wind d := by
  obtain ⟨v, told, ends⟩ := State.endHold_told hp out above
  rw [ends, State.wind_of_winds ((calendarFrame_checkBookings true c v).winds.trans told.winds),
    State.editWind_wind]
  split
  · next own =>
    subst own
    rw [State.setHold_wind_same]
    exact (Wind.lowered_eq p.config _).symm
  · next other => exact State.editWind_wind_other s _ other

/-- The bookings go through the wind check by the lowered record (R111 stage 5, R154). -/
theorem State.endHold_checks (nodup : (s.bookings.map (·.id)).Nodup) :
    BookingsChecked c p.config.hysteresis ((s.wind c).lowered p.config) s (s.endHold c) := by
  obtain ⟨v, told, ends⟩ := State.endHold_told hp out above
  have checked := State.checkBookings_checks (s := v) (told.bookings ▸ nodup) true c
  have hyst : v.hysteresis c = p.config.hysteresis := by
    rw [State.hysteresis_of_config told.config c]
    unfold State.hysteresis
    rw [State.setHold, State.editWind_permit, hp]
  rw [hyst, State.wind_of_winds told.winds, State.editWind_wind_same, State.setHold_wind_same] at checked
  rw [ends, Wind.lowered_eq]
  exact checked.congr (Wind.judgesAs_of_same rfl rfl rfl) told.bookings.symm rfl id

theorem State.endHold_booking (nodup : (s.bookings.map (·.id)).Nodup) {b : Booking} (hb : b ∈ s.bookings)
    (hc : b.crane = c) :
    ∃ b', (s.endHold c).bookingById b.id = some b' ∧
      BookingChecked p.config.hysteresis ((s.endHold c).wind c) ((s.endHold c).event .booking) b b' := by
  have checked := State.endHold_checks hp out above nodup
  have nodup' : ((s.endHold c).bookings.map (·.id)).Nodup := (windFrame_wind.endHold c s).ids ▸ nodup
  have mem : b.checked p.config.hysteresis ((s.wind c).lowered p.config) ∈ (s.endHold c).bookings := by
    rw [checked.bookings]
    exact List.mem_map.2 ⟨b, hb, if_pos hc⟩
  have found := State.bookingById_of_mem nodup' mem
  rw [Booking.checked_id] at found
  rw [State.endHold_wind hp out above, if_pos rfl]
  exact ⟨_, found, Booking.checked_judged (checked.event b hb hc)⟩

end

/-! ### A permit that has left STOWING (R116) -/

/-- DISARMED or HALTED, at speed factor 0, with the stow timer stopped. -/
structure Permit.Unstowed (p : Permit) : Prop where
  state : p.state = .disarmed ∨ p.state = .halted
  factor : p.factor = 0
  timer : p.stowTimer = none
  notOverdue : p.stowOverdue = false

theorem Permit.Unstowed.unarmed {p : Permit} (h : p.Unstowed) : p.state.armed = false := by
  rcases h.state with hst | hst <;> rw [hst] <;> rfl

/-- A latch finds a DISARMED crane and leaves it HALTED (R125). -/
theorem Permit.mayLatch.unstowed {p q : Permit} (h : p.mayLatch q) (u : p.Unstowed) : q.Unstowed := by
  obtain ⟨rest, -, states⟩ := h
  have timer : q.stowTimer = none := by
    rw [rest]
    exact u.timer
  have notOverdue : q.stowOverdue = false := by
    rw [rest]
    exact u.notOverdue
  rcases u.state with hst | hst <;> rw [hst] at states
  · rcases states with same | ⟨halted, factor, -⟩
    · exact same ▸ u
    · exact ⟨.inr halted, factor, timer, notOverdue⟩
  · exact ⟨.inr states.1, states.2.trans u.factor, timer, notOverdue⟩

theorem Permit.unstow_unstowed {p : Permit} (h : p.state = .stowing) : p.unstow.Unstowed := by
  unfold Permit.unstow
  rw [if_pos h]
  cases hc : p.clear
  · exact ⟨.inr rfl, rfl, rfl, rfl⟩
  · exact ⟨.inl rfl, rfl, rfl, rfl⟩

/-- A STOWING crane whose stage falls below STOP (R116). -/
theorem Permit.followStage_unstowed {p : Permit} (h : p.state = .stowing) {new : Stage} (hn : new ≠ .stop) :
    (p.followStage .stop new).Unstowed := by
  have unstowed := Permit.unstow_unstowed h
  have follows : p.followStage .stop new = p.unstow.rearmed new := (if_neg hn).trans (if_pos rfl)
  rwa [follows, Permit.rearmed_unarmed unstowed.unarmed]

/-- Crane `c` has a permit that has left STOWING. -/
def State.unstowed (c : CraneId) (s : State) : Prop := ∃ q, s.permit c = some q ∧ q.Unstowed

/-- Crane `c`'s permit, where it has left STOWING, stays so. -/
def UnstowedKept (c : CraneId) (s t : State) : Prop := s.unstowed c → t.unstowed c

theorem unstowedKept_of_permits {c : CraneId} {s t : State} (h : t.permits = s.permits) : UnstowedKept c s t := by
  rintro ⟨q, hq, u⟩
  exact ⟨q, by simpa only [State.permit, h] using hq, u⟩

theorem unstowedKept_of_handOffs {c : CraneId} {s t : State} (h : HandOffs s t) : UnstowedKept c s t := by
  rintro ⟨p, hp, u⟩
  obtain ⟨q, hq, hpq⟩ := h.permit hp
  exact ⟨q, hq, hpq.unstowed u⟩

/-- A suspension mark gives a crane that is not armed no speed factor (R132). -/
theorem unstowedKept_suspend (c : CraneId) {s : State} {d : CraneId} {p : Permit} (hp : s.permit d = some p)
    (mark : Bool) (x : Stage) :
    UnstowedKept c s (s.editPermit d fun _ => ({ p with suspended := mark } : Permit).rearmed x) := by
  rintro ⟨q, hq, u⟩
  by_cases own : c = d
  · subst own
    obtain rfl : p = q := Option.some.inj (hp.symm.trans hq)
    have marked : ({ p with suspended := mark } : Permit).Unstowed := ⟨u.state, u.factor, u.timer, u.notOverdue⟩
    refine ⟨({ p with suspended := mark } : Permit).rearmed x, by simp [hp], ?_⟩
    rwa [Permit.rearmed_unarmed marked.unarmed]
  · exact ⟨q, (s.editPermit_permit_other _ own).trans hq, u⟩

/-- No move of a wind check of bookings takes a crane out of DISARMED or HALTED but into HALTED. -/
theorem unstowedKept_swap (c : CraneId) : SwapMoves (UnstowedKept c) where
  refl _ := id
  trans h k := k ∘ h
  chosen s := unstowedKept_of_handOffs (handOffs_cascade.chosen s)
  post s d n := unstowedKept_of_handOffs (handOffs_cascade.post s d n)
  trip s := unstowedKept_of_handOffs (handOffs_cascade.trip s)
  silence s := unstowedKept_of_handOffs (handOffs_cascade.silence s)
  grant s z cl hq hg := unstowedKept_of_handOffs (handOffs_cascade.grant s z cl hq hg)
  demand s z h d hh := unstowedKept_of_handOffs (handOffs_cascade.demand s z h d hh)
  figures s d r p hr hp := unstowedKept_of_handOffs (handOffs_cascade.figures s d r p hr hp)
  judge s d := unstowedKept_of_handOffs (handOffs_cascade.judge s d)
  latchKeep s d p cause hp state mask new :=
    unstowedKept_of_handOffs (handOffs_cascade.latchKeep s d p cause hp state mask new)
  latchHalt s d p cause hp state mask :=
    unstowedKept_of_handOffs (handOffs_cascade.latchHalt s d p cause hp state mask)
  reclaim _ _ _ _ _ _ := unstowedKept_of_permits rfl
  regrant _ _ _ _ _ := unstowedKept_of_permits rfl
  suspend _ _ _ hp := unstowedKept_suspend c hp _ _
  bookingEvent _ := unstowedKept_of_permits rfl
  swap _ _ _ := unstowedKept_of_permits rfl

/-- A stage change down from STOP takes a STOWING crane out of STOWING for good (R116). -/
theorem State.changeStage_unstowed {s : State} {c : CraneId} {p : Permit} (hp : s.permit c = some p)
    (stowing : p.state = .stowing) {new : Stage} (hn : new ≠ .stop) (cause : StageCause) :
    (s.changeStage c .stop new cause).unstowed c := by
  have record : (s.announceStage c .stop new cause).permit c = some p := by
    simpa only [State.permit, State.announceStage_permits] using hp
  obtain ⟨u, follows, settles⟩ := State.tellPermit_settles .stop new record
  have told := unstowedKept_of_handOffs (follows.handOffs.trans settles.handOffs) (c := c)
    ⟨p.followStage .stop new, by simp [record], Permit.followStage_unstowed stowing hn⟩
  exact (unstowedKept_swap c).checkBookings true c _ told

end Sys2Proof.Machine

namespace Sys2Proof.Proofs

open Sys2Proof.Machine

/-- Settles O49: the record one stage down (`State.endHold_wind`) with its hold timer
(`Wind.lowered_holdTimer`), the wind check (`State.endHold_booking`), and a STOWING crane through its stage
change (`State.changeStage_unstowed`). -/
theorem holdTimerExpires : Obligations.HoldTimerExpires := by
  intro c s p hp
  refine ⟨fun running => congrArg Host.Outcome.next (State.endHold_of_running running), fun out above => ?_⟩
  intro w below again
  have wind := State.endHold_wind hp out above
  have own : (s.endHold c).wind c = w.lowered p.config := (wind c).trans (if_pos rfl)
  have stage : w.stage.below = below := by
    unfold below
    cases w.stage <;> rfl
  obtain ⟨gust, mean, blind⟩ := Wind.lowered_items p.config w
  have timer := Wind.lowered_holdTimer p.config w
  refine ⟨s.endHold c, rfl, windFrame_wind.endHold c s, ?_⟩
  rw [own]
  refine ⟨(Wind.lowered_stage p.config w).trans stage, gust, mean, blind, fun stop clear => ?_,
    fun stop unclear => ?_, fun restrict clear => ?_, fun restrict unclear => ?_, fun caution => ?_,
    fun d hd => (wind d).trans (if_neg hd), fun nodup b hb hc => own ▸ State.endHold_booking hp out above nodup hb hc,
    fun stop stowing => ?_⟩
  · rw [timer, stop]
    exact if_pos (descends_restrict_iff.2 clear)
  · rw [timer, stop]
    exact if_neg (mt descends_restrict_iff.1 unclear)
  · rw [timer, restrict]
    exact if_pos (descends_caution_iff.2 clear)
  · rw [timer, restrict]
    exact if_neg (mt descends_caution_iff.1 unclear)
  · rw [timer, caution]
    rfl
  · rw [State.endHold_of_out hp out above, stop]
    obtain ⟨q, hq, unstowed⟩ := State.changeStage_unstowed (s := s.setHold c _) hp stowing
      (new := Stage.below .stop) Stage.noConfusion .hold
    exact ⟨q, hq, unstowed.state, unstowed.factor, unstowed.timer, unstowed.notOverdue⟩

end Sys2Proof.Proofs

/-! ## HALT (R125, R129)

A raised cause that halts no crane starts no grant evaluation, so what it does is its latch alone
(`State.raise_of_kept`). -/

namespace Sys2Proof.Machine

/-! ### The rows of a planner request for a crane -/

theorem State.craneGate_absent {s : State} {c : CraneId} (absent : s.permit c = none) :
    s.craneGate c = some .notConfigured := by
  simp only [State.craneGate, absent]

theorem State.craneGate_offline {s : State} {c : CraneId} {p : Permit} (hp : s.permit c = some p)
    (offline : p.state = .offline) : s.craneGate c = some .notRegistered := by
  simp only [State.craneGate, hp, offline, if_true]

theorem serveHalt_badField {n : Byte} (bad : n.toNat = 0 ∨ 6 < n.toNat) (s : State) :
    serveHalt [n] s = refuse .badField s := by
  unfold serveHalt
  simp only [byteAt_cons_zero, craneOf_eq_none bad]

theorem serveHalt_refused {n : Byte} {c : CraneId} {s : State} {x : Result} (crane : n.toNat = c.val + 1)
    (gate : s.craneGate c = some x) : serveHalt [n] s = refuse x s := by
  unfold serveHalt
  simp only [byteAt_cons_zero, craneOf_eq_some crane, gate]

/-- The response shows the permit state behind the latch (R129). -/
theorem serveHalt_taken {n : Byte} {c : CraneId} {s : State} {p q : Permit} (crane : n.toNat = c.val + 1)
    (hp : s.permit c = some p) (registered : p.state ≠ .offline)
    (hq : (s.raise .plannerHalt c).permit c = some q) :
    serveHalt [n] s = ({ result := .ok, body := byte q.state.code }, s.raise .plannerHalt c) := by
  have gate : s.craneGate c = none :=
    State.craneGate_open (by simp [hp]) (by rwa [State.permitState_of_permit hp])
  unfold serveHalt
  simp only [byteAt_cons_zero, craneOf_eq_some crane, gate, State.permitState_of_permit hq]

/-! ### A cause raised for a crane that it does not halt (R125) -/

theorem Cause.idx_injective {a b : Cause} (h : a.idx = b.idx) : a = b := by
  cases a <;> cases b <;> first | rfl | cases h

theorem Permit.hasLatched_latch_iff {p : Permit} {a b : Cause} :
    (p.latch a).hasLatched b = true ↔ p.hasLatched b = true ∨ b = a := by
  by_cases h : b = a
  · simp [h, Permit.hasLatched_latch_self]
  · have other : b.idx ≠ a.idx := fun e => h (Cause.idx_injective e)
    simp [h, other, Permit.hasLatched, Permit.latch, Table.entry_edit]

theorem State.raise_of_kept {s t : State} {cause : Cause} {c : CraneId} (h : s.takeCause cause c = (false, t)) :
    s.raise cause c = t := by
  unfold State.raise
  rw [settle_cons]
  simp only [doTask, h, settle_nil]

section

variable {s : State} {c : CraneId} {p : Permit} (hp : s.permit c = some p) (registered : p.state ≠ .offline)
  (still : ¬p.state.halts)

include hp registered still

/-- A PLANNER_HALT that is latched already changes nothing (R125). -/
theorem State.raise_plannerHalt_latched (latched : p.hasLatched .plannerHalt = true) :
    s.raise .plannerHalt c = s :=
  State.raise_of_kept (State.takeCause_latched hp registered still latched)

/-- PLANNER_HALT latched in HALTED, STOWING or STOWED (R125). -/
theorem State.raise_plannerHalt_kept (new : p.hasLatched .plannerHalt = false) :
    (s.raise .plannerHalt c).permit c = some (p.latch .plannerHalt) := by
  rw [State.raise_of_kept (State.takeCause_keeps hp registered still rfl new)]
  simp [State.latchKeep, State.silenceEvent, hp]

end

end Sys2Proof.Machine

namespace Sys2Proof.Proofs

open Sys2Proof.Machine

/-- Settles O40: the refusals by the rows of `serveHalt`, the latch by `State.raise_halts` in the states that it
halts and by `State.raise_plannerHalt_kept` in the others. -/
theorem haltTaken : Obligations.HaltTaken := by
  intro tag n s hr
  refine ⟨fun bad => refusedAs_planner .halt rfl hr rfl (serveHalt_badField bad _), fun c crane =>
    ⟨fun absent => ?_, fun p hp => ?_⟩⟩
  · exact refusedAs_planner .halt rfl hr rfl (serveHalt_refused crane (State.craneGate_absent absent))
  have hp' : (s.underway .planner).permit c = some p := hp
  refine ⟨fun offline => ?_, fun halts => ?_, fun still => ?_⟩
  · exact refusedAs_planner .halt rfl hr rfl (serveHalt_refused crane (State.craneGate_offline hp' offline))
  · obtain ⟨⟨q, hq, state, factor, latched⟩, trip⟩ := State.raise_halts (cause := .plannerHalt) hp' halts rfl
    have taken := serveHalt_taken crane hp' (PermitState.halts.registered halts) hq
    rw [state] at taken
    exact ⟨_, q, servedAs_planner .halt rfl hr rfl taken rfl (handOffs_raise _ _ _), hq, state, factor, latched, trip⟩
  · have registered : p.state ≠ .offline := by rcases still with h | h | h <;> simp [h]
    have unmoved : ¬p.state.halts := by rcases still with h | h | h <;> simp [h, PermitState.halts]
    refine ⟨fun latched => ?_, fun new => ?_⟩
    · have same := State.raise_plannerHalt_latched hp' registered unmoved latched
      have taken := serveHalt_taken crane hp' registered (by rw [same, hp'])
      rw [same] at taken
      exact takenAs_planner .halt (eff := fun u => u) rfl hr rfl taken rfl (fun _ _ => rfl) rfl
    · have hq := State.raise_plannerHalt_kept hp' registered unmoved new
      have taken := serveHalt_taken crane hp' registered hq
      exact ⟨_, p.latch .plannerHalt, servedAs_planner .halt rfl hr rfl taken rfl (handOffs_raise _ _ _), hq, rfl,
        fun cause => Permit.hasLatched_latch_iff⟩

end Sys2Proof.Proofs

/-! ## ARM (R124, R131) -/

namespace Sys2Proof.Machine

/-- The rows of R124, with its second row read as "any state but DISARMED and STOWED". -/
theorem State.armRefusal_eq (s : State) (c : CraneId) (p : Permit) :
    s.armRefusal c p =
      if p.state = .offline then some .notRegistered
      else if p.state ≠ .disarmed ∧ p.state ≠ .stowed then some .wrongState
      else if p.state = .stowed ∧ p.stowedNote = false then some .wrongState
      else if p.clear = false then some .latched
      else if (s.position c).silent = true then some .silent
      else if (s.wind c).stage = .stop then some .wrongState
      else if (s.position c).unheld = true then some .occupiesUnheld
      else none := by
  unfold State.armRefusal
  simp only [Bool.not_eq_true]
  cases p.state <;> simp

/-- The permit of a taken ARM (R124, R131). -/
theorem Permit.arm_eq (p : Permit) (stage : Stage) :
    p.arm stage =
      let staged := if stage = .restrict then min 100 p.config.restrictFactor else 100
      let factor := if p.suspended then min staged 25 else staged
      { p with state := if factor = 100 then .running else .derated, factor := factor, stowedNote := false } := rfl

theorem serveArm_unconfigured {c : CraneId} {s : State} (absent : s.permit c = none) :
    serveArm c s = refuse .notConfigured s := by
  unfold serveArm
  simp only [absent]

theorem serveArm_refused {c : CraneId} {s : State} {p : Permit} {x : Result} (hp : s.permit c = some p)
    (row : s.armRefusal c p = some x) : serveArm c s = refuse x s := by
  unfold serveArm
  simp only [hp, row]

theorem serveArm_taken {c : CraneId} {s : State} {p q : Permit} (hp : s.permit c = some p)
    (free : s.armRefusal c p = none) (hq : (s.takeArm c p).permit c = some q) :
    serveArm c s = ({ result := .ok, body := byte q.state.code ++ byte q.factor }, s.takeArm c p) := by
  unfold serveArm
  simp only [hp, free, hq]

/-- A taken ARM writes the permit record, and what follows is grant evaluation (R55, R124). -/
theorem State.takeArm_handOffs (s : State) (c : CraneId) (p : Permit) :
    HandOffs (s.editPermit c fun _ => p.arm (s.wind c).stage) (s.takeArm c p) :=
  State.replacePermit_handOffs s c p _

end Sys2Proof.Machine

namespace Sys2Proof.Proofs

open Sys2Proof.Machine

/-- Settles O25: the rows by `State.armRefusal_eq`, the record by `Permit.arm_eq`. -/
theorem armTaken : Obligations.ArmTaken := by
  intro c tag s hr
  refine ⟨fun absent => refusedAs_crane .arm rfl hr rfl (serveArm_unconfigured absent), fun p hp => ?_⟩
  intro refusal staged factor
  have hp' : (s.underway (.crane c)).permit c = some p := hp
  have rows : (s.underway (.crane c)).armRefusal c p = refusal := State.armRefusal_eq _ c p
  refine ⟨fun x row => refusedAs_crane .arm rfl hr rfl (serveArm_refused hp' (rows.trans row)), fun free => ?_⟩
  have follows := (s.underway (.crane c)).takeArm_handOffs c p
  rw [Permit.arm_eq] at follows
  obtain ⟨q, hq, -⟩ := follows.permit ((State.editPermit_permit_same _ _ _).trans (congrArg _ hp'))
  exact ⟨_, q, servedAs_crane .arm rfl hr rfl (serveArm_taken hp' (rows.trans free) hq) rfl follows, hq⟩

end Sys2Proof.Proofs

/-! ## SET_TRIP_MASK (R127)

Each unmasked cause is raised or not (`State.raiseIf`), INTRUSION first. What INTRUSION starts changes no wind
record, so both conditions are read from the state that the request finds (`State.takeMask_eq`). -/

namespace Sys2Proof.Machine

/-! ### The mask bytes (R127, R162) -/

theorem flagOf_eq_none {n : Nat} (h : 1 < n) : flagOf n = none := by
  match n, h with
  | _ + 2, _ => rfl

theorem flagOf_eq_some {n : Nat} {x : Bool} (h : flagOf n = some x) : n = if x then 1 else 0 := by
  match n, h with
  | 0, h => cases h; rfl
  | 1, h => cases h; rfl

theorem flagOf_byte {m : Byte} (h : m.toNat ≤ 1) : flagOf m.toNat = some (m == 0x01#8) := by
  obtain rfl | rfl : m = 0x00#8 ∨ m = 0x01#8 := by bv_omega
  all_goals rfl

theorem masksOf_eq_none {n m1 m2 m3 m4 m5 m6 : Byte}
    (bad : m1 ≠ 0x00#8 ∨ 1 < m2.toNat ∨ m3 ≠ 0x00#8 ∨ m4 ≠ 0x00#8 ∨ m5 ≠ 0x00#8 ∨ 1 < m6.toNat) :
    masksOf [n, m1, m2, m3, m4, m5, m6] = none := by
  unfold masksOf
  simp only [byteAt_cons_zero, byteAt_cons_succ]
  split
  · next i l h1 h2 h3 h4 h5 h6 =>
    have clear {m : Byte} (h : flagOf m.toNat = some false) : m = 0x00#8 := BitVec.eq_of_toNat_eq (flagOf_eq_some h)
    have flag {m : Byte} {x : Bool} (h : flagOf m.toNat = some x) : ¬1 < m.toNat := by
      rw [flagOf_eq_some h]
      cases x <;> decide
    rcases bad with h | h | h | h | h | h
    · exact absurd (clear h1) h
    · exact absurd h (flag h2)
    · exact absurd (clear h3) h
    · exact absurd (clear h4) h
    · exact absurd (clear h5) h
    · exact absurd h (flag h6)
  · rfl

theorem masksOf_eq_some {n i l : Byte} (hi : i.toNat ≤ 1) (hl : l.toNat ≤ 1) :
    masksOf [n, 0x00#8, i, 0x00#8, 0x00#8, 0x00#8, l] = some (i == 0x01#8, l == 0x01#8) := by
  unfold masksOf
  simp only [byteAt_cons_zero, byteAt_cons_succ, flagOf_byte hi, flagOf_byte hl]
  rfl

theorem serveSetTripMask_badField {n m1 m2 m3 m4 m5 m6 : Byte} (s : State)
    (bad : n.toNat = 0 ∨ 6 < n.toNat ∨ m1 ≠ 0x00#8 ∨ 1 < m2.toNat ∨ m3 ≠ 0x00#8 ∨ m4 ≠ 0x00#8 ∨ m5 ≠ 0x00#8 ∨
      1 < m6.toNat) :
    serveSetTripMask [n, m1, m2, m3, m4, m5, m6] s = refuse .badField s := by
  unfold serveSetTripMask
  rw [byteAt_cons_zero]
  rw [← or_assoc] at bad
  rcases bad with crane | mask
  · rw [craneOf_eq_none crane]
  · rw [masksOf_eq_none mask]
    cases craneOf n.toNat <;> rfl

section

variable {c : CraneId} {body : List Byte} {s : State} {i l : Bool} (crane : byteAt body 0 = c.val + 1)
  (masks : masksOf body = some (i, l))

include crane masks

theorem serveSetTripMask_unconfigured (absent : s.permit c = none) :
    serveSetTripMask body s = refuse .notConfigured s := by
  unfold serveSetTripMask
  simp only [craneOf_eq_some crane, masks, absent]

theorem serveSetTripMask_taken {p : Permit} (hp : s.permit c = some p) :
    serveSetTripMask body s = ({ result := .ok }, s.takeMask c p i l) := by
  unfold serveSetTripMask
  simp only [craneOf_eq_some crane, masks, hp]

end

/-! ### A cause raised where a condition holds -/

/-- The cause is raised for the crane where the condition holds. -/
def State.raiseIf (b : Bool) (cause : Cause) (c : CraneId) (s : State) : State :=
  if b then s.raise cause c else s

theorem State.raiseIf_handOffs (b : Bool) (cause : Cause) (c : CraneId) (s : State) :
    HandOffs s (s.raiseIf b cause c) := by
  cases b
  · exact .refl s
  · exact handOffs_raise cause c s

theorem State.raiseIf_caught {s : State} {b : Bool} {cause : Cause} {c : CraneId} {p : Permit} (hb : b = true)
    (hp : s.permit c = some p) (registered : p.state ≠ .offline) (unmasked : p.masks cause = false) :
    (s.raiseIf b cause c).caught cause c := by
  rw [hb]
  exact State.raise_caught hp registered unmasked

/-! ### A taken SET_TRIP_MASK -/

/-- A permit record with both masks written (R127). -/
def Permit.masked (i l : Bool) (p : Permit) : Permit := { p with maskIntrusion := i, maskSensorLoss := l }

/-- The state with both masks written, and INTRUSION raised where it was unmasked under its condition. -/
def State.maskedIntrusion (c : CraneId) (p : Permit) (i l : Bool) (s : State) : State :=
  (s.editPermit c (Permit.masked i l)).raiseIf (p.maskIntrusion && !i && s.intruded c) .intrusion c

section

variable (s : State) (c : CraneId) (p : Permit) (i l : Bool)

theorem State.maskedIntrusion_handOffs :
    HandOffs (s.editPermit c (Permit.masked i l)) (s.maskedIntrusion c p i l) :=
  State.raiseIf_handOffs _ _ _ _

theorem State.takeMask_eq :
    s.takeMask c p i l =
      (s.maskedIntrusion c p i l).raiseIf (p.maskSensorLoss && !l && (s.wind c).blind) .sensorLoss c := by
  have wind : (s.maskedIntrusion c p i l).wind c = s.wind c :=
    State.wind_of_winds (s.maskedIntrusion_handOffs c p i l).winds c
  rw [← wind]
  rfl

theorem State.takeMask_follows : HandOffs (s.maskedIntrusion c p i l) (s.takeMask c p i l) := by
  rw [State.takeMask_eq]
  exact State.raiseIf_handOffs _ _ _ _

theorem State.takeMask_handOffs : HandOffs (s.editPermit c (Permit.masked i l)) (s.takeMask c p i l) :=
  (s.maskedIntrusion_handOffs c p i l).trans (s.takeMask_follows c p i l)

end

section

variable {s : State} {c : CraneId} {p : Permit} (hp : s.permit c = some p) (l : Bool)

include hp

theorem State.editPermit_masked (i : Bool) :
    (s.editPermit c (Permit.masked i l)).permit c = some (p.masked i l) := by
  rw [State.editPermit_permit_same, hp]
  rfl

/-- INTRUSION unmasked while its condition holds is caught within the request (R127). -/
theorem State.takeMask_intrusion (registered : p.state ≠ .offline) (before : p.maskIntrusion = true)
    (intruded : s.intruded c = true) : (s.takeMask c p false l).caught .intrusion c :=
  (s.takeMask_follows c p false l).caught
    (State.raiseIf_caught (by rw [before, intruded]; rfl) (State.editPermit_masked hp l false) registered rfl)

/-- SENSOR_LOSS unmasked while its condition holds is caught within the request (R127). -/
theorem State.takeMask_sensorLoss (i : Bool) (registered : p.state ≠ .offline) (before : p.maskSensorLoss = true)
    (blind : (s.wind c).blind = true) : (s.takeMask c p i false).caught .sensorLoss c := by
  obtain ⟨q, hq, latches⟩ := (s.maskedIntrusion_handOffs c p i false).permit (State.editPermit_masked hp false i)
  rw [State.takeMask_eq]
  exact State.raiseIf_caught (by rw [before, blind]; rfl) hq (latches.not_offline registered)
    ((latches.masks .sensorLoss).trans rfl)

end

/-- A cause caught for a crane that was DISARMED, RUNNING or DERATED leaves it HALTED (R125). -/
theorem State.caught.halts {s : State} {cause : Cause} {c : CraneId} {p q : Permit} (h : s.caught cause c)
    (hq : s.permit c = some q) (latches : p.mayLatch q) (hp : p.state.halts) :
    q.state = .halted ∧ q.hasLatched cause = true := by
  obtain ⟨latched, unmoved⟩ := h.latched hq
  exact ⟨(latches.halted hp unmoved).1, latched⟩

end Sys2Proof.Machine

namespace Sys2Proof.Proofs

open Sys2Proof.Machine

/-- Settles O31: the masks by `masksOf_eq_some`, what follows by `State.takeMask_handOffs`, the causes unmasked by
`State.takeMask_intrusion` and `State.takeMask_sensorLoss`. -/
theorem tripMaskSet : Obligations.TripMaskSet := by
  intro tag n m1 m2 m3 m4 m5 m6 s hr b
  refine ⟨fun bad => refusedAs_planner .setTripMask rfl hr rfl (serveSetTripMask_badField _ bad), ?_⟩
  rintro c crane rfl hi rfl rfl rfl hl
  have number : byteAt b 0 = c.val + 1 := crane
  have masks : masksOf b = some (m2 == 0x01#8, m6 == 0x01#8) := masksOf_eq_some hi hl
  refine ⟨fun absent => refusedAs_planner .setTripMask rfl hr rfl (serveSetTripMask_unconfigured number masks absent),
    fun p hp => ?_⟩
  have hp' : (s.underway .planner).permit c = some p := hp
  have follows := (s.underway .planner).takeMask_handOffs c p (m2 == 0x01#8) (m6 == 0x01#8)
  obtain ⟨q, hq, latches⟩ := follows.permit (State.editPermit_masked hp' _ _)
  refine ⟨_, q, servedAs_planner .setTripMask rfl hr rfl (serveSetTripMask_taken number masks hp') rfl follows, hq,
    latches.2.1, fun halts => ⟨?_, ?_⟩⟩
  · rintro before rfl intruded
    exact (State.takeMask_intrusion hp' _ (PermitState.halts.registered halts) before intruded).halts hq latches halts
  · rintro before rfl blind
    exact (State.takeMask_sensorLoss hp' _ (PermitState.halts.registered halts) before blind).halts hq latches halts

end Sys2Proof.Proofs

/-! ## CONFIG_CRANE (R120, R121) -/

namespace Sys2Proof.Machine

/-! ### The fields of the body (R98, R120) -/

theorem channelOf_eq_none {n : Nat} (h : 7 < n) : channelOf n = none := by
  rw [channelOf, dif_neg (by omega)]

theorem channelOf_eq_some {n : Nat} {k : ChannelId} : channelOf n = some k ↔ k.val = n := by
  unfold channelOf
  split
  · simp only [Option.some.injEq, Fin.ext_iff]
    exact eq_comm
  · have := k.isLt
    simp only [reduceCtorEq, false_iff]
    omega

theorem fallbackOf_eq_none {n : Nat} (h : 7 < n) (absent : n ≠ 255) : fallbackOf n = none := by
  rw [fallbackOf, if_neg absent, channelOf_eq_none h]
  rfl

/-- A fallback is absent where its byte is FF (R98, R162). -/
theorem fallbackOf_absent_iff {n : Nat} {o : Option ChannelId} (h : fallbackOf n = some o) : o = none ↔ n = 255 := by
  unfold fallbackOf at h
  split at h
  · next absent => simp [absent, ← Option.some.inj h]
  · next present =>
    obtain ⟨k, -, rfl⟩ := Option.map_eq_some_iff.1 h
    simp [present]

theorem fallbackOf_isSome {n : Nat} (h : n ≤ 7 ∨ n = 255) : ∃ o, fallbackOf n = some o := by
  unfold fallbackOf
  split
  · exact ⟨_, rfl⟩
  · next present =>
    have low : n < 8 := by omega
    exact ⟨some ⟨n, low⟩, by simp [channelOf, low]⟩

/-- The thresholds of a body, clamped, rise (R105, R120). -/
def thresholdsRise (b : List Byte) : Prop :=
  clamp 50 500 (wordAt b 12) < clamp 50 500 (wordAt b 14) ∧
    clamp 50 500 (wordAt b 14) < clamp 50 500 (wordAt b 16)

theorem configOf_eq_none {b : List Byte}
    (bad : 7 < byteAt b 9 ∨ (7 < byteAt b 10 ∧ byteAt b 10 ≠ 255) ∨ ¬thresholdsRise b) : configOf b = none := by
  unfold configOf
  rcases bad with primary | ⟨range, absent⟩ | order
  · rw [channelOf_eq_none primary]
  · rw [fallbackOf_eq_none range absent]
    cases channelOf (byteAt b 9) <;> rfl
  · split
    · exact if_neg order
    · rfl

theorem configOf_isSome {b : List Byte} (primary : byteAt b 9 ≤ 7) (fallback : byteAt b 10 ≤ 7 ∨ byteAt b 10 = 255)
    (order : thresholdsRise b) : ∃ g, configOf b = some g := by
  have found : channelOf (byteAt b 9) = some ⟨byteAt b 9, by omega⟩ := channelOf_eq_some.2 rfl
  obtain ⟨o, ho⟩ := fallbackOf_isSome fallback
  unfold configOf
  simp only [found, ho]
  exact ⟨_, if_pos order⟩

theorem clamp_bounds {lo hi : Nat} (h : lo ≤ hi) (x : Nat) : lo ≤ clamp lo hi x ∧ clamp lo hi x ≤ hi := by
  unfold clamp
  omega

theorem restrictFactorOf_bounds (n : Nat) : 10 ≤ restrictFactorOf n ∧ restrictFactorOf n ≤ 90 := by
  unfold restrictFactorOf
  split
  · decide
  · exact clamp_bounds (by decide) n

/-- A configuration read from a body: each field in its range, the channels and the restrict factor by their
bytes (R120). -/
theorem configOf_eq_some {b : List Byte} {g : CraneConfig} (h : configOf b = some g) :
    g.InRange ∧ g.primary.val = byteAt b 9 ∧ (g.fallback = none ↔ byteAt b 10 = 255) ∧
      g.restrictFactor = restrictFactorOf (byteAt b 29) := by
  unfold configOf at h
  split at h
  · next prim fb primary fallback =>
    dsimp only at h
    split at h
    · next order =>
      obtain rfl := Option.some.inj h
      have low : 50 ≤ clamp 50 500 (wordAt b 12) := (clamp_bounds (by decide) _).1
      have high : clamp 50 500 (wordAt b 16) ≤ 500 := (clamp_bounds (by decide) _).2
      refine ⟨⟨Nat.min_le_left _ _, clamp_bounds (by decide) _, Nat.min_le_left _ _, Nat.min_le_left _ _,
        Nat.min_le_left _ _, clamp_bounds (by decide) _, Nat.min_le_left _ _, ⟨low, order.1, order.2, high⟩,
        clamp_bounds (by decide) _, Nat.min_le_left _ _, clamp_bounds (by decide) _, clamp_bounds (by decide) _,
        clamp_bounds (by decide) _, clamp_bounds (by decide) _, restrictFactorOf_bounds _⟩,
        channelOf_eq_some.1 primary, fallbackOf_absent_iff fallback, rfl⟩
    · cases h
  · cases h

/-! ### The rows of R120 -/

theorem serveConfigCrane_unnumbered {b : List Byte} (bad : byteAt b 0 = 0 ∨ 6 < byteAt b 0) (s : State) :
    serveConfigCrane b s = refuse .badField s := by
  unfold serveConfigCrane
  simp only [craneOf_eq_none bad]

section

variable {b : List Byte} {c : CraneId} {s : State} (crane : byteAt b 0 = c.val + 1)

include crane

theorem serveConfigCrane_active (registered : s.permitState c ≠ .offline) (unrested : s.permitState c ≠ .disarmed) :
    serveConfigCrane b s = refuse .craneActive s := by
  unfold serveConfigCrane
  simp only [craneOf_eq_some crane]
  exact if_pos ⟨registered, unrested⟩

/-- An OFFLINE or DISARMED crane is configured as its body says (R120). -/
theorem serveConfigCrane_rested (rest : s.permitState c = .offline ∨ s.permitState c = .disarmed) :
    serveConfigCrane b s =
      ((configOf b).map fun g => (({ result := .ok } : Reply), s.takeConfig c g)).getD (refuse .badField s) := by
  have unmoved : ¬(s.permitState c ≠ .offline ∧ s.permitState c ≠ .disarmed) := by
    rintro ⟨registered, unrested⟩
    exact rest.elim registered unrested
  unfold serveConfigCrane
  simp only [craneOf_eq_some crane, unmoved, if_false]
  cases configOf b <;> rfl

end

/-! ### A taken CONFIG_CRANE (R121) -/

/-- Stages 1 and 2 of R121 write the permit record alone: `f` says what becomes of an absent and of a present
one. -/
theorem State.storeConfig_eq (s : State) (c : CraneId) (g : CraneConfig) {f : Option Permit → Option Permit}
    (absent : f none = some { config := g, suspended := s.suspendedBooking c })
    (present : ∀ p, f (some p) = some { p with config := g }) :
    s.storeConfig c g = { s with permits := Table.edit s.permits c f } := by
  unfold State.storeConfig
  congr 2
  funext o
  cases o with
  | none => exact absent.symm
  | some p => exact (present p).symm

/-- Stages 3 to 5 of R121 stay within the wind's frame: levels, the recomputation, the governing evaluation. -/
theorem State.takeConfig_windFrame (s : State) (c : CraneId) (g : CraneConfig) {f : Option Permit → Option Permit}
    (absent : f none = some { config := g, suspended := s.suspendedBooking c })
    (present : ∀ p, f (some p) = some { p with config := g }) :
    WindFrame { s with permits := Table.edit s.permits c f } (s.takeConfig c g) := by
  rw [← State.storeConfig_eq s c g absent present]
  unfold State.takeConfig
  dsimp only
  refine .trans (.trans ?_ (.of_handOffs (handOffs_recompute c _))) (windFrame_wind.governAll c _)
  split
  · exact windFrame_wind.toLevelMoves.relevelAll c _ _
  · exact .refl _

end Sys2Proof.Machine

namespace Sys2Proof.Proofs

open Sys2Proof.Machine

/-- Settles O29: the rows by `serveConfigCrane_rested` and `configOf_eq_none`, the fields by `configOf_eq_some`, the
record and what follows by `State.takeConfig_windFrame`. -/
theorem craneConfigured : Obligations.CraneConfigured := by
  intro tag b s hr hb
  refine ⟨fun bad => refusedAs_planner .configCrane rfl hr hb (serveConfigCrane_unnumbered bad _), fun c crane =>
    ⟨fun registered unrested => ?_, fun rest => ⟨fun bad => ?_, fun primary fallback low high => ?_⟩⟩⟩
  · exact refusedAs_planner .configCrane rfl hr hb (serveConfigCrane_active crane registered unrested)
  · have refused := serveConfigCrane_rested (s := s.underway .planner) crane rest
    rw [configOf_eq_none bad] at refused
    exact refusedAs_planner .configCrane rfl hr hb refused
  · obtain ⟨g, hg⟩ := configOf_isSome primary fallback ⟨low, high⟩
    have taken := serveConfigCrane_rested (s := s.underway .planner) crane rest
    rw [hg] at taken
    obtain ⟨ranges, prim, absent, factor⟩ := configOf_eq_some hg
    obtain ⟨stageLow, stageCaution, stageRestrict, stageHigh⟩ := ranges.stages
    exact ⟨g, _, hg, servedAs_planner .configCrane rfl hr hb taken rfl
        ((s.underway .planner).takeConfig_windFrame c g rfl fun _ => rfl),
      ranges.base, ranges.stopTime.1, ranges.stopTime.2, ranges.margin, ranges.windGain, ranges.windMax,
      ranges.reportTime.1, ranges.reportTime.2, prim, absent, ranges.fbm, stageLow, stageCaution, stageRestrict,
      stageHigh, ranges.stopMean.1, ranges.stopMean.2, ranges.hysteresis, ranges.holdCaution.1,
      ranges.holdCaution.2, ranges.holdRestrict.1, ranges.holdRestrict.2, ranges.holdStop.1, ranges.holdStop.2,
      ranges.stowTime.1, ranges.stowTime.2, factor⟩

end Sys2Proof.Proofs

/-! ## HELLO from a registered crane (R123)

Stage 1 acts on the zones of the crane's own claims one by one (`State.unclaimed_local`) and leaves every permit,
so stage 2 disarms the record that the HELLO finds, and its grant evaluation is a hand-off. -/

namespace Sys2Proof.Machine

/-! ### Own claims dropped (R123 stage 1) -/

theorem find?_dropCrane_self (c : CraneId) (q : List Claim) : (dropCrane c q).find? (·.crane == c) = none := by
  rw [List.find?_eq_none]
  intro cl hcl
  simpa using (mem_dropCrane.1 hcl).2

/-- A zone without the claims of crane `c`. -/
def ZoneDyn.without (c : CraneId) (d : ZoneDyn) : ZoneDyn := { d with queue := dropCrane c d.queue }

theorem ZoneDyn.without_without (c : CraneId) (d : ZoneDyn) : (d.without c).without c = d.without c := by
  simp only [ZoneDyn.without, dropCrane_dropCrane]

/-- A claim removed acts on its zone alone (R57). -/
theorem State.removeClaim_acts (z : ZoneId) (c : CraneId) (s : State) :
    ActsOn z (fun a b => b.sans = a.sans.without c) s (s.removeClaim z c) :=
  ActsOn.examine (f := ZoneDyn.without c) (.editZone s z _)

/-- Stage 1 of R123: the claims that are neither booked nor emergency claims are dropped. -/
def State.unclaimed (c : CraneId) (s : State) : State :=
  s.eachOpen Fin.val (s.ownClaimZones c) fun z s => s.removeClaim z c

theorem State.unclaimed_local (c : CraneId) (s : State) :
    TableStands s (s.unclaimed c) ∧
      ∀ z, (z ∈ s.ownClaimZones c → ((s.unclaimed c).zone z).sans = (s.zone z).sans.without c) ∧
        (z ∉ s.ownClaimZones c → (s.unclaimed c).zone z = s.zone z) :=
  (State.eachOpen_local (P := fun _ => True) (G := fun _ a b => b.sans = a.sans.without c)
    (fun _ _ _ _ h k => by rw [k, h, ZoneDyn.without_without]) (fun z s _ => s.removeClaim_acts z c)
    (fun _ _ _ => trivial) (s.ownClaimZones c) trivial).2

theorem State.unclaimed_frame (c : CraneId) (s : State) : CalendarFrame s (s.unclaimed c) :=
  calendarFrame_site.toZoneMoves.eachOpen _ _ _
    (fun z _ s => .trans (.editZone s z _) (calendarFrame_site.toZoneMoves.cascade.examine z _)) s

theorem State.unclaimed_permit (c d : CraneId) (s : State) : (s.unclaimed c).permit d = s.permit d := by
  simp only [State.permit, (s.unclaimed_local c).1.permits]

/-- What is left of the crane's claims is booked or an emergency claim (R123). -/
theorem State.unclaimed_claimOf {s : State} {c : CraneId} {z : ZoneId} {cl : Claim}
    (h : (s.unclaimed c).claimOf z c = some cl) : cl.booked = true ∨ cl.emergency = true := by
  obtain ⟨-, zones⟩ := s.unclaimed_local c
  by_cases own : z ∈ s.ownClaimZones c
  · have queue : ((s.unclaimed c).zone z).queue = dropCrane c (s.zone z).queue :=
      congrArg ZoneDyn.queue ((zones z).1 own)
    rw [State.claimOf, queue, find?_dropCrane_self] at h
    cases h
  · rw [State.claimOf, (zones z).2 own] at h
    have kept : s.claimOf z c = some cl := h
    by_contra plain
    simp only [not_or, Bool.not_eq_true] at plain
    exact own (by simp [State.ownClaimZones, allZones, kept, plain])

theorem State.unclaimed_heldBy (s : State) (c d : CraneId) (z : ZoneId) :
    (s.unclaimed c).heldBy z d = s.heldBy z d := by
  obtain ⟨-, zones⟩ := s.unclaimed_local c
  by_cases own : z ∈ s.ownClaimZones c
  · have dropped : (s.editZone z (ZoneDyn.without c)).heldBy z d = s.heldBy z d := by
      simp [State.heldBy, State.holding, ZoneDyn.without]
    rw [← dropped]
    refine State.heldBy_congr ?_ d
    rw [(zones z).1 own, State.editZone_zone_same]
    rfl
  · exact State.heldBy_congr (congrArg ZoneDyn.sans ((zones z).2 own)) d

/-- Hand-offs place no claim and change none that stays (R54, R56). -/
theorem HandOffs.claimOf {s t : State} (h : HandOffs s t) {z : ZoneId} {c : CraneId} {cl : Claim}
    (hc : t.claimOf z c = some cl) : s.claimOf z c = some cl := by
  have queue : (t.zone z).queue = (s.zone z).queue ∨ ∃ d, (t.zone z).queue = dropCrane d (s.zone z).queue := by
    obtain ⟨-, -, states⟩ := h.zones z
    split at states
    · exact .inl (congrArg ZoneDyn.queue states)
    · exact .inl (congrArg ZoneDyn.queue states)
    · exact .inl states.1
    · rcases states with same | ⟨-, granted, -, -, dropped, -⟩
      · exact .inl (congrArg ZoneDyn.queue same)
      · exact .inr ⟨granted.crane, dropped⟩
  unfold State.claimOf at hc ⊢
  rcases queue with same | ⟨d, dropped⟩
  · rwa [same] at hc
  · rw [dropped] at hc
    by_cases own : c = d
    · rw [own, find?_dropCrane_self] at hc
      cases hc
    · rwa [find?_dropCrane_other own] at hc

/-! ### The permit disarmed (R123 stage 2) -/

theorem Permit.disarm_armed {p : Permit} (h : p.state = .running ∨ p.state = .derated) :
    p.disarm = { p with state := .disarmed, factor := 0 } := by
  refine if_pos ?_
  rcases h with h | h <;> rw [h] <;> rfl

theorem Permit.disarm_unarmed {p : Permit} (running : p.state ≠ .running) (derated : p.state ≠ .derated) :
    p.disarm = p := by
  refine if_neg ?_
  cases h : p.state <;> simp_all [PermitState.armed]

theorem Permit.disarm_shift (p : Permit) : permitMayShift (some p) (some p.disarm) := by
  show p.disarm = _
  unfold Permit.disarm
  split <;> rfl

/-- A latch leaves a DISARMED crane at factor 0 so, or HALTED (R125). -/
theorem Permit.mayLatch.disarmed {p q : Permit} (h : p.mayLatch q) (state : p.state = .disarmed)
    (factor : p.factor = 0) : (q.state = .disarmed ∨ q.state = .halted) ∧ q.factor = 0 := by
  obtain ⟨-, -, states⟩ := h
  rw [state] at states
  rcases states with rfl | ⟨halted, stopped, -⟩
  · exact ⟨.inl state, factor⟩
  · exact ⟨.inr halted, stopped⟩

section

variable {s : State} {c : CraneId} {p : Permit} (hp : s.permit c = some p)

include hp

theorem State.rehello_eq : s.rehello c = (s.unclaimed c).replacePermit c p p.disarm := by
  have record : (s.unclaimed c).permit c = some p := by rw [State.unclaimed_permit, hp]
  show (match (s.unclaimed c).permit c with
    | none => s.unclaimed c
    | some p => (s.unclaimed c).replacePermit c p p.disarm) = _
  rw [record]

theorem State.rehello_handOffs : HandOffs ((s.unclaimed c).editPermit c fun _ => p.disarm) (s.rehello c) := by
  rw [State.rehello_eq hp]
  exact State.replacePermit_handOffs _ c p _

theorem State.rehello_frame : CalendarFrame s (s.rehello c) := by
  have record : (s.unclaimed c).permit c = some p := by rw [State.unclaimed_permit, hp]
  exact .trans (.trans (s.unclaimed_frame c) (.editPermit _ c p _ record p.disarm_shift))
    (.of_handOffs (State.rehello_handOffs hp))

theorem State.rehello_permit : ∃ q, (s.rehello c).permit c = some q ∧ p.disarm.mayLatch q := by
  refine (State.rehello_handOffs hp).permit ?_
  rw [State.editPermit_permit_same, State.unclaimed_permit, hp]
  rfl

/-- A crane that is not armed keeps its record: no change of its permit, and no grant evaluation (R123). -/
theorem State.rehello_permit_unarmed (running : p.state ≠ .running) (derated : p.state ≠ .derated) :
    (s.rehello c).permit c = some p := by
  have kept : s.rehello c = (s.unclaimed c).editPermit c fun _ => p := by
    rw [State.rehello_eq hp, Permit.disarm_unarmed running derated]
    exact if_pos rfl
  rw [kept, State.editPermit_permit_same, State.unclaimed_permit, hp]
  rfl

theorem serveHello_again {body : List Byte} {q : Permit} (number : byteAt body 0 = c.val + 1)
    (registered : p.state ≠ .offline) (area : (s.box c).capacity ≠ 0) (hq : (s.rehello c).permit c = some q) :
    serveHello c body s =
      ({ result := .ok, body := byte q.state.code ++ byte q.factor ++ byte ((s.rehello c).wind c).stage.rank ++
          byte (q.latched.toList.filter id).length }, s.rehello c) := by
  unfold serveHello
  simp only [number, craneNumber, ne_eq, not_true_eq_false, if_false, hp, area, registered,
    State.helloBody_of_permit hq]

end

end Sys2Proof.Machine

namespace Sys2Proof.Proofs

open Sys2Proof.Machine

/-- Settles O15: claims, holdings and bookings through `State.unclaimed_local` and `State.rehello_handOffs`, the
permit by `State.rehello_permit` where it is armed and `State.rehello_permit_unarmed` where it is not. -/
theorem helloAgain : Obligations.HelloAgain := by
  intro c tag p s hr hp registered area
  have hp' : (s.underway (.crane c)).permit c = some p := hp
  obtain ⟨q, hq, latches⟩ := State.rehello_permit hp'
  have frame := State.rehello_frame hp'
  have follows := State.rehello_handOffs hp'
  have taken := serveHello_again (body := [BitVec.ofNat 8 (c.val + 1)]) hp' (toNat_ofNat_crane c) registered
    (Nat.ne_of_gt area) hq
  rw [State.wind_of_winds frame.winds c] at taken
  refine ⟨_, q, servedAs_crane .hello rfl hr rfl taken rfl frame, hq, fun armed => ?_, fun running derated => ?_,
    fun z cl claim => State.unclaimed_claimOf (follows.claimOf claim), fun z held => follows.heldBy ?_,
    follows.bookings.trans ((s.underway (.crane c)).unclaimed_local c).1.bookings⟩
  · rw [Permit.disarm_armed armed] at latches
    exact latches.disarmed rfl rfl
  · rw [Option.some.inj (hq.symm.trans (State.rehello_permit_unarmed hp' running derated))]
  · exact ((s.underway (.crane c)).unclaimed_heldBy c c z).trans held

end Sys2Proof.Proofs

/-! ## The bookings of the table taken one by one (R149, R158, R159)

An operation on one booking leaves every other as it is, the terminal order of an ended one apart (R144), so in
a round over the table each booking is taken once, as it stood before the round (`State.eachOpen_takes`). -/

namespace Sys2Proof.Machine

/-! ### The booking beside the one operated on -/

/-- A booking through the end of another: it stands, an ended one but for its terminal order (R144). -/
structure Booking.Reordered (b b' : Booking) : Prop where
  entry : b' = { b with terminalOrder := b'.terminalOrder }
  stands : b.state.terminal = false → b' = b

/-- The entry of the id, where the table has one, has at most got another terminal order. -/
def EntryStands (n : Nat) (s t : State) : Prop :=
  ∀ b, s.bookingById n = some b → ∃ b', t.bookingById n = some b' ∧ b.Reordered b'

theorem EntryStands.refl (n : Nat) (s : State) : EntryStands n s s := fun b hb => ⟨b, hb, rfl, fun _ => rfl⟩

theorem EntryStands.trans {n : Nat} {s t u : State} (h : EntryStands n s t) (k : EntryStands n t u) :
    EntryStands n s u := fun b hb => by
  obtain ⟨x, hx, hxe, hxs⟩ := h b hb
  obtain ⟨y, hy, hye, hys⟩ := k x hx
  refine ⟨y, hy, by rw [hye, hxe], fun running => ?_⟩
  obtain rfl := hxs running
  exact hys running

theorem EntryStands.running {n : Nat} {s t : State} (h : EntryStands n s t) {b : Booking}
    (hb : s.bookingById n = some b) (running : b.state.terminal = false) : t.bookingById n = some b := by
  obtain ⟨b', hb', -, stands⟩ := h b hb
  exact stands running ▸ hb'

section

variable {n id : Nat} (other : n ≠ id)
include other

/-- An edit of the entries of another id. -/
theorem entryStands_edit {s t : State} {f : Booking → Booking} (ht : t.bookings = (s.editBooking id f).bookings)
    (hf : ∀ b, (f b).id = b.id) : EntryStands n s t := fun b hb => by
  have found := s.editBooking_bookingById id n f hf
  rw [if_neg other, hb] at found
  exact ⟨b, by simpa only [State.bookingById, ht] using found, rfl, fun _ => rfl⟩

theorem State.recordEnd_beside (new : BookingState) (s : State) : EntryStands n s (s.recordEnd id new) := by
  by_cases ends : new.terminal = true
  · intro b hb
    have hid (o : Booking) : (s.ended id new o).id = o.id := by
      unfold State.ended
      split <;> rw [s.recounted_eq o]
    have beside : s.ended id new b = s.recounted b := if_neg (State.bookingById_id hb ▸ other)
    refine ⟨s.recounted b, ?_, s.recounted_eq b, fun running => if_neg (by simp [running])⟩
    rw [State.recordEnd_eq s id ends]
    simp only [State.bookingById, List.find?_map, Function.comp_def, hid]
    exact (congrArg _ hb).trans (congrArg some beside)
  · refine entryStands_edit other
      (f := fun b => { b with state := new, remaining := 0, short := false, notPlaced := 0 }) ?_ fun _ => rfl
    rw [State.recordEnd, if_neg ends]

theorem State.armBooking_beside (cause : BookingCause) (s : State) : EntryStands n s (s.armBooking id cause) := by
  cases hb : s.bookingById id with
  | none =>
    rw [State.armBooking, hb]
    exact .refl n s
  | some b =>
    obtain ⟨k, -, table, -, -⟩ := State.armBooking_bookings cause hb
    exact entryStands_edit other table fun _ => rfl

theorem State.startBooking_beside (left : Nat) (cause : BookingCause) (s : State) :
    EntryStands n s (s.startBooking id left cause) := by
  cases hb : s.bookingById id with
  | none =>
    rw [State.startBooking, hb]
    exact .refl n s
  | some b => exact entryStands_edit other (State.startBooking_bookings left cause hb).1.bookings fun _ => rfl

theorem State.endBooking_beside (new : BookingState) (cause : BookingCause) (s : State) :
    EntryStands n s (s.endBooking id new cause) := by
  cases hb : s.bookingById id with
  | none =>
    rw [State.endBooking, hb]
    exact .refl n s
  | some b =>
    obtain rfl := State.bookingById_id hb
    intro a ha
    rw [(State.endBooking_table new cause hb).bookingById]
    exact State.recordEnd_beside other new s a ha

theorem State.runOut_beside (s : State) : EntryStands n s (s.runOut id) := by
  unfold State.runOut
  split
  · exact .refl n s
  · split
    · exact State.endBooking_beside other _ _ s
    · exact State.endBooking_beside other _ _ (s.setEvent .booking)
    all_goals exact .refl n s

/-- The tick of one booking beside the others (R149). -/
theorem State.tickBooking_beside (w m : Nat) (s : State) : EntryStands n s (s.tickBooking w m id) := by
  have run (b : Booking) : EntryStands n s
      (let s' := s.editBooking id fun b => { b with remaining := b.remaining - 1 }
       if b.remaining ≤ 1 then s'.runOut id else s') := by
    have minute : EntryStands n s (s.editBooking id fun b => { b with remaining := b.remaining - 1 }) :=
      entryStands_edit other rfl fun _ => rfl
    dsimp only
    split
    · exact minute.trans (State.runOut_beside other _)
    · exact minute
  unfold State.tickBooking
  split
  · exact .refl n s
  · split
    · split
      · exact (State.armBooking_beside other _ s).trans (State.startBooking_beside other _ _ _)
      · split
        · exact State.armBooking_beside other _ s
        · exact .refl n s
    · split
      · exact State.startBooking_beside other _ _ s
      · exact .refl n s
    · exact run _
    · exact run _
    all_goals exact .refl n s

/-- The judgement of one booking beside the others (R158). -/
theorem State.jumpBooking_beside (cause : BookingCause) (w m : Nat) (s : State) :
    EntryStands n s (s.jumpBooking cause w m id) := by
  unfold State.jumpBooking
  split
  · exact .refl n s
  · dsimp only
    split
    · split
      · exact (State.armBooking_beside other _ s).trans (State.startBooking_beside other _ _ _)
      · split
        · exact State.armBooking_beside other _ s
        · exact .refl n s
    · split
      · exact State.startBooking_beside other _ _ s
      · split
        · exact .refl n s
        · split
          · exact State.endBooking_beside other _ _ (s.setEvent .booking)
          · exact State.endBooking_beside other _ _ s
    all_goals exact .refl n s

end

/-! ### A round over the table -/

/-- A booking `b` is taken once by the operation `op` on its way from `s` to `t`, in a state `u` in which it
stands as it is. -/
structure TakenIn (op : Nat → State → State) (b : Booking) (s u t : State) : Prop where
  before : CalendarFrame s u
  found : u.bookingById b.id = some b
  after : CalendarFrame (op b.id u) t
  entry : EntryStands b.id (op b.id u) t

section

variable {op : Nat → State → State}

theorem State.each_beside {n : Nat} (beside : ∀ id, n ≠ id → ∀ u, EntryStands n u (op id u)) {ids : List Nat}
    (absent : n ∉ ids) (s : State) : EntryStands n s (s.each ids op) :=
  State.each_rel (EntryStands.refl n) EntryStands.trans ids op
    (fun id hid u => beside id (fun same => absent (same ▸ hid)) u) s

/-- A round over the bookings of the table that `sel` selects, in an order left open: each of them is taken
once, and the others stand. -/
theorem State.eachOpen_takes (beside : ∀ n id, n ≠ id → ∀ u, EntryStands n u (op id u))
    (frame : ∀ id u, CalendarFrame u (op id u)) {s : State} (hn : (s.bookings.map (·.id)).Nodup)
    (sel : Booking → Bool) {b : Booking} (hb : b ∈ s.bookings) :
    let t := s.eachOpen id ((s.bookings.filter sel).map (·.id)) op
    (sel b = false → EntryStands b.id s t) ∧
      (sel b = true → b.state.terminal = false → ∃ u, TakenIn op b s u t) := by
  intro t
  have listed : b.id ∈ s.arranged id ((s.bookings.filter sel).map (·.id)) ↔ sel b = true := by
    simp only [State.mem_arranged, List.mem_map, List.mem_filter]
    refine ⟨fun ⟨a, ⟨ha, selected⟩, same⟩ => eq_of_id hn ha hb same ▸ selected,
      fun selected => ⟨b, ⟨hb, selected⟩, rfl⟩⟩
  have distinct : (s.arranged id ((s.bookings.filter sel).map (·.id))).Nodup :=
    (State.arranged_perm id _ s).nodup_iff.2 (hn.sublist (List.filter_sublist.map _))
  have frames (ids : List Nat) (u : State) : CalendarFrame u (u.each ids op) :=
    State.each_rel CalendarFrame.refl CalendarFrame.trans ids op (fun id _ u => frame id u) u
  simp only [t, State.eachOpen]
  refine ⟨fun unselected => ?_, fun selected running => ?_⟩
  · exact State.each_beside (beside b.id) (by rw [listed, unselected]; exact Bool.false_ne_true) s.chosen
  · obtain ⟨first, last, split⟩ := List.append_of_mem (listed.2 selected)
    rw [split] at distinct ⊢
    obtain ⟨-, rest, apart⟩ := List.nodup_append.1 distinct
    have notFirst : b.id ∉ first := fun h => apart _ h _ List.mem_cons_self rfl
    have notLast : b.id ∉ last := (List.nodup_cons.1 rest).1
    have heq : s.chosen.each (first ++ b.id :: last) op = (op b.id (s.chosen.each first op)).each last op :=
      List.foldl_append
    rw [heq]
    exact ⟨s.chosen.each first op, (calendarFrame_site.chosen s).trans (frames first _),
      (State.each_beside (beside b.id) notFirst s.chosen).running (State.bookingById_of_mem (s := s) hn hb) running,
      frames last _, State.each_beside (beside b.id) notLast _⟩

end

/-! ### The ended booking (R152, R153) -/

theorem State.endBooking_ended {s : State} {b : Booking} {new : BookingState} (h : new.terminal = true)
    (cause : BookingCause) (hb : s.bookingById b.id = some b) (running : b.state.terminal = false) :
    (s.endBooking b.id new cause).bookingById b.id =
      some { b with state := new, remaining := 0, terminalOrder := s.lastOrder + 1 } := by
  rw [(State.endBooking_table new cause hb).bookingById, State.recordEnd_found h hb, State.ended_eq rfl running]

theorem State.endBooking_rebooked {s : State} {b : Booking} (cause : BookingCause)
    (hb : s.bookingById b.id = some b) :
    (s.endBooking b.id .booked cause).bookingById b.id = some b.rebooked := by
  rw [(State.endBooking_table .booked cause hb).bookingById, State.recordEnd_booked,
    State.editBooking_bookingById s b.id b.id Booking.rebooked fun _ => rfl, if_pos rfl, hb]
  rfl

end Sys2Proof.Machine

/-! ## Jump evaluation of the table (R158) -/

namespace Sys2Proof.Machine

/-- An ARMED booking: the rows of R158 that can meet it. -/
theorem BookingJumped.of_armed {lead w m : Nat} {x : Wind} {e : Bool} {b b' : Booking} (armed : b.state = .armed)
    (starts : b.spans w m → b.startedInto x (b.start + b.duration - m) e b')
    (stands : ¬b.spans w m → b.awaits lead w m → b' = b)
    (lapses : ¬b.awaits lead w m → b.weekday = none ∨ b.weekday = some w → b.start + b.duration ≤ m →
      e = true ∧
        (b.recurring = false →
          b' = { b with state := .lapsed, remaining := 0, terminalOrder := b'.terminalOrder }) ∧
        (b.recurring = true → b' = b.rebooked))
    (returns : ¬b.spans w m → ¬b.awaits lead w m →
      ¬((b.weekday = none ∨ b.weekday = some w) ∧ b.start + b.duration ≤ m) → b' = b.rebooked) :
    BookingJumped lead w m x e b b' where
  starts _ := starts
  arms h := by rw [armed] at h; cases h
  waits h := by rw [armed] at h; cases h
  stands _ := stands
  lapses _ := lapses
  returns _ := returns
  runs h := by rw [armed] at h; rcases h with h | h <;> cases h
  ended h := by rw [armed] at h; cases h

/-- A booking that jump evaluation does not act on stands (R158). -/
theorem BookingJumped.untouched {lead w m : Nat} (x : Wind) (e : Bool) {b : Booking}
    (hj : b.jumpsAt lead w m = false) : BookingJumped lead w m x e b b := by
  cases hs : b.state with
  | booked => exact .stands_of x e (.inl hs) hj
  | done | lapsed | cancelled => exact .stands_of x e (.inr (by rw [hs]; rfl)) hj
  | armed =>
    simp only [Booking.jumpsAt, hs, Bool.or_eq_false_iff, Bool.not_eq_false'] at hj
    have outside : ¬b.spans w m := mt Booking.inWindow_iff.2 (Bool.eq_false_iff.1 hj.1)
    have awaits := Booking.inArmWindow_iff.1 hj.2
    exact .of_armed hs (fun h => absurd h outside) (fun _ _ => rfl) (fun h => absurd awaits h)
      (fun _ h => absurd awaits h)
  | active | suspended =>
    exact
      { starts := fun h => by rw [hs] at h; rcases h with h | h <;> cases h
        arms := fun h => by rw [hs] at h; cases h
        waits := fun h => by rw [hs] at h; cases h
        stands := fun h => by rw [hs] at h; cases h
        lapses := fun h => by rw [hs] at h; cases h
        returns := fun h => by rw [hs] at h; cases h
        runs := fun _ => rfl
        ended := fun _ => rfl }

/-- A judgement still tells of the booking when other ends have renumbered the terminal orders (R144). -/
theorem BookingJumped.reordered {lead w m : Nat} {x : Wind} {e : Bool} {b b' b'' : Booking}
    (h : BookingJumped lead w m x e b b') (k : b'.Reordered b'') : BookingJumped lead w m x e b b'' where
  starts hs hw := by
    obtain ⟨state, forbidden, allowed, booked, armed⟩ := h.starts hs hw
    have running : state.terminal = false := by
      by_cases f : b.forbidden x
      · rw [(forbidden f).1]
        rfl
      · rw [allowed f]
        rfl
    have same : b'' = b' := k.stands <| by
      rcases hs with hs | hs
      · rw [(booked hs).1]
        exact running
      · rw [armed hs]
        exact running
    exact same ▸ ⟨state, forbidden, allowed, booked, armed⟩
  arms hs h1 h2 := k.stands (by rw [(h.arms hs h1 h2).1]; rfl) ▸ h.arms hs h1 h2
  waits hs h1 h2 := (k.stands (by rw [h.waits hs h1 h2, hs]; rfl)).trans (h.waits hs h1 h2)
  stands hs h1 h2 := (k.stands (by rw [h.stands hs h1 h2, hs]; rfl)).trans (h.stands hs h1 h2)
  lapses hs h1 h2 h3 := by
    obtain ⟨event, once, again⟩ := h.lapses hs h1 h2 h3
    refine ⟨event, fun hr => ?_, fun hr => (k.stands (by rw [again hr]; rfl)).trans (again hr)⟩
    rw [k.entry, once hr]
  returns hs h1 h2 h3 := (k.stands (by rw [h.returns hs h1 h2 h3]; rfl)).trans (h.returns hs h1 h2 h3)
  runs hs := (k.stands (by rw [h.runs hs]; rcases hs with hs | hs <;> rw [hs] <;> rfl)).trans (h.runs hs)
  ended hs := by rw [k.entry, h.ended hs]

/-- An ARMED booking judged at site time (w, m), by the table of R158. -/
theorem State.jumpBooking_armed {s : State} {b : Booking} (cause : BookingCause) (w m : Nat)
    (hb : s.bookingById b.id = some b) (armed : b.state = .armed) :
    ∃ b', (s.jumpBooking cause w m b.id).bookingById b.id = some b' ∧
      BookingJumped s.leadTime w m (s.wind b.crane) ((s.jumpBooking cause w m b.id).event .booking) b b' := by
  have running : b.state.terminal = false := by rw [armed]; rfl
  unfold State.jumpBooking
  simp only [hb, armed]
  by_cases inside : b.inWindow w m = true
  · rw [if_pos inside]
    have spans := Booking.inWindow_iff.1 inside
    obtain ⟨table, event⟩ := State.startBooking_bookings (b.start + b.duration - m) cause hb
    refine ⟨_, State.bookingById_of_edit table.bookings (fun _ => rfl) hb, .of_armed armed (fun _ => ?_)
      (fun h => absurd spans h) (fun _ _ h => absurd (Nat.lt_of_lt_of_le spans.2.2 h) (lt_irrefl _))
      (fun h => absurd spans h)⟩
    refine ⟨if (s.wind b.crane).suspends b.windLimit then .suspended else .active, fun forbidden => ?_,
      fun allowed => if_neg (mt Wind.suspends_iff.1 allowed), fun h => ?_, fun _ => rfl⟩
    swap
    · rw [armed] at h
      cases h
    have suspends := Wind.suspends_iff.2 forbidden
    exact ⟨if_pos suspends, event suspends⟩
  rw [if_neg inside]
  have outside := mt Booking.inWindow_iff.2 inside
  by_cases waiting : b.inArmWindow s.leadTime w m = true
  · rw [if_pos waiting]
    have awaits := Booking.inArmWindow_iff.1 waiting
    exact ⟨b, hb, .of_armed armed (fun h => absurd h outside) (fun _ _ => rfl) (fun h => absurd awaits h)
      (fun _ h => absurd awaits h)⟩
  rw [if_neg waiting]
  have early := mt Booking.inArmWindow_iff.2 waiting
  by_cases passed : (b.onDay w && decide (b.start + b.duration ≤ m)) = true
  · rw [if_pos passed]
    have gone : (b.weekday = none ∨ b.weekday = some w) ∧ b.start + b.duration ≤ m := by
      simpa only [Bool.and_eq_true, Booking.onDay_iff, decide_eq_true_eq] using passed
    have found : (s.setEvent .booking).bookingById b.id = some b := hb
    have event (new : BookingState) :=
      (calendarFrame_site.endBooking b.id new cause (s.setEvent .booking)).flags _ (State.setEvent_event_same _ _)
    unfold Booking.lapsedState
    cases recurring : b.recurring with
    | false =>
      exact ⟨_, State.endBooking_ended rfl cause found running, .of_armed armed (fun h => absurd h outside)
        (fun _ h => absurd h early) (fun _ _ _ => ⟨event .lapsed, fun _ => rfl,
          fun again => by simp [recurring] at again⟩)
        (fun _ _ h => absurd gone h)⟩
    | true =>
      exact ⟨_, State.endBooking_rebooked cause found, .of_armed armed (fun h => absurd h outside)
        (fun _ h => absurd h early) (fun _ _ _ => ⟨event .booked, fun once => by simp [recurring] at once,
          fun _ => rfl⟩)
        (fun _ _ h => absurd gone h)⟩
  · rw [if_neg passed]
    have ahead : ¬((b.weekday = none ∨ b.weekday = some w) ∧ b.start + b.duration ≤ m) := by
      simpa only [Bool.and_eq_true, Booking.onDay_iff, decide_eq_true_eq] using passed
    exact ⟨_, State.endBooking_rebooked cause hb, .of_armed armed (fun h => absurd h outside)
      (fun _ h => absurd h early) (fun _ h1 h2 => absurd ⟨h1, h2⟩ ahead) (fun _ _ _ => rfl)⟩

theorem Booking.early_of_jumpsAt {lead w m : Nat} {b : Booking} (h : b.jumpsAt lead w m = true) :
    b.state = .booked ∨ b.state = .armed := by
  unfold Booking.jumpsAt at h
  cases hs : b.state with
  | booked => exact .inl rfl
  | armed => exact .inr rfl
  | active | suspended | done | lapsed | cancelled =>
    rw [hs] at h
    cases h

/-- Jump evaluation judges every booking of a table with distinct ids at the clock's time (R158). -/
theorem State.jumpBookings_judges {s : State} (cause : BookingCause) (hm : s.clock.mode ≠ .invalid)
    (hn : (s.bookings.map (·.id)).Nodup) {b : Booking} (hb : b ∈ s.bookings) :
    ∃ b', (s.jumpBookings cause).bookingById b.id = some b' ∧
      BookingJumped s.leadTime s.clock.weekday s.clock.minute (s.wind b.crane)
        ((s.jumpBookings cause).event .booking) b b' := by
  have heq : s.jumpBookings cause = s.eachOpen id
      ((s.bookings.filter (·.jumpsAt s.leadTime s.clock.weekday s.clock.minute)).map (·.id))
      (State.jumpBooking cause s.clock.weekday s.clock.minute) := by
    unfold State.jumpBookings
    split
    · next invalid => exact absurd invalid hm
    all_goals rfl
  obtain ⟨stands, taken⟩ := State.eachOpen_takes (op := State.jumpBooking cause s.clock.weekday s.clock.minute)
    (fun _ _ other u => State.jumpBooking_beside other cause _ _ u)
    (fun id u => calendarFrame_site.jumpBooking cause _ _ id u) hn
    (·.jumpsAt s.leadTime s.clock.weekday s.clock.minute) hb
  rw [← heq] at stands taken
  cases acts : b.jumpsAt s.leadTime s.clock.weekday s.clock.minute with
  | false =>
    obtain ⟨b', found, reordered⟩ := stands acts b (State.bookingById_of_mem hn hb)
    exact ⟨b', found, (BookingJumped.untouched _ _ acts).reordered reordered⟩
  | true =>
    have early := Booking.early_of_jumpsAt acts
    obtain ⟨u, before, found, after, entry⟩ := taken acts (by rcases early with hs | hs <;> rw [hs] <;> rfl)
    have judged : ∃ b', (u.jumpBooking cause s.clock.weekday s.clock.minute b.id).bookingById b.id = some b' ∧
        BookingJumped u.leadTime s.clock.weekday s.clock.minute (u.wind b.crane)
          ((u.jumpBooking cause s.clock.weekday s.clock.minute b.id).event .booking) b b' := by
      rcases early with hs | hs
      · obtain ⟨f, edits, table, jumped⟩ := State.jumpBooking_judged cause _ _ found hs
        exact ⟨f b, State.bookingById_of_edit table.bookings edits.id_eq found, jumped⟩
      · exact State.jumpBooking_armed cause _ _ found hs
    obtain ⟨b', hb', jumped⟩ := judged
    obtain ⟨b'', hb'', reordered⟩ := entry b' hb'
    rw [before.leadTime, State.wind_of_winds before.winds] at jumped
    exact ⟨b'', hb'', (jumped.mono (after.flags _)).reordered reordered⟩

end Sys2Proof.Machine

/-! ## The site clock (R136 to R141) -/

namespace Sys2Proof.Machine

/-! ### The clock requests (R137 to R139) -/

/-- The clock set to a weekday and minute: HELD where it was HELD, else RUNNING with a full second ahead (R137). -/
def Clock.setTo (w m : Nat) (k : Clock) : Clock :=
  { mode := if k.mode = .held then .held else .running
    weekday := w, minute := m, second := 0
    timer := if k.mode = .held then none else some 100 }

theorem Clock.setTo_mode_ne (w m : Nat) (k : Clock) : (k.setTo w m).mode ≠ .invalid := by
  unfold Clock.setTo
  split <;> exact nofun

theorem State.takeSetClock_eq (w m lead : Nat) (s : State) :
    s.takeSetClock w m lead =
      ({ s with clock := s.clock.setTo w m, leadTime := min 15 lead } : State).jumpBookings .jump := by
  unfold State.takeSetClock Clock.setTo
  simp only
  cases s.clock.mode <;> rfl

theorem twoBytes_word (m1 m0 : Byte) : twoBytes (256 * m1.toNat + m0.toNat) = [m1, m0] := by
  have := m0.isLt
  have high : (256 * m1.toNat + m0.toNat) / 256 = m1.toNat := by omega
  simp only [twoBytes, high, BitVec.ofNat_toNat, BitVec.setWidth_eq, List.cons.injEq, and_true, true_and]
  exact BitVec.eq_of_toNat_eq (by simpa using this)

theorem clockBytes_setTo (w m1 m0 : Byte) (k : Clock) :
    clockBytes (k.setTo w.toNat (256 * m1.toNat + m0.toNat)) =
      [if k.mode = .held then 0x02#8 else 0x01#8, w, m1, m0, 0x00#8] := by
  unfold clockBytes Clock.setTo
  rw [twoBytes_word]
  cases k.mode <;> simp [byte, ClockMode.code]

theorem serveSetClock_refused {w m1 m0 l : Byte} (s : State)
    (h : 6 < w.toNat ∨ 1439 < 256 * m1.toNat + m0.toNat) :
    serveSetClock [w, m1, m0, l] s = refuse .badField s := by
  unfold serveSetClock
  split
  · rfl
  · next day => exact if_pos (h.resolve_left day)

theorem serveSetClock_taken {w m1 m0 l : Byte} (s : State) (day : w.toNat ≤ 6)
    (minute : 256 * m1.toNat + m0.toNat ≤ 1439) :
    let t := s.takeSetClock w.toNat (256 * m1.toNat + m0.toNat) l.toNat
    serveSetClock [w, m1, m0, l] s = ({ result := .ok, body := clockBytes t.clock }, t) :=
  (if_neg (Nat.not_lt.2 day)).trans (if_neg (Nat.not_lt.2 minute))

/-- The bytes that a clock request answers, behind the clock state (R137 to R139). -/
theorem clockBytes_eq (k : Clock) :
    clockBytes k = BitVec.ofNat 8 k.mode.code :: (byte k.weekday ++ twoBytes k.minute ++ byte k.second) := rfl

section

variable {s : State}

theorem serveHoldClock_invalid (h : s.clock.mode = .invalid) : serveHoldClock s = refuse .clockInvalid s := by
  rw [serveHoldClock, h]

theorem serveHoldClock_running (h : s.clock.mode = .running) :
    let k : Clock := { s.clock with mode := .held, timer := none }
    serveHoldClock s = ({ result := .ok, body := clockBytes k }, { s with clock := k }) := by
  rw [serveHoldClock, h]

theorem serveHoldClock_held (h : s.clock.mode = .held) :
    serveHoldClock s = ({ result := .ok, body := clockBytes s.clock }, s) := by
  rw [serveHoldClock, h]

theorem serveRunClock_invalid (h : s.clock.mode = .invalid) : serveRunClock s = refuse .clockInvalid s := by
  rw [serveRunClock, h]

theorem serveRunClock_held (h : s.clock.mode = .held) :
    let k : Clock := { s.clock with mode := .running, timer := some 100 }
    serveRunClock s = ({ result := .ok, body := clockBytes k }, { s with clock := k }) := by
  rw [serveRunClock, h]
  rfl

theorem serveRunClock_running (h : s.clock.mode = .running) :
    serveRunClock s = ({ result := .ok, body := clockBytes s.clock }, s) := by
  rw [serveRunClock, h]

end

/-! ### The second timer (R136, R141) -/

/-- The RUNNING clock in the next minute, 1439 being followed by 0 of the next weekday and 6 by 0 (R136). -/
def Clock.nextMinute (k : Clock) : Clock :=
  { mode := .running
    weekday := if k.minute < 1439 then k.weekday else (k.weekday + 1) % 7
    minute := if k.minute < 1439 then k.minute + 1 else 0
    second := 0, timer := some 100 }

theorem State.nextMinute_eq {s : State} (running : s.clock.mode = .running) :
    s.nextMinute = ({ s with clock := s.clock.nextMinute } : State).tickBookings
      s.clock.nextMinute.weekday s.clock.nextMinute.minute := by
  unfold State.nextMinute Clock.nextMinute
  by_cases last : s.clock.minute < 1439
  · simp only [if_pos last, if_neg (show ¬1440 ≤ s.clock.minute + 1 by omega), running]
    rfl
  · simp only [if_neg last, if_pos (show 1440 ≤ s.clock.minute + 1 by omega), running]
    rfl

theorem State.nextMinute_frame {s : State} (running : s.clock.mode = .running) :
    CalendarFrame { s with clock := s.clock.nextMinute } s.nextMinute := by
  rw [State.nextMinute_eq running]
  exact calendarFrame_site.tickBookings _ _ _

section

variable {s : State}

theorem State.tickMinute_due (due : s.clock.due = true) (last : 59 ≤ s.clock.second) :
    s.tickMinute = s.nextMinute :=
  if_pos (by rw [due, decide_eq_true last]; rfl)

theorem State.tickMinute_early (h : ¬(s.clock.due = true ∧ 59 ≤ s.clock.second)) : s.tickMinute = s :=
  if_neg (by rwa [Bool.and_eq_true, decide_eq_true_eq])

theorem State.endSecond_idle (h : ¬s.clock.due = true) : s.endSecond = s := if_neg h

theorem State.endSecond_counts (due : s.clock.due = true) (h : s.clock.second < 59) :
    s.endSecond = { s with clock := { s.clock with second := s.clock.second + 1, timer := some 100 } } :=
  (if_pos due).trans (if_pos h)

theorem State.endSecond_ticks (due : s.clock.due = true) (last : 59 ≤ s.clock.second) :
    s.endSecond = s.nextMinute :=
  (if_pos due).trans (if_neg (Nat.not_lt.2 last))

end

/-! ### The last minute of a running booking (R149, R152) -/

/-- The running booking `b` ended as `b'` at its last minute; `event` is the site event flag BOOKING after it
(R152). -/
structure RanOut (event : Bool) (b b' : Booking) : Prop where
  entry : b' = { b with
    state := if b.recurring then .booked else if b.state = .active then .done else .lapsed, remaining := 0
    short := if b.recurring then false else b.short
    notPlaced := if b.recurring then 0 else b.notPlaced, terminalOrder := b'.terminalOrder }
  lapse : b.state = .suspended → event = true

theorem RanOut.mono {e e' : Bool} {b b' : Booking} (h : RanOut e b b') (he : e = true → e' = true) :
    RanOut e' b b' :=
  ⟨h.entry, fun hs => he (h.lapse hs)⟩

theorem RanOut.reordered {e : Bool} {b b' b'' : Booking} (h : RanOut e b b') (k : b'.Reordered b'') :
    RanOut e b b'' :=
  ⟨by rw [k.entry, h.entry], h.lapse⟩

/-- The end of a booking that runs out, recurring or not (R152, R153). -/
theorem State.endBooking_ranOut {s : State} {b : Booking} {once : BookingState} (ends : once.terminal = true)
    (cause : BookingCause) (hb : s.bookingById b.id = some b) (running : b.state.terminal = false) :
    ∃ b', (s.endBooking b.id (if b.recurring then .booked else once) cause).bookingById b.id = some b' ∧
      b' = { b with
        state := if b.recurring then .booked else once, remaining := 0
        short := if b.recurring then false else b.short
        notPlaced := if b.recurring then 0 else b.notPlaced, terminalOrder := b'.terminalOrder } := by
  cases recurring : b.recurring with
  | false => exact ⟨_, State.endBooking_ended ends cause hb running, by simp [recurring]⟩
  | true => exact ⟨_, State.endBooking_rebooked cause hb, by simp [recurring, Booking.rebooked]⟩

/-- The tick takes the last minute of a running booking, and with it ends the booking (R149, R152). -/
theorem State.tickBooking_ranOut {s : State} {b : Booking} (w m : Nat) (hb : s.bookingById b.id = some b)
    (runs : b.state = .active ∨ b.state = .suspended) (last : b.remaining ≤ 1) :
    ∃ b', (s.tickBooking w m b.id).bookingById b.id = some b' ∧
      RanOut ((s.tickBooking w m b.id).event .booking) b b' := by
  have counted := State.bookingById_of_edit
    (t := s.editBooking b.id fun b => { b with remaining := b.remaining - 1 }) rfl (fun _ => rfl) hb
  unfold State.tickBooking
  rw [hb]
  rcases runs with hs | hs
  · simp only [hs, if_pos last]
    unfold State.runOut
    simp only [counted, hs]
    obtain ⟨b', found, entry⟩ := State.endBooking_ranOut (b := { b with remaining := b.remaining - 1 })
      (once := .done) rfl .tick counted (by rw [hs]; rfl)
    exact ⟨b', found, by rw [entry, hs]; rfl, fun h => by rw [hs] at h; cases h⟩
  · simp only [hs, if_pos last]
    unfold State.runOut
    simp only [counted, hs]
    generalize s.editBooking b.id _ = u at *
    have flagged : (u.setEvent .booking).bookingById b.id = some { b with remaining := b.remaining - 1 } := counted
    obtain ⟨b', found, entry⟩ := State.endBooking_ranOut (b := { b with remaining := b.remaining - 1 })
      (once := .lapsed) rfl .lapse flagged (by rw [hs]; rfl)
    exact ⟨b', found, by rw [entry, hs]; rfl, fun _ =>
      (calendarFrame_site.endBooking _ _ _ _).flags _ (State.setEvent_event_same _ _)⟩

theorem BookingState.runs_iff {x : BookingState} : x.runs = true ↔ x = .active ∨ x = .suspended := by
  cases x <;> simp [BookingState.runs]

/-- The minute tick at which a running booking has its last minute (R149, R152). -/
theorem State.nextMinute_ranOut {s : State} (running : s.clock.mode = .running)
    (hn : (s.bookings.map (·.id)).Nodup) {b : Booking} (hb : b ∈ s.bookings)
    (runs : b.state = .active ∨ b.state = .suspended) (last : b.remaining ≤ 1) :
    ∃ b', s.nextMinute.bookingById b.id = some b' ∧ RanOut (s.nextMinute.event .booking) b b' := by
  rw [State.nextMinute_eq running]
  generalize s.clock.nextMinute = k
  obtain ⟨-, taken⟩ := State.eachOpen_takes (op := State.tickBooking k.weekday k.minute)
    (fun _ _ other u => State.tickBooking_beside other _ _ u)
    (fun id u => calendarFrame_site.tickBooking _ _ id u) (s := { s with clock := k }) hn
    (·.reachedBy s.leadTime k.weekday k.minute) hb
  obtain ⟨u, -, found, after, entry⟩ := taken
    (by
      unfold Booking.reachedBy
      rcases runs with hs | hs <;> rw [hs])
    (by rcases runs with hs | hs <;> rw [hs] <;> rfl)
  obtain ⟨b', hb', ended⟩ := State.tickBooking_ranOut k.weekday k.minute found runs last
  obtain ⟨b'', hb'', reordered⟩ := entry b' hb'
  exact ⟨b'', hb'', (ended.mono (after.flags _)).reordered reordered⟩

section

variable {s : State} {id : Nat}

theorem State.exhaust_idle (h : ∀ b, s.bookingById id = some b →
    (b.state ≠ .active ∧ b.state ≠ .suspended) ∨ 2 ≤ b.remaining) : s.exhaust id = s := by
  unfold State.exhaust
  split
  · rfl
  · next b hb =>
    refine if_neg fun last => ?_
    rw [Bool.and_eq_true, decide_eq_true_eq] at last
    rcases h b hb with ⟨active, suspended⟩ | more
    · exact (BookingState.runs_iff.1 last.1).elim active suspended
    · exact absurd last.2 (Nat.not_le.2 more)

theorem State.exhaust_early (h : s.tickMinute = s) : s.exhaust id = s := by
  unfold State.exhaust
  split
  · rfl
  · rw [h, ite_self]

theorem State.exhaust_last {b : Booking} (hb : s.bookingById id = some b)
    (runs : b.state = .active ∨ b.state = .suspended) (last : b.remaining ≤ 1) :
    s.exhaust id = s.tickMinute := by
  unfold State.exhaust
  rw [hb]
  refine if_pos ?_
  rw [decide_eq_true last, Bool.and_true]
  exact BookingState.runs_iff.2 runs

end

end Sys2Proof.Machine

namespace Sys2Proof.Proofs

open Sys2Proof.Machine

/-- Settles O38: the answer by `clockBytes_setTo`, the bookings by `State.jumpBookings_judges`. -/
theorem clockSet : Obligations.ClockSet := by
  intro tag w m1 m0 l s hr minute
  refine ⟨fun bad => ?_, fun day early => ?_⟩
  · exact refusedAs_planner .setClock rfl hr rfl (serveSetClock_refused _ bad)
  · intro clock
    have served : servePlanner .setClock [w, m1, m0, l] (s.underway .planner) = _ :=
      serveSetClock_taken (s.underway .planner) day early
    simp only [State.takeSetClock_eq] at served
    have frame := calendarFrame_site.jumpBookings .jump
      { s.underway .planner with clock := (s.underway .planner).clock.setTo w.toNat minute, leadTime := min 15 l.toNat }
    rw [frame.clock] at served
    dsimp only at served
    rw [clockBytes_setTo] at served
    exact ⟨_, servedAs_planner .setClock rfl hr rfl served rfl frame, fun hn b hb =>
      State.jumpBookings_judges .jump (s := { s.underway .planner with clock := clock, leadTime := min 15 l.toNat })
        (Clock.setTo_mode_ne w.toNat minute s.clock) hn hb⟩

/-- Settles O39, by the clock states of R138 and R139. -/
theorem clockHeldAndRun : Obligations.ClockHeldAndRun := by
  intro tag s hr time
  refine ⟨fun invalid => ⟨?_, ?_⟩, fun running => ⟨?_, ?_⟩, fun held => ⟨?_, ?_⟩⟩
  · exact refusedAs_planner .holdClock rfl hr rfl (serveHoldClock_invalid (s := s.underway .planner) invalid)
  · exact refusedAs_planner .runClock rfl hr rfl (serveRunClock_invalid (s := s.underway .planner) invalid)
  · exact takenAs_planner .holdClock (reply := { result := .ok, body := 0x02#8 :: time }) rfl hr rfl
      (serveHoldClock_running (s := s.underway .planner) running) rfl (fun _ _ => rfl) rfl
  · have served := serveRunClock_running (s := s.underway .planner) running
    rw [clockBytes_eq, show (s.underway .planner).clock.mode = .running from running] at served
    exact takenAs_planner .runClock (eff := fun u => u) rfl hr rfl served rfl (fun _ _ => rfl) rfl
  · exact takenAs_planner .runClock (reply := { result := .ok, body := 0x01#8 :: time }) rfl hr rfl
      (serveRunClock_held (s := s.underway .planner) held) rfl (fun _ _ => rfl) rfl
  · have served := serveHoldClock_held (s := s.underway .planner) held
    rw [clockBytes_eq, show (s.underway .planner).clock.mode = .held from held] at served
    exact takenAs_planner .holdClock (eff := fun u => u) rfl hr rfl served rfl (fun _ _ => rfl) rfl

/-- Settles O52, by the cases of `State.endSecond` and `State.tickMinute`. -/
theorem clockAdvances : Obligations.ClockAdvances := by
  intro s minute weekday
  refine ⟨fun still => ?_, fun running expired early => ?_, fun running expired last => ?_⟩
  · have idle : ¬s.clock.due = true := by
      rw [Clock.due_iff]
      tauto
    exact ⟨congrArg _ (State.endSecond_idle idle), congrArg _ (State.tickMinute_early fun h => idle h.1)⟩
  · have due := (Clock.due_iff s.clock).2 ⟨running, expired⟩
    exact ⟨congrArg _ (State.endSecond_counts due early),
      congrArg _ (State.tickMinute_early fun h => absurd h.2 (Nat.not_le.2 early))⟩
  · have due := (Clock.due_iff s.clock).2 ⟨running, expired⟩
    have ticks := State.tickMinute_due due last
    refine ⟨congrArg _ ((State.endSecond_ticks due last).trans ticks.symm), s.tickMinute, rfl, ?_⟩
    rw [ticks]
    exact State.nextMinute_frame running

/-- Settles O54: no other moment by `State.exhaust_early` and `State.exhaust_idle`, the end by
`State.nextMinute_ranOut`. -/
theorem minutesRunOut : Obligations.MinutesRunOut := by
  intro id s dueNow
  refine ⟨fun early => ?_, fun idle => congrArg _ (State.exhaust_idle idle), ?_⟩
  · refine congrArg _ (State.exhaust_early (State.tickMinute_early fun h => early ?_))
    rw [Clock.due_iff, and_assoc] at h
    exact h
  · intro b due hn hb runs last minute weekday ending
    obtain ⟨running, expired, minuteEnds⟩ := due
    obtain rfl := State.bookingById_id hb
    have ticks := State.tickMinute_due ((Clock.due_iff s.clock).2 ⟨running, expired⟩) minuteEnds
    have whole := State.exhaust_last hb runs last
    obtain ⟨b', found, entry, lapse⟩ :=
      State.nextMinute_ranOut running hn (List.mem_of_find?_eq_some hb) runs last
    exact ⟨congrArg _ whole, s.nextMinute, b', congrArg _ (whole.trans ticks), State.nextMinute_frame running, found,
      entry, lapse⟩

end Sys2Proof.Proofs

/-! ## The refusals of BOOK (R145) -/

namespace Sys2Proof.Machine

/-! ### The fields of the body (R145, R163) -/

theorem zoneOf_inv {n : Nat} {z : ZoneId} (h : zoneOf n = some z) : n = z.val + 1 := by
  unfold zoneOf at h
  split at h
  · next bounds =>
    cases h
    exact (Nat.sub_add_cancel bounds.2).symm
  · cases h

/-- What a list read place by place shows of its places. -/
theorem mapM_range_inv {α : Type} {n : Nat} {g : Nat → Option α} {ys : List α}
    (h : (List.range n).mapM g = some ys) : ys.length = n ∧ ∀ i (hi : i < ys.length), g i = some ys[i] := by
  induction n generalizing g ys with
  | zero =>
    cases h
    exact ⟨rfl, nofun⟩
  | succ n ih =>
    rw [List.range_succ_eq_map, List.mapM_cons, List.mapM_map] at h
    obtain ⟨y, first, h⟩ := Option.bind_eq_some_iff.1 h
    obtain ⟨zs, rest, h⟩ := Option.bind_eq_some_iff.1 h
    cases h
    obtain ⟨length, places⟩ := ih rest
    refine ⟨congrArg (· + 1) length, fun i hi => ?_⟩
    cases i with
    | zero => exact first
    | succ i => exact places i (Nat.lt_of_succ_lt_succ hi)

theorem weekdayOf_eq_none {n : Nat} (h : 7 < n) : weekdayOf n = none := by
  unfold weekdayOf
  rw [if_neg (by omega), if_neg (by omega)]

theorem zonesOf_inv {b : List Byte} {n : Nat} {zs : List ZoneId} (h : zonesOf b n = some zs) :
    zs.length = n ∧ ∀ i (hi : i < zs.length), byteAt b (9 + i) = zs[i].val + 1 := by
  obtain ⟨length, places⟩ := mapM_range_inv h
  exact ⟨length, fun i hi => zoneOf_inv (places i hi)⟩

/-- A body that passes the first row of R145, field by field: `bookOf_fits`. -/
structure BookBodyFits (b : List Byte) : Prop where
  crane : 1 ≤ byteAt b 0 ∧ byteAt b 0 ≤ 6
  weekday : byteAt b 1 ≤ 7
  start : wordAt b 2 ≤ 1439
  count : 1 ≤ byteAt b 8 ∧ byteAt b 8 ≤ 8
  opens : byteAt b 17 ≤ 1
  recurring : byteAt b 18 ≤ 1
  zones : ∀ i, i < byteAt b 8 → 1 ≤ byteAt b (9 + i) ∧ byteAt b (9 + i) ≤ 48
  distinct : ∀ i j, i < j → j < byteAt b 8 → byteAt b (9 + i) ≠ byteAt b (9 + j)

theorem bookOf_fits {b : List Byte} {f : BookFields} (h : bookOf b = some f) : BookBodyFits b := by
  unfold bookOf at h
  split at h
  · next c w opens recurring zs crane weekday opensFlag recurringFlag listed =>
    split at h
    · cases h
    next fits =>
    simp only [not_or, Nat.not_lt, not_not] at fits
    obtain ⟨start, few, many, distinct⟩ := fits
    obtain ⟨length, places⟩ := zonesOf_inv listed
    refine ⟨?_, ?_, start, ⟨few, many⟩, ?_, ?_, fun i hi => ?_, fun i j hij hj same => ?_⟩
    · by_contra bad
      rw [craneOf_eq_none (by omega)] at crane
      cases crane
    · by_contra bad
      rw [weekdayOf_eq_none (by omega)] at weekday
      cases weekday
    · by_contra bad
      rw [flagOf_eq_none (by omega)] at opensFlag
      cases opensFlag
    · by_contra bad
      rw [flagOf_eq_none (by omega)] at recurringFlag
      cases recurringFlag
    · rw [places i (by omega)]
      have := zs[i].isLt
      omega
    · rw [places i (by omega), places j (by omega)] at same
      have := (List.Nodup.getElem_inj_iff distinct).1 (Fin.ext (Nat.succ_inj.1 same))
      omega
  · cases h

/-! ### The rows of R145 -/

/-- The rows of R145 behind its first, with the conflict of R146 written out. -/
def State.bookRefusal (f : BookFields) (s : State) : Option Result :=
  if s.permit f.crane = none then some .notConfigured
  else if f.duration < 1 ∨ 240 < f.duration ∨ 1440 < f.start + f.duration then some .badWindow
  else if (f.zones.any fun z => (s.footprint z f.crane).isNone) = true then some .noFootprint
  else if (s.bookings.any fun o => !o.state.terminal &&
      (o.crane == f.crane || f.zones.any o.zones.contains) &&
      (o.weekday.isNone || f.weekday.isNone || o.weekday == f.weekday) &&
      decide (f.start < o.start + o.duration ∧ o.start < f.start + f.duration)) = true then
    some .bookingConflict
  else if 32 ≤ s.bookings.length ∧ (s.bookings.all fun o => !o.state.terminal) = true then some .tableFull
  else none

theorem BookFields.conflicts_eq (f : BookFields) (stop : Nat) (o : Booking) :
    (f.booking stop).conflicts o =
      ((o.crane == f.crane || f.zones.any o.zones.contains) &&
        (o.weekday.isNone || f.weekday.isNone || o.weekday == f.weekday) &&
        decide (f.start < o.start + o.duration ∧ o.start < f.start + f.duration)) := by
  have days : (f.booking stop).sharesDay o =
      (o.weekday.isNone || f.weekday.isNone || o.weekday == f.weekday) := by
    unfold Booking.sharesDay BookFields.booking
    cases f.weekday <;> cases o.weekday <;> simp [Bool.beq_comm]
  have windows : (f.booking stop).overlaps o =
      decide (f.start < o.start + o.duration ∧ o.start < f.start + f.duration) :=
    (Bool.decide_and _ _).symm
  have cranes : ((f.booking stop).crane == o.crane) = (o.crane == f.crane) := Bool.beq_comm
  rw [Booking.conflicts, cranes, days, windows]
  rfl

/-- No slot: the table is full of entries that have not ended (R144). -/
theorem State.hasSlot_eq_false {s : State} :
    s.hasSlot = false ↔ 32 ≤ s.bookings.length ∧ (s.bookings.all fun o => !o.state.terminal) = true := by
  have oldest : s.oldestTerminal = none ↔ (s.bookings.all fun o => !o.state.terminal) = true := by
    unfold State.oldestTerminal
    rw [List.head?_eq_none_iff, ← List.length_eq_zero_iff, List.length_insertionSort, List.length_eq_zero_iff]
    simp [List.filter_eq_nil_iff]
  simp [State.hasSlot, oldest]

/-- A row of a table of refusals, and the rows behind it. -/
theorem refuse_row {p : Prop} [Decidable p] {s : State} {x y : Result} {rest : Option Result}
    {taken : Reply × State} (row : (if p then some y else rest) = some x)
    (behind : rest = some x → taken = refuse x s) : (if p then refuse y s else taken) = refuse x s := by
  split at row
  · next hp => rw [if_pos hp, Option.some.inj row]
  · next hp => rw [if_neg hp, behind row]

theorem serveBook_badField {body : List Byte} {s : State} (h : ¬BookBodyFits body) :
    serveBook body s = refuse .badField s := by
  unfold serveBook
  rw [Option.eq_none_iff_forall_ne_some.2 fun f hf => h (bookOf_fits hf)]

theorem serveBook_refused {body : List Byte} {f : BookFields} {s : State} {x : Result}
    (hf : bookOf body = some f) (row : s.bookRefusal f = some x) : serveBook body s = refuse x s := by
  unfold State.bookRefusal at row
  unfold serveBook
  simp only [hf, Option.isNone_iff_eq_none, BookFields.conflicts_eq, Bool.not_eq_true,
    State.hasSlot_eq_false, ← Bool.and_assoc]
  exact refuse_row row fun row => refuse_row row fun row => refuse_row row fun row => refuse_row row fun row =>
    refuse_row row nofun

end Sys2Proof.Machine

namespace Sys2Proof.Proofs

open Sys2Proof.Machine

/-- Settles O35: the first row by `bookOf_fits`, the others by `State.bookRefusal`. -/
theorem bookRefused : Obligations.BookRefused := by
  intro tag b s hr hb
  refine ⟨fun bad => refusedAs_planner .book rfl hr hb (serveBook_badField fun fits => ?_),
    fun f x hf row => refusedAs_planner .book rfl hr hb (serveBook_refused (s := s.underway .planner) hf row)⟩
  obtain ⟨crane, weekday, start, count, opens, recurring, zones, distinct⟩ := fits
  have noZone : ¬∃ i, i < byteAt b 8 ∧ (byteAt b (9 + i) = 0 ∨ 48 < byteAt b (9 + i)) := fun ⟨i, hi, h⟩ => by
    have := zones i hi
    omega
  have noTwice : ¬∃ i j, i < j ∧ j < byteAt b 8 ∧ byteAt b (9 + i) = byteAt b (9 + j) :=
    fun ⟨i, j, hij, hj, same⟩ => distinct i j hij hj same
  simp only [noZone, noTwice, or_false] at bad
  omega

end Sys2Proof.Proofs

/-! ## The paged requests (R161, R168, R171, R176 to R178) -/

namespace Sys2Proof.Machine

/-! ### Pages (R168) -/

theorem byte_toNat (n : Byte) : byte n.toNat = [n] := by
  simp [byte]

section

variable {content : List Byte} {s : State}

/-- The body of the page `n` (R168). -/
theorem pageBody_eq (content : List Byte) (n : Byte) :
    pageBody content n.toNat =
      [n, BitVec.ofNat 8 (pageCount content)] ++ (content.drop (58 * n.toNat)).take 58 := by
  rw [pageBody, byte_toNat]
  rfl

theorem paged_refused {page : Nat} (clearLoss : Bool) (h : pageCount content ≤ page) :
    paged content page clearLoss s = refuse .badField s := if_pos h

theorem paged_taken {page : Nat} (clearLoss : Bool) (h : page < pageCount content) :
    paged content page clearLoss s =
      ({ result := .ok, body := pageBody content page, clearLoss := clearLoss }, s) :=
  if_neg (Nat.not_le.2 h)

end

/-- The two answers of a planner request that is served with a page of the content. -/
theorem pageAnswers_planner {i : Instr} (k : PlannerKind) {tag n : Byte} {body content : List Byte} {s : State}
    (hi : exec i s = .next (s.arrive .planner { kind := k.code, tag := tag, body := body }))
    (hr : s.ready .planner) (hb : body.length = k.length)
    (served : servePlanner k body (s.underway .planner) = paged content n.toNat false (s.underway .planner)) :
    (pageCount content ≤ n.toNat → RefusedAs i .planner k.code tag .badField s) ∧
      (n.toNat < pageCount content → TakenAs i .planner k.code tag .ok
        ([n, BitVec.ofNat 8 (pageCount content)] ++ (content.drop (58 * n.toNat)).take 58) (fun u => u) s) := by
  refine ⟨fun beyond => refusedAs_planner k hi hr hb (served.trans (paged_refused false beyond)), fun within => ?_⟩
  exact pageBody_eq content n ▸ takenAs_planner k (eff := fun u => u) hi hr hb (served.trans (paged_taken false within))
    rfl (fun _ _ => rfl) rfl

/-! ### Contents while a request is under way -/

theorem Table.entry_map {α β : Type} {n : Nat} (t : Table α n) (g : α → β) (i : Fin n) :
    Table.entry (t.map g) i = g (Table.entry t i) := by
  simp [Table.entry]

/-- What is read of all entries stands through an edit that leaves what is read of each. -/
theorem Table.flatMap_edit {α β : Type} {n : Nat} (t : Table α n) (i : Fin n) (f : α → α) (g : α → List β)
    (h : ∀ x, g (f x) = g x) : (Table.edit t i f).toList.flatMap g = t.toList.flatMap g := by
  have same : (Table.edit t i f).map g = t.map g := Table.ext_entry fun j => by
    rw [Table.entry_map, Table.entry_map, Table.entry_edit]
    split
    · exact h _
    · rfl
  rw [List.flatMap_def, List.flatMap_def, ← Vector.toList_map, ← Vector.toList_map, same]

theorem State.underway_siteContent (p : Port) (s : State) : (s.underway p).siteContent = s.siteContent := by
  have links : (s.underway p).links.toList.flatMap linkBytes = s.links.toList.flatMap linkBytes :=
    Table.flatMap_edit s.links (linkIdx p) _ linkBytes fun _ => rfl
  unfold State.siteContent
  rw [links]
  rfl

/-! ### STATUS for page 0 (R171) -/

/-- A request that clears its port's flag and has no other effect, at a ready port: its response shows the flag
as it was (R171). -/
theorem State.arrive_clears (s : State) (p : Port) (f : Frame) (hr : s.ready p) (hf : f.body.length ≤ 60)
    {reply : Reply} (hs : serve p f (s.underway p) = (reply, s.underway p)) (hc : reply.clearLoss = true) :
    s.arrive p f = (s.clearLoss p).editLink p (Link.answered (respond f reply (s.lossOn p))) := by
  have ⟨_, _, idle, _⟩ := hr
  rw [← State.clearLoss_link s p p] at idle
  rw [State.arrive_ready s p f hr hf]
  have effect : s.afterServe p f = (s.clearLoss p).underway p := by
    unfold State.afterServe
    simp only [hs, hc, if_true]
    cases p <;> rfl
  have response : s.responseTo p f = respond f reply (s.lossOn p) := by
    unfold State.responseTo
    simp only [hs]
    exact congrArg _ (State.editLink_lossOn s p p _)
  rw [effect, response, State.underway, State.editLink_editLink]
  have answered := Link.answered_of_underway ((s.clearLoss p).link p) (respond f reply (s.lossOn p)) idle
  simp only [State.editLink, Table.edit, Function.comp]
  rw [show (s.clearLoss p).links[linkIdx p] = (s.clearLoss p).link p from rfl]
  exact congrArg (fun l => { s.clearLoss p with links := (s.clearLoss p).links.set (linkIdx p) l }) answered

/-! ### The records asked for (R161, R177, R178) -/

section

variable {s : State} {n k : Byte}

theorem serveCraneStatus_one {c : CraneId} {p : Permit} (hp : s.permit c = some p) :
    serveCraneStatus [BitVec.ofNat 8 (c.val + 1), n] s = paged (s.craneContent c p true) n.toNat false s := by
  unfold serveCraneStatus
  simp only [byteAt_cons_zero, byteAt_cons_succ, toNat_ofNat_crane, craneOf_craneNumber, hp,
    Nat.add_one_ne_zero, if_false]

theorem serveCraneStatus_unconfigured {c : CraneId} (absent : s.permit c = none) :
    serveCraneStatus [BitVec.ofNat 8 (c.val + 1), n] s = refuse .notConfigured s := by
  unfold serveCraneStatus
  simp only [byteAt_cons_zero, toNat_ofNat_crane, craneOf_craneNumber, absent, Nat.add_one_ne_zero, if_false]

theorem serveCraneStatus_unknown (h : 6 < k.toNat) : serveCraneStatus [k, n] s = refuse .badField s := by
  unfold serveCraneStatus
  simp only [byteAt_cons_zero, craneOf_eq_none (.inr h), Nat.ne_zero_of_lt h, if_false]

theorem serveZoneStatus_one (z : ZoneId) :
    serveZoneStatus [BitVec.ofNat 8 (z.val + 1), n] s = paged (s.zoneContent z) n.toNat false s := by
  unfold serveZoneStatus
  simp only [byteAt_cons_zero, byteAt_cons_succ, toNat_ofNat_zone, zoneOf_zoneNumber, Nat.add_one_ne_zero,
    if_false]

theorem serveZoneStatus_unknown (h : 48 < k.toNat) : serveZoneStatus [k, n] s = refuse .badField s := by
  unfold serveZoneStatus
  simp only [byteAt_cons_zero, zoneOf_eq_none (.inr h), Nat.ne_zero_of_lt h, if_false]

theorem byte_toNat_ne_zero (h : k ≠ 0x00#8) : k.toNat ≠ 0 := fun zero => h (BitVec.eq_of_toNat_eq zero)

theorem serveBookingStatus_one {b : Booking} (hk : k ≠ 0x00#8) (hb : s.bookingById k.toNat = some b) :
    serveBookingStatus [k, n] s = paged (s.bookingContent b) n.toNat false s := by
  unfold serveBookingStatus
  simp only [byteAt_cons_zero, byteAt_cons_succ, byte_toNat_ne_zero hk, hb, if_false]

theorem serveBookingStatus_unknown (hk : k ≠ 0x00#8) (absent : s.bookingById k.toNat = none) :
    serveBookingStatus [k, n] s = refuse .badField s := by
  unfold serveBookingStatus
  simp only [byteAt_cons_zero, byte_toNat_ne_zero hk, absent, if_false]

theorem serveStatus_unconfigured {c : CraneId} (absent : s.permit c = none) :
    serveStatus c [n] s = refuse .notConfigured s := by
  unfold serveStatus
  simp only [absent]

theorem serveStatus_one {c : CraneId} {p : Permit} (hp : s.permit c = some p) :
    serveStatus c [n] s = paged (s.craneContent c p false) n.toNat (n.toNat == 0) s := by
  unfold serveStatus
  simp only [hp, byteAt_cons_zero]

end

end Sys2Proof.Machine

namespace Sys2Proof.Proofs

open Sys2Proof.Machine

/-- Settles O27: the pages by `pageAnswers_planner`, the flag that STATUS clears by `State.arrive_clears`. -/
theorem statusPages : Obligations.StatusPages := by
  intro tag n s pages page answers
  refine ⟨fun hr => ⟨?_, ?_, ?_, ?_, ?_, ?_, ?_, ?_, ?_, ?_, ?_⟩, ?_⟩
  · refine pageAnswers_planner .siteStatus rfl hr rfl ?_
    rw [← State.underway_siteContent .planner]
    rfl
  · exact pageAnswers_planner .craneStatus rfl hr rfl rfl
  · exact pageAnswers_planner .zoneStatus rfl hr rfl rfl
  · exact pageAnswers_planner .bookingStatus rfl hr rfl rfl
  · exact fun c p hp => pageAnswers_planner .craneStatus rfl hr rfl
      (serveCraneStatus_one (s := s.underway .planner) hp)
  · exact fun z => pageAnswers_planner .zoneStatus rfl hr rfl (serveZoneStatus_one (s := s.underway .planner) z)
  · exact fun k b hk hb => pageAnswers_planner .bookingStatus rfl hr rfl
      (serveBookingStatus_one (s := s.underway .planner) hk hb)
  · exact fun k beyond => refusedAs_planner .craneStatus rfl hr rfl (serveCraneStatus_unknown beyond)
  · exact fun c absent => refusedAs_planner .craneStatus rfl hr rfl
      (serveCraneStatus_unconfigured (s := s.underway .planner) absent)
  · exact fun k beyond => refusedAs_planner .zoneStatus rfl hr rfl (serveZoneStatus_unknown beyond)
  · exact fun k hk absent => refusedAs_planner .bookingStatus rfl hr rfl
      (serveBookingStatus_unknown (s := s.underway .planner) hk absent)
  · intro c hr
    refine ⟨fun absent => refusedAs_crane .status rfl hr rfl
      (serveStatus_unconfigured (s := s.underway (.crane c)) absent), fun p hp => ?_⟩
    intro content
    have served : serveCrane c .status [n] (s.underway (.crane c)) =
        paged content n.toNat (n.toNat == 0) (s.underway (.crane c)) :=
      serveStatus_one (s := s.underway (.crane c)) hp
    have body : pageBody content n.toNat = page content := pageBody_eq content n
    refine ⟨fun beyond => refusedAs_crane .status rfl hr rfl (served.trans (paged_refused _ beyond)),
      fun within other => ?_, fun first => ?_⟩
    · exact body ▸ takenAs_crane .status (eff := fun u => u) rfl hr rfl
        (served.trans (paged_taken _ within)) (beq_false_of_ne (byte_toNat_ne_zero other)) (fun _ _ => rfl) rfl
    · have within : n.toNat < pageCount content := by
        rw [first]
        exact Nat.lt_of_lt_of_le Nat.one_pos (Nat.le_max_left 1 _)
      have zero : (n.toNat == 0) = true := by
        rw [first]
        rfl
      have arrived := State.arrive_clears s (.crane c) { kind := CraneKind.code .status, tag := tag, body := [n] } hr
        (CraneKind.length_le .status)
        ((serve_crane c .status tag [n] rfl _).trans (served.trans (paged_taken _ within))) zero
      rw [respond, body] at arrived
      exact congrArg Host.Outcome.next arrived

end Sys2Proof.Proofs

/-! ## Minute ticks (R149 to R152)

What a tick makes of a booking, by its state (`Booking.tickedInto`), and that it does so to every booking of a
table with distinct ids, whatever order the bookings are taken in (`State.nextMinute_ticks`). -/

namespace Sys2Proof.Machine

/-! ### Starts and arm points (R148, R149) -/

theorem Booking.startsAt_iff {b : Booking} {w m : Nat} :
    b.startsAt w m = true ↔ (b.weekday = none ∨ b.weekday = some w) ∧ b.start = m := by
  simp only [Booking.startsAt, Bool.and_eq_true, Booking.onDay_iff, beq_iff_eq]

theorem Booking.armsAt_iff {b : Booking} {lead w m : Nat} :
    b.armsAt lead w m = true ↔
      if lead ≤ b.start then (b.weekday = none ∨ b.weekday = some w) ∧ b.start - lead = m
      else (b.weekday = none ∨ ∃ d, b.weekday = some d ∧ (d + 6) % 7 = w) ∧ b.start + 1440 - lead = m := by
  unfold Booking.armsAt Booking.armPoint
  by_cases sameDay : lead ≤ b.start
  · rw [if_pos sameDay, if_pos sameDay]
    cases b.weekday <;> simp
  · rw [if_neg sameDay, if_neg sameDay]
    cases b.weekday <;> simp

/-! ### One booking at a tick -/

/-- What the tick (w, m) makes of the booking `b`, by its state (R149); `x` is its crane's wind record and
`event` the site event flag BOOKING after the tick. -/
def Booking.tickedInto (lead w m : Nat) (x : Wind) (event : Bool) (b b' : Booking) : Prop :=
  match b.state with
  | .booked =>
    if b.startsAt w m then b.startedInto x b.duration event b'
    else if b.armsAt lead w m then b.armedInto .armed b.remaining b'
    else b' = b
  | .armed => if b.startsAt w m then b.startedInto x b.duration event b' else b' = b
  | .active | .suspended =>
    if b.remaining ≤ 1 then RanOut event b b' else b' = { b with remaining := b.remaining - 1 }
  | .done | .lapsed | .cancelled => b' = { b with terminalOrder := b'.terminalOrder }

section

variable {lead w m left : Nat} {x : Wind} {e e' : Bool} {b b' b'' : Booking}

theorem Booking.tickedInto_booked (hs : b.state = .booked) :
    b.tickedInto lead w m x e b' ↔
      if b.startsAt w m then b.startedInto x b.duration e b'
      else if b.armsAt lead w m then b.armedInto .armed b.remaining b'
      else b' = b := by
  simp only [Booking.tickedInto, hs]

theorem Booking.tickedInto_armed (hs : b.state = .armed) :
    b.tickedInto lead w m x e b' ↔ if b.startsAt w m then b.startedInto x b.duration e b' else b' = b := by
  simp only [Booking.tickedInto, hs]

theorem Booking.tickedInto_runs (hs : b.state = .active ∨ b.state = .suspended) :
    b.tickedInto lead w m x e b' ↔
      if b.remaining ≤ 1 then RanOut e b b' else b' = { b with remaining := b.remaining - 1 } := by
  rcases hs with hs | hs <;> simp only [Booking.tickedInto, hs]

theorem Booking.tickedInto_ended (hs : b.state = .done ∨ b.state = .lapsed ∨ b.state = .cancelled) :
    b.tickedInto lead w m x e b' ↔ b' = { b with terminalOrder := b'.terminalOrder } := by
  rcases hs with hs | hs | hs <;> simp only [Booking.tickedInto, hs]

/-- The four kinds of states that a tick tells apart (R149). -/
theorem BookingState.tick_cases (x : BookingState) :
    x = .booked ∨ x = .armed ∨ (x = .active ∨ x = .suspended) ∨ x = .done ∨ x = .lapsed ∨ x = .cancelled := by
  cases x <;> simp

theorem BookingState.not_terminal_of_runs {x : BookingState} (h : x = .active ∨ x = .suspended) :
    x.terminal = false := by
  rcases h with rfl | rfl <;> rfl

/-- A started booking is ACTIVE or SUSPENDED, with the minutes given (R151). -/
theorem Booking.startedInto_entry (h : b.startedInto x left e b') (early : b.state = .booked ∨ b.state = .armed) :
    b' = { b with state := b'.state, remaining := left, short := b'.short, notPlaced := b'.notPlaced } ∧
      (b.forbidden x → b'.state = .suspended ∧ e = true) ∧ (¬b.forbidden x → b'.state = .active) := by
  obtain ⟨state, forbidden, allowed, booked, armed⟩ := h
  rcases early with hs | hs
  · obtain ⟨entry, -⟩ := booked hs
    rw [entry]
    exact ⟨rfl, forbidden, allowed⟩
  · rw [armed hs]
    exact ⟨rfl, forbidden, allowed⟩

theorem Booking.startedInto_running (h : b.startedInto x left e b') (early : b.state = .booked ∨ b.state = .armed) :
    b'.state.terminal = false := by
  obtain ⟨-, forbidden, allowed⟩ := Booking.startedInto_entry h early
  by_cases hf : b.forbidden x
  · rw [(forbidden hf).1]
    rfl
  · rw [allowed hf]
    rfl

/-- What a tick makes of a booking still tells of it when the ends of others have renumbered the terminal
orders (R144), and the site event flag has stayed set. -/
theorem Booking.tickedInto_after (h : b.tickedInto lead w m x e b') (he : e = true → e' = true)
    (k : b'.Reordered b'') : b.tickedInto lead w m x e' b'' := by
  have started (early : b.state = .booked ∨ b.state = .armed) (hs : b.startedInto x b.duration e b') :
      b.startedInto x b.duration e' b'' := by
    rw [k.stands (Booking.startedInto_running hs early)]
    obtain ⟨state, forbidden, rest⟩ := hs
    exact ⟨state, fun hf => (forbidden hf).imp_right he, rest⟩
  rcases b.state.tick_cases with hs | hs | hs | hs
  · rw [Booking.tickedInto_booked hs] at h ⊢
    split_ifs at h ⊢
    · exact started (.inl hs) h
    · exact k.stands (by rw [h.1]; rfl) ▸ h
    · exact (k.stands (by rw [h, hs]; rfl)).trans h
  · rw [Booking.tickedInto_armed hs] at h ⊢
    split_ifs at h ⊢
    · exact started (.inr hs) h
    · exact (k.stands (by rw [h, hs]; rfl)).trans h
  · rw [Booking.tickedInto_runs hs] at h ⊢
    split_ifs at h ⊢
    · exact (h.mono he).reordered k
    · exact (k.stands (by rw [h]; exact BookingState.not_terminal_of_runs hs)).trans h
  · rw [Booking.tickedInto_ended hs] at h ⊢
    rw [k.entry, h]

/-- A booking that the tick does not reach stands (R149). -/
theorem Booking.tickedInto_unreached (h : b.reachedBy lead w m = false) : b.tickedInto lead w m x e b := by
  unfold Booking.reachedBy at h
  rcases b.state.tick_cases with hs | hs | hs | hs
  · simp only [hs, Bool.or_eq_false_iff] at h
    simp only [Booking.tickedInto_booked hs, h.1, h.2, Bool.false_eq_true, if_false]
  · simp only [hs] at h
    simp only [Booking.tickedInto_armed hs, h, Bool.false_eq_true, if_false]
  · rcases hs with hs | hs <;> simp [hs] at h
  · exact (Booking.tickedInto_ended hs).2 rfl

/-- No tick moves a booking to another crane, to other zones or to another window (R149). -/
theorem Booking.tickedInto_keeps (h : b.tickedInto lead w m x e b') :
    b'.crane = b.crane ∧ b'.zones = b.zones ∧ b'.start = b.start ∧ b'.duration = b.duration := by
  have entry : b' = { b with
      state := b'.state, remaining := b'.remaining, short := b'.short, notPlaced := b'.notPlaced,
      terminalOrder := b'.terminalOrder } := by
    rcases b.state.tick_cases with hs | hs | hs | hs
    · rw [Booking.tickedInto_booked hs] at h
      split_ifs at h
      · rw [(Booking.startedInto_entry h (.inl hs)).1]
      · rw [h.1]
      · rw [h]
    · rw [Booking.tickedInto_armed hs] at h
      split_ifs at h
      · rw [(Booking.startedInto_entry h (.inr hs)).1]
      · rw [h]
    · rw [Booking.tickedInto_runs hs] at h
      split_ifs at h
      · rw [h.entry]
      · rw [h]
    · rw [(Booking.tickedInto_ended hs).1 h]
  rw [entry]
  exact ⟨rfl, rfl, rfl, rfl⟩

end

section

variable {s : State} {b : Booking}

/-- A start from ARMED (R151). -/
theorem State.startBooking_started (left : Nat) (cause : BookingCause) (hb : s.bookingById b.id = some b)
    (armed : b.state = .armed) :
    ∃ b', (s.startBooking b.id left cause).bookingById b.id = some b' ∧
      b.startedInto (s.wind b.crane) left ((s.startBooking b.id left cause).event .booking) b' := by
  obtain ⟨table, event⟩ := State.startBooking_bookings left cause hb
  refine ⟨_, State.bookingById_of_edit table.bookings (fun _ => rfl) hb, _, fun forbidden => ?_,
    fun allowed => if_neg (mt Wind.suspends_iff.1 allowed), fun h => ?_, fun _ => rfl⟩
  · have suspends := Wind.suspends_iff.2 forbidden
    exact ⟨if_pos suspends, event suspends⟩
  · rw [armed] at h
    cases h

/-- An arming and the start right behind it, from BOOKED (R150, R151). -/
theorem State.armBooking_startBooking_started (left : Nat) (cause : BookingCause)
    (hb : s.bookingById b.id = some b) (booked : b.state = .booked) :
    let t := (s.armBooking b.id cause).startBooking b.id left cause
    ∃ b', t.bookingById b.id = some b' ∧ b.startedInto (s.wind b.crane) left (t.event .booking) b' := by
  intro t
  obtain ⟨n, few, table, -, -⟩ := State.armBooking_bookings cause hb
  have found : (s.armBooking b.id cause).bookingById b.id = some (b.armedWith n) :=
    State.bookingById_of_edit table (fun _ => rfl) hb
  obtain ⟨b', hb', state, forbidden, allowed, -, armed⟩ :=
    State.startBooking_started left cause (b := b.armedWith n) found rfl
  have wind : (s.armBooking b.id cause).wind (b.armedWith n).crane = s.wind b.crane :=
    State.wind_of_winds (calendarFrame_site.armBooking b.id cause s).winds _
  rw [wind] at forbidden allowed
  refine ⟨b', hb', state, forbidden, allowed, fun _ => ?_, fun h => ?_⟩
  · rw [armed rfl]
    exact ⟨rfl, few⟩
  · rw [booked] at h
    cases h

/-- One booking at the tick (w, m), by its state (R149). -/
theorem State.tickBooking_ticks (w m : Nat) (hb : s.bookingById b.id = some b) :
    ∃ b', (s.tickBooking w m b.id).bookingById b.id = some b' ∧
      b.tickedInto s.leadTime w m (s.wind b.crane) ((s.tickBooking w m b.id).event .booking) b' := by
  rcases b.state.tick_cases with hs | hs | hs | hs
  · simp only [Booking.tickedInto_booked hs]
    unfold State.tickBooking
    simp only [hb, hs]
    split_ifs
    · exact State.armBooking_startBooking_started b.duration .tick hb hs
    · obtain ⟨n, few, table, -, -⟩ := State.armBooking_bookings .tick hb
      exact ⟨b.armedWith n, State.bookingById_of_edit table (fun _ => rfl) hb, rfl, few⟩
    · exact ⟨b, hb, rfl⟩
  · simp only [Booking.tickedInto_armed hs]
    unfold State.tickBooking
    simp only [hb, hs]
    split_ifs
    · exact State.startBooking_started b.duration .tick hb hs
    · exact ⟨b, hb, rfl⟩
  · simp only [Booking.tickedInto_runs hs]
    by_cases last : b.remaining ≤ 1
    · simpa only [if_pos last] using State.tickBooking_ranOut w m hb hs last
    · have counts : s.tickBooking w m b.id =
          s.editBooking b.id fun b => { b with remaining := b.remaining - 1 } := by
        unfold State.tickBooking
        rcases hs with hs | hs <;> simp only [hb, hs, if_neg last]
      simp only [if_neg last, counts]
      exact ⟨_, State.bookingById_of_edit rfl (fun _ => rfl) hb, rfl⟩
  · simp only [Booking.tickedInto_ended hs]
    have stands : s.tickBooking w m b.id = s := by
      unfold State.tickBooking
      rcases hs with hs | hs | hs <;> simp only [hb, hs]
    exact ⟨b, stands.symm ▸ hb, rfl⟩

end

theorem Booking.terminal_of_reachedBy {lead w m : Nat} {b : Booking} (h : b.reachedBy lead w m = true) :
    b.state.terminal = false := by
  unfold Booking.reachedBy at h
  cases hs : b.state with
  | booked | armed | active | suspended => rfl
  | done | lapsed | cancelled =>
    rw [hs] at h
    cases h

/-! ### Every booking at a tick -/

/-- The minute tick takes every booking of a table with distinct ids at the minute entered (R149). -/
theorem State.nextMinute_ticks {s : State} (running : s.clock.mode = .running)
    (hn : (s.bookings.map (·.id)).Nodup) {b : Booking} (hb : b ∈ s.bookings) :
    ∃ b', s.nextMinute.bookingById b.id = some b' ∧
      b.tickedInto s.leadTime s.clock.nextMinute.weekday s.clock.nextMinute.minute (s.wind b.crane)
        (s.nextMinute.event .booking) b' := by
  rw [State.nextMinute_eq running]
  generalize s.clock.nextMinute = k
  obtain ⟨stands, taken⟩ := State.eachOpen_takes (op := State.tickBooking k.weekday k.minute)
    (fun _ _ other u => State.tickBooking_beside other _ _ u)
    (fun id u => calendarFrame_site.tickBooking _ _ id u) (s := { s with clock := k }) hn
    (·.reachedBy s.leadTime k.weekday k.minute) hb
  cases reached : b.reachedBy s.leadTime k.weekday k.minute with
  | false =>
    obtain ⟨b', found, reordered⟩ := stands reached b (State.bookingById_of_mem (s := s) hn hb)
    exact ⟨b', found,
      Booking.tickedInto_after (e := false) (Booking.tickedInto_unreached reached) nofun reordered⟩
  | true =>
    obtain ⟨u, before, found, after, entry⟩ := taken reached (Booking.terminal_of_reachedBy reached)
    obtain ⟨b', hb', ticked⟩ := State.tickBooking_ticks k.weekday k.minute found
    obtain ⟨b'', hb'', reordered⟩ := entry b' hb'
    rw [before.leadTime, State.wind_of_winds before.winds] at ticked
    exact ⟨b'', hb'', Booking.tickedInto_after ticked (after.flags _) reordered⟩

end Sys2Proof.Machine

namespace Sys2Proof.Proofs

open Sys2Proof.Machine

/-- Settles O53: the table by `State.nextMinute_ticks`, its rows by the cases of `Booking.tickedInto`. -/
theorem tickMovesBookings : Obligations.TickMovesBookings := by
  intro s b running expired last hn hb m w starts arms forbidden
  have ticks := State.tickMinute_due ((Clock.due_iff s.clock).2 ⟨running, expired⟩) last
  obtain ⟨b', found, ticked⟩ := State.nextMinute_ticks running hn hb
  obtain ⟨crane, zones, start, duration⟩ := Booking.tickedInto_keeps ticked
  have startsNow : b.startsAt s.clock.nextMinute.weekday s.clock.nextMinute.minute = true ↔ starts :=
    Booking.startsAt_iff
  have armsNow : b.armsAt s.leadTime s.clock.nextMinute.weekday s.clock.nextMinute.minute = true ↔ arms :=
    Booking.armsAt_iff
  refine ⟨s.nextMinute, b', congrArg _ ticks, found, crane, zones, start, duration, ?_⟩
  refine ⟨fun hs more => ?_, fun hs only => ?_, fun hs only => ?_, fun hs now => ?_, fun hs late now => ?_,
    fun hs late early => ?_, fun hs late => ?_, fun hs => (Booking.tickedInto_ended hs).1 ticked⟩
  · rwa [Booking.tickedInto_runs hs, if_neg (Nat.not_le.2 more)] at ticked
  · rw [Booking.tickedInto_runs (.inl hs), if_pos only] at ticked
    rw [ticked.entry]
    exact ⟨rfl, by rw [hs]; rfl⟩
  · rw [Booking.tickedInto_runs (.inr hs), if_pos only] at ticked
    refine ⟨ticked.lapse hs, ?_⟩
    rw [ticked.entry]
    exact ⟨rfl, by rw [hs]; rfl⟩
  · have started : b.startedInto (s.wind b.crane) b.duration (s.nextMinute.event .booking) b' := by
      rcases hs with hs | hs
      · rwa [Booking.tickedInto_booked hs, if_pos (startsNow.2 now)] at ticked
      · rwa [Booking.tickedInto_armed hs, if_pos (startsNow.2 now)] at ticked
    obtain ⟨entry, suspended, active⟩ := Booking.startedInto_entry started hs
    exact ⟨by rw [entry], suspended, active⟩
  · rw [Booking.tickedInto_booked hs, if_neg (mt startsNow.1 late), if_pos (armsNow.2 now)] at ticked
    rw [ticked.1]
    exact ⟨rfl, rfl⟩
  · rwa [Booking.tickedInto_booked hs, if_neg (mt startsNow.1 late), if_neg (mt armsNow.1 early)] at ticked
  · rwa [Booking.tickedInto_armed hs, if_neg (mt startsNow.1 late)] at ticked

end Sys2Proof.Proofs

/-! ## Frames started and ended, notices posted (R166, R167, R170)

What an idle transmitter starts is said once, by what stands to be sent: nothing while the transmitter or the
port's request is under way (`State.startTx_busy`), else the response (`State.startTx_response`), else the oldest
notice (`State.startTx_notice`), else nothing (`State.startTx_nothing`). -/

namespace Sys2Proof.Machine

/-! ### Writes of one link or one area -/

theorem State.editLink_congr {s : State} {p : Port} {f g : Link → Link} (h : f (s.link p) = g (s.link p)) :
    s.editLink p f = s.editLink p g := by
  simp only [State.link, Table.entry] at h
  simp only [State.editLink, Table.edit, h]

theorem State.editLink_self {s : State} {p : Port} {f : Link → Link} (h : f (s.link p) = s.link p) :
    s.editLink p f = s := by
  have same : Table.edit s.links (linkIdx p) f = s.links := Table.ext_entry fun i => by
    rw [Table.entry_edit]
    split
    · next e => exact e ▸ h
    · rfl
  simp only [State.editLink, same]

theorem State.editBox_self {s : State} {c : CraneId} {f : NoticeBox → NoticeBox} (h : f (s.box c) = s.box c) :
    s.editBox c f = s := by
  have same : Table.edit s.boxes c f = s.boxes := Table.ext_entry fun i => by
    rw [Table.entry_edit]
    split
    · next e => exact e ▸ h
    · rfl
  simp only [State.editBox, same]

theorem State.editBox_editBox (s : State) (c : CraneId) (f g : NoticeBox → NoticeBox) :
    (s.editBox c f).editBox c g = s.editBox c (g ∘ f) := by
  simp [State.editBox, Table.edit, Function.comp]

theorem State.editLink_editBox (s : State) (p : Port) (c : CraneId) (f : Link → Link) (g : NoticeBox → NoticeBox) :
    (s.editLink p f).editBox c g = (s.editBox c g).editLink p f := rfl

/-! ### What a transmitter starts (R167) -/

theorem State.startTx_busy {s : State} {p : Port} (h : (s.link p).serving = true ∨ (s.link p).tx ≠ .idle) :
    s.startTx p = s := by
  unfold State.startTx
  exact if_pos (by simpa using h)

theorem State.startTx_response {s : State} {p : Port} {r : Response} (free : (s.link p).serving = false)
    (idle : (s.link p).tx = .idle) (full : (s.link p).buffer = some r) :
    s.startTx p = s.editLink p fun l => { l with tx := .response r } := by
  simp [State.startTx, free, idle, full]

theorem State.startTx_notice {s : State} {c : CraneId} {n : Notice} {rest : List Notice}
    (free : (s.link (.crane c)).serving = false) (idle : (s.link (.crane c)).tx = .idle)
    (empty : (s.link (.crane c)).buffer = none) (waits : (s.box c).queue = n :: rest) :
    s.startTx (.crane c) =
      (s.editBox c fun b => { b with queue := rest }).editLink (.crane c) fun l => { l with tx := .notice n } := by
  simp [State.startTx, free, idle, empty, waits]

theorem State.startTx_nothing {s : State} {p : Port} (empty : (s.link p).buffer = none)
    (nothing : ∀ c, p = .crane c → (s.box c).queue = []) : s.startTx p = s := by
  unfold State.startTx
  dsimp only
  split
  · rfl
  · rw [empty]
    cases p with
    | planner => rfl
    | crane c => simp only [nothing c rfl]

/-! ### A notice posted (R170) -/

theorem State.post_lost {s : State} {c : CraneId} (n : Notice) (full : (s.box c).capacity ≤ (s.box c).queue.length) :
    s.post c n = (s.editBox c fun b => { b with loss := true }).setEvent .noticeLoss :=
  if_neg (Nat.not_lt.2 full)

theorem State.post_stored {s : State} {c : CraneId} (n : Notice) (room : (s.box c).queue.length < (s.box c).capacity) :
    s.post c n = (s.editBox c fun b => { b with queue := b.queue ++ [n] }).startTx (.crane c) :=
  if_pos room

/-- An idle transmitter with nothing else to send takes a notice as it is posted (R167, R170). -/
theorem State.post_sent {s : State} {c : CraneId} (n : Notice) (nothing : (s.box c).queue = [])
    (room : 0 < (s.box c).capacity) (free : (s.link (.crane c)).serving = false)
    (idle : (s.link (.crane c)).tx = .idle) (empty : (s.link (.crane c)).buffer = none) :
    s.post c n = s.editLink (.crane c) fun l => { l with tx := .notice n } := by
  have waits : ((s.editBox c fun b => { b with queue := b.queue ++ [n] }).box c).queue = [n] := by
    rw [State.editBox_box_same, nothing]
    rfl
  have started := State.startTx_notice (s := s.editBox c fun b => { b with queue := b.queue ++ [n] }) free idle empty waits
  rw [State.post_stored n (by rw [nothing]; exact room), started, State.editBox_editBox, State.editBox_self]
  show ({ s.box c with queue := [] } : NoticeBox) = s.box c
  rw [← nothing]

/-! ### The end of a transmission (R166, R167) -/

theorem State.endTx_idle {s : State} {p : Port} (h : (s.link p).tx = .idle) : s.endTx p = s := by
  simp only [State.endTx, h]

theorem State.endTx_notice {s : State} {p : Port} {n : Notice} (h : (s.link p).tx = .notice n) :
    s.endTx p = (s.editLink p fun l => { l with tx := .idle }).startTx p := by
  simp only [State.endTx, h]

/-- The transmission of a response has ended: buffer and pending place are empty (R166). -/
def State.sentResponse (p : Port) (s : State) : State :=
  s.editLink p fun l => { l with tx := .idle, buffer := none, waiting := none }

theorem State.endTx_response {s : State} {p : Port} {r : Response} (h : (s.link p).tx = .response r)
    (nothing : (s.link p).waiting = none) : s.endTx p = (s.sentResponse p).startTx p := by
  simp only [State.endTx, h, nothing, State.sentResponse]

theorem State.endTx_waiting {s : State} {p : Port} {r : Response} {f : Frame} (h : (s.link p).tx = .response r)
    (waits : (s.link p).waiting = some f) : s.endTx p = (s.sentResponse p).takeRequest p f := by
  simp only [State.endTx, h, waits, State.sentResponse]

/-- Where a transmission ends with nothing left in the buffer, it leaves the transmitter idle, the buffer empty,
and what an idle transmitter starts then. -/
theorem State.endTx_emptied {s : State} {p : Port}
    (h : (∃ n, (s.link p).tx = .notice n ∧ (s.link p).buffer = none) ∨
      ∃ r, (s.link p).tx = .response r ∧ (s.link p).waiting = none) :
    s.endTx p = (s.editLink p fun l => { l with tx := .idle, buffer := none }).startTx p := by
  rcases h with ⟨n, sending, empty⟩ | ⟨r, sending, nothing⟩
  · rw [State.endTx_notice sending, State.editLink_congr]
    rw [← empty]
  · rw [State.endTx_response sending nothing, State.sentResponse, State.editLink_congr]
    rw [← nothing]

/-- A request that completes at a port whose buffer and pending place are empty is taken (R166). -/
theorem State.completed_taken {s : State} {p : Port} (f : Frame) (buffer : (s.link p).buffer = none)
    (waiting : (s.link p).waiting = none) :
    s.completed p f = (s.editLink p fun l => { l with rx := .hunt }).takeRequest p f := by
  simp [State.completed, buffer, waiting]

end Sys2Proof.Machine

namespace Sys2Proof.Proofs

open Sys2Proof.Machine

/-- Settles O13, by the room in the queue and what the transmitter is doing. -/
theorem noticePosted : Obligations.NoticePosted := by
  intro c n s
  refine ⟨State.post_lost n, fun room busy => ?_, fun nothing room free idle empty =>
    State.post_sent n nothing room free idle empty⟩
  rw [State.post_stored n room]
  exact State.startTx_busy busy

/-- Settles O9, by what is under way and what stands to be sent behind it. -/
theorem transmissionEnds : Obligations.TransmissionEnds := by
  intro p s free
  refine ⟨fun idle => ?_, fun n r sending full => ?_, fun ends => ⟨fun c m rest port waits => ?_, fun nothing => ?_⟩⟩
  · exact congrArg Host.Outcome.next (State.endTx_idle idle)
  · refine congrArg Host.Outcome.next ?_
    rw [State.endTx_notice sending, State.startTx_response (r := r) (by simpa using free) (by simp) (by simpa using full),
      State.editLink_editLink]
    rfl
  · refine congrArg Host.Outcome.next ?_
    subst port
    have started := State.startTx_notice (s := s.editLink (.crane c) fun l => { l with tx := .idle, buffer := none })
      (by simpa using free) (by simp) (by simp) waits
    rw [State.endTx_emptied ends, started, State.editLink_editBox, State.editLink_editLink]
    rfl
  · refine congrArg Host.Outcome.next ?_
    rw [State.endTx_emptied ends]
    exact State.startTx_nothing (by simp) nothing

/-- Settles O10: both ways the request is taken at the emptied port. -/
theorem waitingRequestIsTaken : Obligations.WaitingRequestIsTaken := by
  intro p f r s sending waits hunt free fits
  refine congrArg Host.Outcome.next ?_
  have rx : ((s.sentResponse p).link p).rx = .hunt := by simpa [State.sentResponse] using hunt
  calc s.endTx p
    _ = (s.sentResponse p).takeRequest p f := State.endTx_waiting sending waits
    _ = ((s.sentResponse p).editLink p fun l => { l with rx := .hunt }).takeRequest p f := by
        rw [State.editLink_self]
        rw [← rx]
    _ = (s.sentResponse p).completed p f :=
        (State.completed_taken f (by simp [State.sentResponse]) (by simp [State.sentResponse])).symm
    _ = (s.sentResponse p).arrive p f := (State.arrive_completed _ p f fits (by rw [rx]; rfl)).symm

end Sys2Proof.Proofs

/-! ## Notice Store and links kept (R164, R166, R167, R169)

Behind the ports every move keeps the Notice Store, and leaves no notice waiting at an idle transmitter
(`portsKept_request`); with what such a move may do to a link (`LinksThrough`) it keeps every port. At a port an
operation may leave the transmitter idle over something to be sent (`State.portsOkBut`), and the start of a frame
behind it makes that good (`State.portsOk_startTx`). -/

namespace Sys2Proof.Machine

/-! ### What is kept behind the ports -/

/-- A notice waits only while the port's request is under way or a frame is being sent (R167). -/
def State.noticeSent (c : CraneId) (s : State) : Prop :=
  (s.box c).queue ≠ [] → (s.link (.crane c)).serving = true ∨ (s.link (.crane c)).tx ≠ .idle

/-- The Notice Store stays as R169 says, every link changes as hand-offs may change it, and every transmitter
stays at its notices. -/
structure PortsKept (s t : State) : Prop where
  store : s.noticeStoreOk → t.noticeStoreOk
  links : LinksThrough s t
  sent : ∀ c, s.noticeSent c → t.noticeSent c

theorem PortsKept.refl (s : State) : PortsKept s s := ⟨id, linksThrough_of_links rfl, fun _ => id⟩

theorem PortsKept.trans {s t u : State} (h : PortsKept s t) (k : PortsKept t u) : PortsKept s u :=
  ⟨k.store ∘ h.store, linksThrough_trans h.links k.links, fun c => k.sent c ∘ h.sent c⟩

theorem State.box_of_boxes {s t : State} (h : t.boxes = s.boxes) (c : CraneId) : t.box c = s.box c := by
  simp only [State.box, h]

theorem State.link_of_links {s t : State} (h : t.links = s.links) (p : Port) : t.link p = s.link p := by
  simp only [State.link, h]

/-- The areas stand, and no queue passes its capacity (R169). -/
theorem noticeStoreOk_of_areas {s t : State} (start : ∀ c, (t.box c).start = (s.box c).start)
    (stop : ∀ c, (t.box c).stop = (s.box c).stop)
    (fits : ∀ c, (s.box c).queue.length ≤ (s.box c).capacity → (t.box c).queue.length ≤ (t.box c).capacity)
    (ok : s.noticeStoreOk) : t.noticeStoreOk := by
  obtain ⟨areas, apart⟩ := ok
  refine ⟨fun c => ?_, by simpa only [start, stop] using apart⟩
  obtain ⟨ordered, bounded, full⟩ := areas c
  rw [start, stop]
  exact ⟨ordered, bounded, fits c full⟩

/-- The areas and the links stand, and each queue stands or is emptied. -/
theorem portsKept_of_queues {s t : State} (start : ∀ c, (t.box c).start = (s.box c).start)
    (stop : ∀ c, (t.box c).stop = (s.box c).stop)
    (queue : ∀ c, (t.box c).queue = (s.box c).queue ∨ (t.box c).queue = []) (hl : t.links = s.links) :
    PortsKept s t where
  store := noticeStoreOk_of_areas start stop fun c fits => by
    rw [NoticeBox.capacity, start, stop]
    rcases queue c with same | empty
    · rw [same]
      exact fits
    · rw [empty]
      exact Nat.zero_le _
  links := linksThrough_of_links hl
  sent c h waits := by
    rw [State.link_of_links hl]
    rcases queue c with same | empty
    · exact h (same ▸ waits)
    · exact absurd empty waits

/-- A move that touches neither the areas nor the links. -/
theorem portsKept_of_same {s t : State} (hb : t.boxes = s.boxes) (hl : t.links = s.links) : PortsKept s t :=
  portsKept_of_queues (fun c => by rw [State.box_of_boxes hb]) (fun c => by rw [State.box_of_boxes hb])
    (fun c => .inl (by rw [State.box_of_boxes hb])) hl

/-! ### A transmitter started -/

/-- What the start of a frame does, by what stood to be sent (R167). -/
theorem State.startTx_outcome (s : State) (p : Port) :
    (s.startTx p = s ∧ ((s.link p).serving = true ∨ (s.link p).tx ≠ .idle ∨
        ((s.link p).buffer = none ∧ ∀ c, p = .crane c → (s.box c).queue = []))) ∨
      (∃ r, s.startTx p = s.editLink p fun l => { l with tx := .response r }) ∨
      ∃ c n rest, p = .crane c ∧ s.startTx p =
        (s.editBox c fun b => { b with queue := rest }).editLink p fun l => { l with tx := .notice n } := by
  by_cases busy : (s.link p).serving = true ∨ (s.link p).tx ≠ .idle
  · exact .inl ⟨State.startTx_busy busy, busy.imp_right .inl⟩
  obtain ⟨free, idle⟩ := not_or.1 busy
  rw [Bool.not_eq_true] at free
  rw [not_not] at idle
  cases full : (s.link p).buffer with
  | some r => exact .inr (.inl ⟨r, State.startTx_response free idle full⟩)
  | none =>
    cases p with
    | planner => exact .inl ⟨State.startTx_nothing full nofun, .inr (.inr ⟨rfl, nofun⟩)⟩
    | crane c =>
      cases waits : (s.box c).queue with
      | cons n rest => exact .inr (.inr ⟨c, n, rest, rfl, State.startTx_notice free idle full waits⟩)
      | nil =>
        have nothing : ∀ d, Port.crane c = .crane d → (s.box d).queue = [] := fun d e =>
          Port.crane.inj e ▸ waits
        exact .inl ⟨State.startTx_nothing full nothing, .inr (.inr ⟨rfl, nothing⟩)⟩

/-- A transmitter that is idle after a start has found nothing to be sent (R167). -/
theorem State.startTx_unsent (s : State) (p : Port) (free : (s.link p).serving = false)
    (idle : ((s.startTx p).link p).tx = .idle) :
    s.startTx p = s ∧ (s.link p).buffer = none ∧ ∀ c, p = .crane c → (s.box c).queue = [] := by
  rcases s.startTx_outcome p with ⟨same, why⟩ | ⟨r, sent⟩ | ⟨c, n, rest, -, sent⟩
  · rcases why with serving | sending | nothing
    · rw [free] at serving
      cases serving
    · exact absurd (same ▸ idle) sending
    · exact ⟨same, nothing⟩
  · rw [sent, State.editLink_link_same] at idle
    cases idle
  · rw [sent, State.editLink_link_same] at idle
    cases idle

/-- The start of a frame touches no other port. -/
theorem State.startTx_other (s : State) {p q : Port} (h : q ≠ p) :
    (s.startTx p).link q = s.link q ∧ ∀ c, q = .crane c → (s.startTx p).box c = s.box c := by
  rcases s.startTx_outcome p with ⟨same, -⟩ | ⟨r, sent⟩ | ⟨d, n, rest, rfl, sent⟩
  · rw [same]
    exact ⟨rfl, fun _ _ => rfl⟩
  · rw [sent]
    exact ⟨State.editLink_link_other s _ h, fun _ _ => rfl⟩
  · rw [sent]
    refine ⟨State.editLink_link_other _ _ h, fun c port => State.editBox_box_other s _ fun e => h ?_⟩
    rw [port, e]

theorem noticeStoreOk_mayPost {s t : State} (h : ∀ c, (s.box c).mayPost (t.box c)) (ok : s.noticeStoreOk) :
    t.noticeStoreOk :=
  noticeStoreOk_of_areas (fun c => (h c).1) (fun c => (h c).2.1) (fun c => (h c).2.2.2) ok

theorem State.noticeSent_startTx (s : State) (c : CraneId) : (s.startTx (.crane c)).noticeSent c := by
  intro waits
  by_contra unsent
  obtain ⟨free, idle⟩ := not_or.1 unsent
  rw [Bool.not_eq_true] at free
  rw [not_not] at idle
  obtain ⟨kept, -⟩ := State.startTx_link s (.crane c) (.crane c)
  rw [kept] at free
  obtain ⟨same, -, empty⟩ := s.startTx_unsent (.crane c) free idle
  rw [same] at waits
  exact waits (empty c rfl)

/-- A notice is stored within its area, and sent where the transmitter is idle (R167, R170). -/
theorem portsKept_post (s : State) (c : CraneId) (n : Notice) : PortsKept s (s.post c n) where
  store := noticeStoreOk_mayPost (HandOffs.post s c n).boxes
  links := (HandOffs.post s c n).links
  sent d h := by
    by_cases aside : d = c
    · subst aside
      rcases Nat.lt_or_ge (s.box d).queue.length (s.box d).capacity with room | full
      · rw [State.post_stored n room]
        exact State.noticeSent_startTx _ d
      · rw [State.post_lost n full]
        unfold State.noticeSent
        rw [State.setEvent_box, State.editBox_box_same]
        exact h
    · obtain ⟨box, link⟩ := State.post_aside s n aside
      unfold State.noticeSent
      rw [box, link]
      exact h

/-! ### CONFIG_AREAS (R169) -/

theorem areasClash_iff {a b : Nat × Nat} :
    areasClash a b = true ↔ ∃ slot, a.1 ≤ slot ∧ slot < a.2 ∧ b.1 ≤ slot ∧ slot < b.2 := by
  simp only [areasClash, Bool.and_eq_true, decide_eq_true_eq]
  constructor
  · rintro ⟨⟨⟨ha, hb⟩, hab⟩, hba⟩
    exact ⟨max a.1 b.1, by omega, by omega, by omega, by omega⟩
  · rintro ⟨slot, h1, h2, h3, h4⟩
    omega

theorem areasBad_eq_false {areas : List (Nat × Nat)} :
    areasBad areas = false ↔ (∀ a ∈ areas, a.1 ≤ a.2 ∧ a.2 ≤ 256) ∧
      areas.Pairwise fun a b => areasClash a b = false := by
  simp [areasBad]

/-- The area that a list of areas gives a crane port. -/
abbrev areaOf (areas : List (Nat × Nat)) (c : CraneId) : Nat × Nat := areas.getD c.val (0, 0)

theorem areaOf_bounds {areas : List (Nat × Nat)} (h : ∀ a ∈ areas, a.1 ≤ a.2 ∧ a.2 ≤ 256) (c : CraneId) :
    (areaOf areas c).1 ≤ (areaOf areas c).2 ∧ (areaOf areas c).2 ≤ 256 := by
  rcases Nat.lt_or_ge c.val areas.length with given | beyond
  · rw [areaOf, List.getD_eq_getElem _ _ given]
    exact h _ (List.getElem_mem given)
  · rw [areaOf, List.getD_eq_default _ _ beyond]
    exact ⟨le_rfl, Nat.zero_le _⟩

/-- Of two different ports' areas in a list without a clash, none shares a slot with the other. -/
theorem areaOf_apart {areas : List (Nat × Nat)} (h : areas.Pairwise fun a b => areasClash a b = false)
    {c d : CraneId} (hcd : c ≠ d) (slot : Nat) :
    ¬((areaOf areas c).1 ≤ slot ∧ slot < (areaOf areas c).2 ∧
      (areaOf areas d).1 ≤ slot ∧ slot < (areaOf areas d).2) := by
  wlog before : c < d generalizing c d
  · rintro ⟨h1, h2, h3, h4⟩
    exact this hcd.symm (lt_of_le_of_ne (not_lt.1 before) hcd.symm) ⟨h3, h4, h1, h2⟩
  rcases Nat.lt_or_ge d.val areas.length with given | beyond
  · rw [areaOf, areaOf, List.getD_eq_getElem _ _ given, List.getD_eq_getElem _ _ (Nat.lt_trans before given)]
    have free := List.pairwise_iff_getElem.1 h _ _ (Nat.lt_trans before given) given before
    rw [← Bool.not_eq_true, areasClash_iff] at free
    exact fun shared => free ⟨slot, shared⟩
  · rw [areaOf, areaOf, List.getD_eq_default areas (0, 0) beyond]
    rintro ⟨-, -, -, below⟩
    exact Nat.not_lt_zero _ below

theorem State.storeAreas_box (areas : List (Nat × Nat)) (s : State) (c : CraneId) :
    (s.storeAreas areas).box c =
      if (s.box c).start = (areaOf areas c).1 ∧ (s.box c).stop = (areaOf areas c).2 then s.box c
      else { start := (areaOf areas c).1, stop := (areaOf areas c).2, queue := [], loss := true } := by
  simp only [State.storeAreas, State.box, Table.entry_mapAll]
  rfl

/-- Areas that are not refused are stored as they are given, and a changed one is empty (R169). -/
theorem portsKept_storeAreas (s : State) {areas : List (Nat × Nat)} (good : areasBad areas = false) :
    PortsKept s (s.storeAreas areas) := by
  obtain ⟨bounds, apart⟩ := areasBad_eq_false.1 good
  have start c : ((s.storeAreas areas).box c).start = (areaOf areas c).1 := by
    rw [State.storeAreas_box]
    split
    · next same => exact same.1
    · rfl
  have stop c : ((s.storeAreas areas).box c).stop = (areaOf areas c).2 := by
    rw [State.storeAreas_box]
    split
    · next same => exact same.2
    · rfl
  refine ⟨fun ok => ⟨fun c => ?_, fun c d hcd slot => ?_⟩, linksThrough_of_links rfl, fun c sent waits => ?_⟩
  · rw [start, stop]
    refine ⟨(areaOf_bounds bounds c).1, (areaOf_bounds bounds c).2, ?_⟩
    rw [State.storeAreas_box]
    split
    · exact (ok.1 c).2.2
    · exact Nat.zero_le _
  · rw [start, stop, start, stop]
    exact areaOf_apart apart hcd slot
  · rw [State.storeAreas_box] at waits
    split at waits
    · exact sent waits
    · exact absurd rfl waits

/-! ### The moves of the requests -/

theorem portsKept_announce (s : State) (c : CraneId) (old new : Stage) (cause : StageCause) (f : Permit → Permit) :
    PortsKept s ((s.announceStage c old new cause).editPermit c f) := by
  refine .trans ?_ (portsKept_of_same (State.editPermit_boxes _ _ _) (State.editPermit_links _ _ _))
  unfold State.announceStage
  dsimp only
  refine .trans (portsKept_of_same ?_ ?_) (portsKept_post _ _ _)
  · split <;> rfl
  · split <;> rfl

/-- No move of a request overfills the Notice Store, or leaves a notice at an idle transmitter. -/
theorem portsKept_request : RequestMoves PortsKept where
  refl := .refl
  trans := .trans
  chosen _ := portsKept_of_same rfl rfl
  post := portsKept_post
  trip _ := portsKept_of_same rfl rfl
  silence _ := portsKept_of_same rfl rfl
  grant _ _ _ _ _ := portsKept_of_same rfl rfl
  demand _ _ _ _ _ := portsKept_of_same rfl rfl
  figures _ _ _ _ _ _ := portsKept_of_same rfl rfl
  judge s c := by
    unfold State.judgeStage
    dsimp only
    split <;> exact portsKept_of_same rfl rfl
  latchKeep _ _ _ _ _ _ _ _ := portsKept_of_same rfl rfl
  latchHalt _ _ _ _ _ _ _ := portsKept_of_same rfl rfl
  reclaim _ _ _ _ _ _ := portsKept_of_same rfl rfl
  regrant _ _ _ _ _ := portsKept_of_same rfl rfl
  suspend _ _ _ _ := portsKept_of_same rfl rfl
  bookingEvent _ := portsKept_of_same rfl rfl
  swap _ _ _ := portsKept_of_same rfl rfl
  windStop _ := portsKept_of_same rfl rfl
  hold _ _ _ := portsKept_of_same rfl rfl
  govern _ _ _ _ := portsKept_of_same rfl rfl
  stage s c _ new cause _ _ := portsKept_announce s c _ new cause _
  applyDone _ := portsKept_of_same rfl rfl
  rezone _ _ _ _ := portsKept_of_same rfl rfl
  drop _ _ _ := portsKept_of_same rfl rfl
  remark _ _ _ := portsKept_of_same rfl rfl
  place s z c b e _ _ := by
    obtain ⟨zs, n, placed⟩ := RequestMoves.place_rest s z c b e
    rw [placed]
    exact portsKept_of_same rfl rfl
  adopt _ _ := portsKept_of_same rfl rfl
  booking _ _ _ := portsKept_of_same rfl rfl
  terminal _ := by
    rw [State.countTerminal_eq]
    exact portsKept_of_same rfl rfl
  event _ _ := portsKept_of_same rfl rfl
  clearEvents _ := portsKept_of_same rfl rfl
  enables _ _ := portsKept_of_same rfl rfl
  areas s _ good := portsKept_storeAreas s good
  config _ _ _ _ _ := portsKept_of_same rfl rfl
  permit _ _ _ _ _ _ := portsKept_of_same rfl rfl
  position _ _ _ := portsKept_of_same rfl rfl
  channel _ _ _ _ := portsKept_of_same rfl rfl
  shadow _ _ := portsKept_of_same rfl rfl
  upgrade _ _ _ _ _ _ := portsKept_of_same rfl rfl
  mark _ _ _ _ _ := portsKept_of_same rfl rfl
  clock _ _ _ _ := portsKept_of_same rfl rfl
  entry s b := by
    unfold State.addBooking State.makeSlot
    dsimp only
    split
    · exact portsKept_of_same rfl rfl
    · split <;> exact portsKept_of_same rfl rfl
  restartBoxes s := by
    have box c : s.restartBoxes.box c = { s.box c with queue := [], loss := false } := by
      simp only [State.restartBoxes, State.box, Table.entry_mapAll]
    exact portsKept_of_queues (fun c => by rw [box]) (fun c => by rw [box]) (fun c => .inr (by rw [box])) rfl
  restartZones s := by
    unfold State.restartZones
    exact portsKept_of_same rfl rfl
  restartPositions _ := portsKept_of_same rfl rfl
  restartPermits _ := portsKept_of_same rfl rfl
  restartWind _ := portsKept_of_same rfl rfl
  restartBookings _ := portsKept_of_same rfl rfl
  restartKind _ _ := portsKept_of_same rfl rfl

/-! ### One port between two steps -/

/-- A link whose request is not under way: less than a frame collected, a request waiting only behind a full
buffer, and the counts in range (R164, R166). -/
def Link.sound (l : Link) : Prop :=
  l.rx.portOk ∧ l.serving = false ∧ (l.waiting.isSome = true → l.buffer.isSome = true) ∧
    l.oversize ≤ 65535 ∧ l.timeouts ≤ 65535 ∧ l.crcErrors ≤ 65535 ∧ l.overruns ≤ 65535

/-- A full buffer or a waiting notice leaves no transmitter idle (R167). -/
def State.sending (p : Port) (s : State) : Prop :=
  ((s.link p).buffer.isSome = true → (s.link p).tx ≠ .idle) ∧
    ∀ c, p = .crane c → (s.box c).queue ≠ [] → (s.link p).tx ≠ .idle

theorem State.linkOk_iff {s : State} {p : Port} : s.linkOk p ↔ (s.link p).sound ∧ s.sending p := by
  constructor
  · rintro ⟨rx, serving, waits, response, notices, counts⟩
    exact ⟨⟨rx, serving, waits, counts⟩, response, notices⟩
  · rintro ⟨⟨rx, serving, waits, counts⟩, response, notices⟩
    exact ⟨rx, serving, waits, response, notices, counts⟩

theorem State.linkOk_of_same {s t : State} {p : Port} (hl : t.link p = s.link p)
    (hb : ∀ c, p = .crane c → t.box c = s.box c) (h : s.linkOk p) : t.linkOk p := by
  rw [State.linkOk_iff] at h ⊢
  obtain ⟨sound, response, notices⟩ := h
  refine ⟨hl ▸ sound, by rw [hl]; exact response, fun c port => ?_⟩
  rw [hl, hb c port]
  exact notices c port

theorem Link.sound_mayStart {a b : Link} (h : a.mayStart b) (sound : a.sound) : b.sound := by
  rw [h.1]
  exact sound

/-- A link through what is kept behind the ports. -/
theorem PortsKept.linkOk {s t : State} (h : PortsKept s t) {p : Port} (ok : s.linkOk p) : t.linkOk p := by
  rw [State.linkOk_iff] at ok ⊢
  obtain ⟨sound, response, notices⟩ := ok
  have after := Link.sound_mayStart (h.links p) sound
  obtain ⟨only, still⟩ := h.links p
  refine ⟨after, fun full => ?_, fun c port waits => ?_⟩
  · have busy := response (by rw [only] at full; exact full)
    rw [still (.inr busy)]
    exact busy
  · subst port
    refine (h.sent c (fun w => .inr (notices c rfl w)) waits).resolve_left fun serving => ?_
    rw [after.2.1] at serving
    cases serving

/-! ### All ports between two steps -/

/-- Notice Store and links as they stand between two steps. -/
def State.portsOk (s : State) : Prop := s.noticeStoreOk ∧ s.linksOk

/-- Notice Store and links in order, but for what the port's transmitter has still to start. -/
def State.portsOkBut (p : Port) (s : State) : Prop :=
  s.noticeStoreOk ∧ (s.link p).sound ∧ ∀ q, q ≠ p → s.linkOk q

theorem PortsKept.portsOk {s t : State} (h : PortsKept s t) (ok : s.portsOk) : t.portsOk :=
  ⟨h.store ok.1, fun p => h.linkOk (ok.2 p)⟩

/-- A link written with a sound one. -/
theorem State.portsOkBut_editLink {s : State} {p : Port} {f : Link → Link} (store : s.noticeStoreOk)
    (others : ∀ q, q ≠ p → s.linkOk q) (sound : (f (s.link p)).sound) : (s.editLink p f).portsOkBut p := by
  refine ⟨store, ?_, fun q h => State.linkOk_of_same (State.editLink_link_other s f h) (fun _ _ => rfl) (others q h)⟩
  rw [State.editLink_link_same]
  exact sound

/-- A link written with a sound one, its transmitter and its buffer as they were. -/
theorem State.portsOk_editLink {s : State} {p : Port} {f : Link → Link} (ok : s.portsOk)
    (sound : (s.link p).sound → (f (s.link p)).sound) (tx : (f (s.link p)).tx = (s.link p).tx)
    (buffer : (f (s.link p)).buffer = (s.link p).buffer) : (s.editLink p f).portsOk := by
  obtain ⟨store, links⟩ := ok
  obtain ⟨before, response, notices⟩ := State.linkOk_iff.1 (links p)
  obtain ⟨kept, after, others⟩ := State.portsOkBut_editLink store (fun q _ => links q) (sound before)
  refine ⟨kept, fun q => ?_⟩
  by_cases h : q = p
  · subst h
    refine State.linkOk_iff.2 ⟨after, ?_, ?_⟩
    · rw [State.editLink_link_same, tx, buffer]
      exact response
    · rw [State.editLink_link_same, tx]
      exact notices
  · exact others q h

/-- The start of a frame brings the port in order (R167). -/
theorem State.portsOk_startTx {s : State} {p : Port} (ok : s.portsOkBut p) : (s.startTx p).portsOk := by
  obtain ⟨store, sound, others⟩ := ok
  refine ⟨noticeStoreOk_mayPost (State.startTx_box s p) store, fun q => ?_⟩
  by_cases h : q = p
  · subst h
    refine State.linkOk_iff.2 ⟨Link.sound_mayStart (State.startTx_link s q q) sound, fun full idle => ?_,
      fun c port waits idle => ?_⟩
    · obtain ⟨same, empty, -⟩ := s.startTx_unsent q sound.2.1 idle
      rw [same, empty] at full
      cases full
    · obtain ⟨same, -, empty⟩ := s.startTx_unsent q sound.2.1 idle
      rw [same] at waits
      exact waits (empty c port)
  · obtain ⟨link, box⟩ := s.startTx_other h
    exact State.linkOk_of_same link box (others q h)

/-! ### Requests (R165, R166) -/

theorem portsKept_clearLoss (s : State) (p : Port) : PortsKept s (s.clearLoss p) := by
  cases p with
  | planner => exact .refl s
  | crane c =>
    have box d : ∃ loss, (s.clearLoss (.crane c)).box d = { s.box d with loss := loss } := by
      show ∃ loss, (s.editBox c fun b => { b with loss := false }).box d = _
      rw [State.editBox_box]
      split
      · exact ⟨false, rfl⟩
      · exact ⟨(s.box d).loss, rfl⟩
    refine portsKept_of_queues (fun d => ?_) (fun d => ?_) (fun d => .inl ?_) rfl <;>
      obtain ⟨loss, same⟩ := box d <;> rw [same]

/-- Behind a request under way, its response is placed in the buffer (R165). -/
theorem State.portsOkBut_answered {s t : State} {p : Port} (r : Response) (ok : s.portsOkBut p)
    (kept : PortsKept (s.editLink p fun l => { l with serving := true }) t) :
    (t.editLink p fun l => { l with buffer := some r, serving := false }).portsOkBut p := by
  obtain ⟨store, sound, others⟩ := ok
  have link : t.link p = { s.link p with serving := true } := by
    rw [(kept.links p).2 (.inl (by simp)), State.editLink_link_same]
  refine State.portsOkBut_editLink (kept.store store) (fun q h => kept.linkOk ?_) ?_
  · exact State.linkOk_of_same (State.editLink_link_other s _ h) (fun _ _ => rfl) (others q h)
  · obtain ⟨rx, -, -, counts⟩ := sound
    rw [link]
    exact ⟨rx, rfl, fun _ => rfl, counts⟩

/-- A request is taken: its response is placed, and the transmitter started (R165 to R167). -/
theorem State.portsOk_takeRequest {s : State} {p : Port} (f : Frame) (ok : s.portsOkBut p) :
    (s.takeRequest p f).portsOk := by
  have served := portsKept_request.serve p f (s.editLink p fun l => { l with serving := true })
  unfold State.takeRequest
  dsimp only
  refine State.portsOk_startTx (State.portsOkBut_answered _ ok ?_)
  split
  · exact served.trans (portsKept_clearLoss _ p)
  · exact served

theorem Link.sound.heard {l : Link} (h : l.sound) : ({ l with rx := .hunt } : Link).sound := ⟨trivial, h.2⟩

theorem State.portsOk_completed {s : State} (p : Port) (f : Frame) (ok : s.portsOk) : (s.completed p f).portsOk := by
  have heard : (s.editLink p fun l => { l with rx := .hunt }).portsOk :=
    State.portsOk_editLink ok Link.sound.heard rfl rfl
  unfold State.completed
  dsimp only
  split
  · refine State.portsOk_editLink heard (fun sound => ?_) rfl rfl
    obtain ⟨rx, serving, waits, oversize, timeouts, crcErrors, -⟩ := sound
    exact ⟨rx, serving, waits, oversize, timeouts, crcErrors, saturate_le _⟩
  · split
    · next full =>
      refine State.portsOk_editLink heard (fun sound => ?_) rfl rfl
      obtain ⟨rx, serving, -, counts⟩ := sound
      refine ⟨rx, serving, fun _ => ?_, counts⟩
      rw [State.editLink_link_same]
      exact full
    · obtain ⟨store, links⟩ := heard
      exact State.portsOk_takeRequest f ⟨store, (State.linkOk_iff.1 (links p)).1, fun q _ => links q⟩

/-! ### Bytes (R164) -/

/-- Bytes that leave more to come are less than a frame (R164). -/
theorem Receiver.portOk_of_more {n : Nat} {got : List Byte} (h : receptionOf got = .more) :
    (Receiver.inFrame n got).portOk := by
  cases got with
  | nil => trivial
  | cons len rest =>
    unfold receptionOf at h
    dsimp only at h
    split at h
    · cases h
    · next short =>
      split at h
      · next less => exact ⟨Nat.not_lt.1 short, less⟩
      · split at h <;> cases h

theorem State.portsOk_dropOversize {s : State} (p : Port) (ok : s.portsOk) : (s.dropOversize p).portsOk :=
  State.portsOk_editLink ok (fun ⟨_, serving, waits, _, counts⟩ => ⟨trivial, serving, waits, saturate_le _, counts⟩)
    rfl rfl

theorem State.portsOk_dropDamaged {s : State} (p : Port) (ok : s.portsOk) : (s.dropDamaged p).portsOk :=
  State.portsOk_editLink ok (fun ⟨_, serving, waits, oversize, timeouts, _, overruns⟩ =>
    ⟨trivial, serving, waits, oversize, timeouts, saturate_le _, overruns⟩) rfl rfl

theorem State.portsOk_dropLate {s : State} (p : Port) (ok : s.portsOk) : (s.dropLate p).portsOk := by
  unfold State.dropLate
  split
  · exact State.portsOk_editLink ok (fun ⟨_, serving, waits, oversize, _, counts⟩ =>
      ⟨trivial, serving, waits, oversize, saturate_le _, counts⟩) rfl rfl
  all_goals exact ok

theorem State.portsOk_portByte (p : Port) (b : Byte) {s : State} (ok : s.portsOk) : (s.portByte p b).portsOk := by
  have collected {n : Nat} {got : List Byte} (h : receptionOf got = .more) :
      (s.editLink p fun l => { l with rx := .inFrame n got }).portsOk :=
    State.portsOk_editLink ok (fun sound => ⟨Receiver.portOk_of_more h, sound.2⟩) rfl rfl
  unfold State.portByte
  split
  · split
    · exact collected rfl
    · exact ok
  · split
    · next more => exact collected more
    · exact State.portsOk_dropOversize p ok
    · exact State.portsOk_dropDamaged p ok
    · exact State.portsOk_completed p _ ok

theorem State.portsOk_portBytes (p : Port) (bs : List Byte) (s : State) (ok : s.portsOk) : (s.portBytes p bs).portsOk :=
  State.each_rel (R := fun s t => s.portsOk → t.portsOk) (fun _ => id) (fun h k => k ∘ h) bs _
    (fun b _ _ => State.portsOk_portByte p b) s ok

/-! ### Transmissions (R166, R167) -/

theorem State.portsOk_endTx (p : Port) {s : State} (ok : s.portsOk) : (s.endTx p).portsOk := by
  obtain ⟨store, links⟩ := ok
  have sound := (State.linkOk_iff.1 (links p)).1
  have sent : (s.sentResponse p).portsOkBut p :=
    State.portsOkBut_editLink store (fun q _ => links q) ⟨sound.1, sound.2.1, nofun, sound.2.2.2⟩
  cases sending : (s.link p).tx with
  | idle =>
    rw [State.endTx_idle sending]
    exact ⟨store, links⟩
  | notice n =>
    rw [State.endTx_notice sending]
    exact State.portsOk_startTx (State.portsOkBut_editLink store (fun q _ => links q) sound)
  | response r =>
    cases waits : (s.link p).waiting with
    | none =>
      rw [State.endTx_response sending waits]
      exact State.portsOk_startTx sent
    | some f =>
      rw [State.endTx_waiting sending waits]
      exact State.portsOk_takeRequest f sent

/-! ### Commands and time -/

theorem State.portsOk_restarted (s : State) : s.restarted.portsOk := by
  have box c : s.restarted.box c = {} := by simp [State.restarted, State.reset, State.box]
  have link p : s.restarted.link p = {} := by simp [State.restarted, State.reset, State.link]
  refine ⟨⟨fun c => ?_, fun c d _ slot => ?_⟩, fun p => State.linkOk_iff.2 ⟨?_, ?_, fun c _ => ?_⟩⟩
  · rw [box]
    exact ⟨le_rfl, Nat.zero_le _, le_rfl⟩
  · rw [box]
    exact fun within => Nat.not_lt_zero _ within.2.1
  · rw [link]
    exact ⟨trivial, rfl, nofun, Nat.zero_le _, Nat.zero_le _, Nat.zero_le _, Nat.zero_le _⟩
  · rw [link]
    exact nofun
  · rw [box]
    exact fun waits => absurd rfl waits

/-- A byte at a line receiver reaches the ports by the notices of its sample alone. -/
theorem portsKept_lineByte (l : ChannelId) (b : Byte) (s : State) : PortsKept s (s.lineByte l b) := by
  have set r : PortsKept s (s.setLine l r) := portsKept_of_same rfl rfl
  unfold State.lineByte State.passSample
  split
  · split
    · exact set _
    · exact .refl s
  · split
    · split
      · dsimp only
        split
        · next enabled => exact (set _).trans (portsKept_request.takeSample l _ _ _ enabled)
        · exact set _
      · exact portsKept_of_same rfl rfl
    · exact set _

theorem portsKept_lineBytes (l : ChannelId) (bs : List Byte) (s : State) : PortsKept s (s.lineBytes l bs) :=
  State.each_rel .refl .trans bs _ (fun b _ s => portsKept_lineByte l b s) s

theorem portsKept_lateSample (l : ChannelId) (s : State) : PortsKept s (s.lateSample l) := by
  unfold State.lateSample
  split
  · exact portsKept_of_same rfl rfl
  all_goals exact .refl s

theorem State.portsOk_exec {i : Instr} {s t : State} (he : exec i s = .next t) (ok : s.portsOk) : t.portsOk := by
  cases i <;> cases he
  case powerOn | reset => exact State.portsOk_restarted s
  case frameOversize a | frameCrcError a => exact State.portsOk_portBytes a.port a.bytes s ok
  case frameCompletionTimeout p => exact State.portsOk_dropLate p ok
  case transmissionEnd p => exact State.portsOk_endTx p ok
  case sample l v x => exact (portsKept_lineBytes l _ s).portsOk ok
  case sampleCheckFailure a => exact (portsKept_lineBytes a.line a.bytes s).portsOk ok
  case sampleFrameTimeout l => exact (portsKept_lateSample l s).portsOk ok
  case handoverTimerExpiry z => exact (portsKept_request.toZoneMoves.endHandover z s).portsOk ok
  case yieldTimerExpiry z => exact (portsKept_request.endYield z s).portsOk ok
  case reportTimerExpiry c => exact (portsKept_request.endReport c s).portsOk ok
  case staleTimerExpiry k => exact (portsKept_request.endStale k s).portsOk ok
  case binTimerExpiry k => exact (portsKept_request.endBin k s).portsOk ok
  case holdTimerExpiry c => exact (portsKept_request.toWindMoves.endHold c s).portsOk ok
  case stowTimerExpiry c => exact (portsKept_request.endStow c s).portsOk ok
  case secondTimerExpiry => exact (portsKept_request.endSecond s).portsOk ok
  case minuteTick => exact (portsKept_request.tickMinute s).portsOk ok
  case remainingMinutesZero id => exact (portsKept_request.exhaust id s).portsOk ok
  case syncByteInHunt p => exact State.portsOk_portByte p _ ok
  case startCharacterInHunt l => exact (portsKept_lineByte l _ s).portsOk ok
  all_goals exact State.portsOk_portBytes _ _ s ok

/-- Time runs the completion timers down, and touches nothing else of a port (log entry 1). -/
theorem State.portsOk_elapse {s : State} (ok : s.portsOk) : s.elapse.portsOk := by
  obtain ⟨store, links⟩ := ok
  have link p : s.elapse.link p = { s.link p with rx := (s.link p).rx.elapse } := by
    simp only [State.elapse, State.link, Table.entry_mapAll]
  have rx (r : Receiver) (h : r.portOk) : r.elapse.portOk := by
    match r, h with
    | .hunt, _ => trivial
    | .inFrame _ [], _ => trivial
    | .inFrame _ (_ :: _), h => exact h
  refine ⟨store, fun p => State.linkOk_iff.2 ?_⟩
  obtain ⟨sound, response, notices⟩ := State.linkOk_iff.1 (links p)
  refine ⟨?_, ?_, ?_⟩
  · rw [link]
    exact ⟨rx _ sound.1, sound.2⟩
  · rw [link]
    exact response
  · rw [link]
    exact notices

end Sys2Proof.Machine

namespace Sys2Proof.Proofs

open Sys2Proof.Machine

/-- Settles O56: every command keeps the ports (`State.portsOk_exec`), and so does time. -/
theorem stepKeepsPorts : Obligations.StepKeepsPorts := by
  intro s t store links hstep
  have ok : s.portsOk := ⟨store, links⟩
  unfold step at hstep
  split at hstep
  · cases hstep
    exact State.portsOk_elapse ok
  · exact State.portsOk_exec hstep ok

end Sys2Proof.Proofs

/-! ## Frames at a receiver (R162 to R166)

The bytes of a frame are collected up to its last (`State.portBytes_last`), and the last decides: a request
completes, a damaged frame is dropped. -/

namespace Sys2Proof.Machine

/-! ### Frames discarded (R164) -/

/-- What a discarded frame does does not depend on what its receiver held. -/
theorem State.dropOversize_rx (s : State) (p : Port) (r : Receiver) :
    (s.editLink p fun l => { l with rx := r }).dropOversize p = s.dropOversize p := by
  unfold State.dropOversize
  rw [State.editLink_editLink]
  rfl

theorem State.dropDamaged_rx (s : State) (p : Port) (r : Receiver) :
    (s.editLink p fun l => { l with rx := r }).dropDamaged p = s.dropDamaged p := by
  unfold State.dropDamaged
  rw [State.editLink_editLink]
  rfl

theorem State.portByte_oversize {s : State} {p : Port} {n : Nat} {b : Byte} (h : (s.link p).rx = .inFrame n [])
    (long : 60 < b.toNat) : s.portByte p b = s.dropOversize p := by
  unfold State.portByte
  simp [h, receptionOf, long]

theorem State.portByte_damaged {s : State} {p : Port} {n : Nat} {got : List Byte} {b : Byte}
    (h : (s.link p).rx = .inFrame n got) (damaged : receptionOf (got ++ [b]) = .damaged) :
    s.portByte p b = s.dropDamaged p := by
  unfold State.portByte
  simp only [h, damaged]

theorem State.dropLate_of_expired {s : State} {p : Port} {got : List Byte} (h : (s.link p).rx = .inFrame 0 got) :
    s.dropLate p =
      (s.editLink p fun l => { l with rx := .hunt, timeouts := saturate l.timeouts }).setEvent .frame := by
  unfold State.dropLate
  rw [h]

theorem State.dropLate_of_left {s : State} {p : Port} (h : ∀ got, (s.link p).rx ≠ .inFrame 0 got) :
    s.dropLate p = s := by
  unfold State.dropLate
  split
  · next got expired => exact absurd expired (h got)
  all_goals rfl

/-- Of a frame given whole with a body above 60 bytes its length byte arrives, and ends it (log entry 6). -/
theorem State.arrive_oversize {s : State} {p : Port} {f : Frame} (long : 60 < f.body.length)
    (fresh : (s.link p).rx.fresh = true) : s.arrive p f = s.dropOversize p := by
  have bytes : requestBytes f = [BitVec.ofNat 8 (min 255 f.body.length)] := if_pos long
  have above : 60 < (BitVec.ofNat 8 (min 255 f.body.length)).toNat := by
    rw [BitVec.toNat_ofNat]
    omega
  unfold State.arrive
  rw [bytes]
  cases hrx : (s.link p).rx with
  | hunt =>
    show (s.portByte p 0xC3#8).portByte p _ = _
    rw [State.portByte_sync hrx, State.portByte_oversize (n := 5) (by simp) above, State.dropOversize_rx]
  | inFrame n got =>
    obtain rfl : got = [] := by simpa [hrx, Receiver.fresh] using fresh
    exact State.portByte_oversize hrx above

/-! ### Frames collected (R164) -/

/-- Bytes that with those collected stand before the last of a frame are collected too. -/
theorem State.portBytes_last {p : Port} {n : Nat} {whole : List Byte} {b : Byte}
    (more : ∀ got x rest, got ++ x :: rest = whole → receptionOf got = .more) (rest : List Byte) :
    ∀ (got : List Byte) (s : State), got ++ (rest ++ [b]) = whole → (s.link p).rx = .inFrame n got →
      s.portBytes p (rest ++ [b]) = (s.editLink p fun l => { l with rx := .inFrame n (got ++ rest) }).portByte p b := by
  induction rest with
  | nil =>
    intro got s _ hrx
    rw [State.editLink_self]
    · rfl
    · rw [List.append_nil, ← hrx]
  | cons x rest ih =>
    intro got s frame hrx
    have next : (got ++ [x]) ++ (rest ++ [b]) = whole := by
      rw [← frame]
      simp
    have collects : receptionOf (got ++ [x]) = .more := by
      cases rest with
      | nil => exact more _ b [] next
      | cons y rest => exact more _ y (rest ++ [b]) next
    show (s.portByte p x).portBytes p (rest ++ [b]) = _
    rw [State.portByte_collected hrx collects, ih (got ++ [x]) _ next (by simp), State.editLink_editLink]
    simp only [List.append_assoc, List.singleton_append]
    rfl

/-- Behind its length byte, a frame of L bytes has L + 4 more (R162). -/
theorem receptionOf_short {len : Byte} {more : List Byte} (hlen : len.toNat ≤ 60)
    (short : more.length < len.toNat + 4) : receptionOf (len :: more) = .more := by
  simp [receptionOf, Nat.not_lt.2 hlen, short]

/-- A number of two bytes is that of its two bytes, and of no others. -/
theorem append_of_twoBytes {c1 c2 : Byte} {v : BitVec 16} (h : [c1, c2] = twoBytes v.toNat) : c1 ++ c2 = v := by
  obtain ⟨high, h⟩ := List.cons.inj h
  obtain ⟨low, -⟩ := List.cons.inj h
  rw [high, low]
  exact speed_bytes v

/-- A frame whose CRC does not match is damaged (R164). -/
theorem receptionOf_damaged {len kind tag c1 c2 : Byte} {body : List Byte} (hlen : len.toNat ≤ 60)
    (hbody : body.length = len.toNat) (differs : c1 ++ c2 ≠ crc16 (len :: kind :: tag :: body)) :
    receptionOf (len :: kind :: tag :: (body ++ [c1, c2])) = .damaged := by
  have last : (kind :: tag :: (body ++ [c1, c2])).drop (len.toNat + 2) = [c1, c2] := by simp [← hbody]
  have covered : (kind :: tag :: (body ++ [c1, c2])).take (len.toNat + 2) = kind :: tag :: body := by
    simp [← hbody]
  have complete : ¬(kind :: tag :: (body ++ [c1, c2])).length < len.toNat + 4 := by simp [hbody]
  unfold receptionOf
  dsimp only
  rw [if_neg (Nat.not_lt.2 hlen), if_neg complete, last, covered,
    if_neg fun same => differs (append_of_twoBytes same)]

/-- The bytes that are left of a frame whose CRC does not match end it (R164). -/
theorem State.portBytes_damaged {s : State} {p : Port} {n : Nat} {got bytes body : List Byte}
    {len kind tag c1 c2 : Byte} (hlen : len.toNat ≤ 60) (hbody : body.length = len.toNat)
    (differs : c1 ++ c2 ≠ crc16 (len :: kind :: tag :: body)) (hrx : (s.link p).rx = .inFrame n got)
    (more : bytes ≠ []) (frame : got ++ bytes = len :: kind :: tag :: (body ++ [c1, c2])) :
    s.portBytes p bytes = s.dropDamaged p := by
  obtain ⟨rest, b, rfl⟩ : ∃ rest b, bytes = rest ++ [b] :=
    ⟨bytes.dropLast, bytes.getLast more, (List.dropLast_append_getLast more).symm⟩
  have collects : ∀ had x left, had ++ x :: left = len :: kind :: tag :: (body ++ [c1, c2]) →
      receptionOf had = .more := by
    intro had x left part
    cases had with
    | nil => rfl
    | cons first had =>
      rw [List.cons_append] at part
      obtain ⟨rfl, behind⟩ := List.cons.inj part
      have count := congrArg List.length behind
      simp only [List.length_append, List.length_cons, List.length_nil] at count
      exact receptionOf_short hlen (by omega)
  rw [State.portBytes_last collects rest got s frame hrx,
    State.portByte_damaged (n := n) (got := got ++ rest) (by simp), State.dropDamaged_rx]
  rw [List.append_assoc, frame]
  exact receptionOf_damaged hlen hbody differs

/-! ### Frames that arrive (R162, R164) -/

/-- Where its receiver has collected a beginning of the frame, what is left of it arrives (log entry 6). -/
theorem Receiver.awaited_rest {first : Byte} {rest got more : List Byte} (n : Nat) (h : got ++ more = rest) :
    (Receiver.inFrame n got).awaited first rest = more := by
  subst h
  have part : got.isPrefixOf (got ++ more) = true := List.isPrefixOf_iff_prefix.2 (List.prefix_append got more)
  simp [Receiver.awaited, part]

theorem Receiver.awaits_rest {rest got more : List Byte} (n : Nat) (h : got ++ more = rest) (left : more ≠ []) :
    (Receiver.inFrame n got).awaits rest = true := by
  subst h
  have part : got.isPrefixOf (got ++ more) = true := List.isPrefixOf_iff_prefix.2 (List.prefix_append got more)
  have count := List.length_pos_of_ne_nil left
  simp [Receiver.awaits, part, count]

/-! ### Requests that find the buffer full (R166) -/

theorem State.completed_waits {s : State} {p : Port} (f : Frame) (nothing : (s.link p).waiting = none)
    (full : (s.link p).buffer.isSome = true) :
    s.completed p f = s.editLink p fun l => { l with rx := .hunt, waiting := some f } := by
  unfold State.completed
  simp only [nothing, full, Option.isSome_none, Bool.false_eq_true, if_false, if_true, State.editLink_editLink]
  rfl

theorem State.completed_overruns {s : State} {p : Port} (f : Frame) (occupied : (s.link p).waiting.isSome = true) :
    s.completed p f =
      (s.editLink p fun l => { l with rx := .hunt, overruns := saturate l.overruns }).setEvent .frame := by
  unfold State.completed
  simp only [occupied, if_true, State.editLink_editLink]
  rfl

end Sys2Proof.Machine

namespace Sys2Proof.Proofs

open Sys2Proof.Machine

/-- Settles O4: the rows by their definitions, the bytes by `requestBytes_eq`, and what is left of a frame by
`Receiver.awaited_rest`. -/
theorem requestsAreFrames : Obligations.RequestsAreFrames := by
  intro p tag b s frame
  refine ⟨rfl, rfl, rfl, rfl, rfl, rfl, rfl, rfl, rfl, rfl, rfl, rfl, rfl, rfl, rfl, rfl, rfl, rfl, rfl, rfl, rfl, rfl,
    rfl, rfl, rfl, rfl, rfl, rfl, rfl, rfl, rfl, rfl, fun f => ⟨rfl, rfl, fun fits => ?_⟩⟩
  intro inner rest
  have bytes : requestBytes f = rest := requestBytes_eq f fits
  have arrives {bs : List Byte} (h : (s.link p).rx.awaited 0xC3#8 rest = bs) :
      exec (.unknownKind p f) s = exec (.frameCrcError { port := p, bytes := bs }) s :=
    congrArg (fun bs => Host.Outcome.next (s.portBytes p bs)) (bytes ▸ h)
  refine ⟨fun hunt => arrives (by rw [hunt]; rfl), fun n got more hrx part => ⟨arrives ?_, fun left => ?_⟩,
    fun n got hrx other => arrives ?_⟩
  · rw [hrx]
    exact Receiver.awaited_rest n part
  · refine congrArg Host.Outcome.next ?_
    have awaits : (s.link p).rx.awaits (requestBytes f) = true := by
      rw [bytes, hrx]
      exact Receiver.awaits_rest n part left
    calc s.arrive p f
      _ = s.completed p f := State.arrive_completed s p f fits awaits
      _ = (s.editLink p fun l => { l with rx := .hunt }).completed p f := (State.completed_rx s p f .hunt).symm
      _ = (s.editLink p fun l => { l with rx := .hunt }).arrive p f :=
          (State.arrive_completed _ p f fits (by rw [State.editLink_link_same]; rfl)).symm
  · rw [hrx]
    exact Receiver.awaited_of_other n other

/-- Settles O7: the frame completes, and finds the buffer full or the place occupied. -/
theorem requestWaitsOrOverruns : Obligations.RequestWaitsOrOverruns := by
  intro p f s fits awaits
  have completes := State.arrive_completed s p f fits awaits
  exact ⟨fun nothing full => congrArg Host.Outcome.next (completes.trans (State.completed_waits f nothing full)),
    fun occupied => congrArg Host.Outcome.next (completes.trans (State.completed_overruns f occupied))⟩

/-- Settles O8, by what ends each frame: its length byte, its last byte, its completion timer. -/
theorem framesDropped : Obligations.FramesDropped := by
  intro p s oversize
  refine ⟨fun n b hrx long => ?_, fun bytes body len kind tag c1 c2 hlen hbody differs arrival => ?_,
    fun got expired => ?_, fun left => ?_, fun f long fresh => ?_⟩
  · exact congrArg Host.Outcome.next (State.portByte_oversize hrx long)
  · refine congrArg Host.Outcome.next ?_
    rcases arrival with ⟨hunt, rfl⟩ | ⟨n, got, hrx, more, frame⟩
    · show (s.portByte p 0xC3#8).portBytes p _ = s.dropDamaged p
      rw [State.portByte_sync hunt, State.portBytes_damaged (n := 5) (got := []) hlen hbody differs (by simp)
        (List.cons_ne_nil _ _) rfl, State.dropDamaged_rx]
    · exact State.portBytes_damaged hlen hbody differs hrx more frame
  · exact congrArg Host.Outcome.next (State.dropLate_of_expired expired)
  · exact congrArg Host.Outcome.next (State.dropLate_of_left left)
  · exact congrArg Host.Outcome.next (State.arrive_oversize long fresh)

end Sys2Proof.Proofs

/-! ## Refusals (R163, R165, R169)

The blocks either take a request or refuse it, and a refusal is a result alone (`serve_takenOrRefused`). -/

namespace Sys2Proof.Machine

/-! ### Kinds and lengths (R163, R165) -/

theorem CraneKind.code_range (k : CraneKind) : 0x01 ≤ k.code.toNat ∧ k.code.toNat ≤ 0x08 := by
  cases k <;> decide

theorem PlannerKind.code_range (k : PlannerKind) : 0x10 ≤ k.code.toNat ∧ k.code.toNat ≤ 0x27 := by
  cases k <;> decide

theorem craneKindOf_eq_none {code : Byte} (h : code.toNat < 0x01 ∨ 0x08 < code.toNat) : craneKindOf code = none := by
  refine List.find?_eq_none.2 fun k _ same => ?_
  have range := k.code_range
  rw [beq_iff_eq.1 same] at range
  omega

theorem plannerKindOf_eq_none {code : Byte} (h : code.toNat < 0x10 ∨ 0x27 < code.toNat) :
    plannerKindOf code = none := by
  refine List.find?_eq_none.2 fun k _ same => ?_
  have range := k.code_range
  rw [beq_iff_eq.1 same] at range
  omega

/-- A crane request whose body has not the length of its kind. -/
theorem refusedAs_craneLength {i : Instr} {c : CraneId} (k : CraneKind) {tag : Byte} {body : List Byte} {s : State}
    (hi : exec i s = .next (s.arrive (.crane c) { kind := k.code, tag := tag, body := body }))
    (hr : s.ready (.crane c)) (fits : body.length ≤ 60) (wrong : body.length ≠ k.length) :
    RefusedAs i (.crane c) k.code tag .length s := by
  unfold RefusedAs
  rw [hi, State.arrive_refused s (.crane c) _ hr fits .length]
  simp only [serve, craneKindOf_code, if_pos wrong]

/-- A planner request whose body has not the length of its kind. -/
theorem refusedAs_plannerLength {i : Instr} (k : PlannerKind) {tag : Byte} {body : List Byte} {s : State}
    (hi : exec i s = .next (s.arrive .planner { kind := k.code, tag := tag, body := body }))
    (hr : s.ready .planner) (fits : body.length ≤ 60) (wrong : body.length ≠ k.length) :
    RefusedAs i .planner k.code tag .length s := by
  unfold RefusedAs
  rw [hi, State.arrive_refused s .planner _ hr fits .length]
  simp only [serve, plannerKindOf_code, if_pos wrong]

/-! ### Requests taken or refused -/

/-- The results of a request that is not refused. -/
def Result.accepts (x : Result) : Prop := x = .ok ∨ x = .granted ∨ x = .queued ∨ x = .pending

/-- A request answered as one that is taken, or refused with no effect. -/
def TakenOrRefused (s : State) (answer : Reply × State) : Prop :=
  answer.1.result.accepts ∨ ∃ x, answer = refuse x s

theorem TakenOrRefused.refused (x : Result) (s : State) : TakenOrRefused s (refuse x s) := .inr ⟨x, rfl⟩

theorem TakenOrRefused.ok {s : State} {answer : Reply × State} (h : answer.1.result = .ok) :
    TakenOrRefused s answer := .inl (.inl h)

theorem paged_takenOrRefused (content : List Byte) (page : Nat) (clear : Bool) (s : State) :
    TakenOrRefused s (paged content page clear s) := by
  unfold paged
  split
  · exact .refused _ s
  · exact .ok rfl

/-! #### Crane requests -/

theorem serveHello_takenOrRefused (c : CraneId) (body : List Byte) (s : State) :
    TakenOrRefused s (serveHello c body s) := by
  unfold serveHello
  iterate 3
    split
    · exact .refused _ s
  exact .ok rfl

theorem serveReport_takenOrRefused (c : CraneId) (body : List Byte) (s : State) :
    TakenOrRefused s (serveReport c body s) := by
  unfold serveReport
  iterate 3
    split
    · exact .refused _ s
  exact .ok rfl

theorem State.takeClaim_takenOrRefused (c : CraneId) (z : ZoneId) (s : State) :
    TakenOrRefused s (s.takeClaim c z) := by
  unfold State.takeClaim
  split
  · exact .inl (.inr (.inl rfl))
  split
  · exact .inl (.inr (.inr (.inl rfl)))
  · exact .refused _ s

theorem serveClaim_takenOrRefused (c : CraneId) (body : List Byte) (s : State) :
    TakenOrRefused s (serveClaim c body s) := by
  unfold serveClaim
  iterate 8
    split
    · exact .refused _ s
  exact State.takeClaim_takenOrRefused c _ s

theorem serveWithdraw_takenOrRefused (c : CraneId) (body : List Byte) (s : State) :
    TakenOrRefused s (serveWithdraw c body s) := by
  unfold serveWithdraw
  iterate 4
    split
    · exact .refused _ s
  exact .ok rfl

theorem serveRelease_takenOrRefused (c : CraneId) (body : List Byte) (s : State) :
    TakenOrRefused s (serveRelease c body s) := by
  unfold serveRelease
  iterate 4
    split
    · exact .refused _ s
  exact .ok rfl

theorem serveArm_takenOrRefused (c : CraneId) (s : State) : TakenOrRefused s (serveArm c s) := by
  unfold serveArm
  iterate 2
    split
    · exact .refused _ s
  exact .ok rfl

theorem serveLiftDone_takenOrRefused (c : CraneId) (body : List Byte) (s : State) :
    TakenOrRefused s (serveLiftDone c body s) := by
  unfold serveLiftDone
  iterate 4
    split
    · exact .refused _ s
  exact .ok rfl

theorem serveStatus_takenOrRefused (c : CraneId) (body : List Byte) (s : State) :
    TakenOrRefused s (serveStatus c body s) := by
  unfold serveStatus
  split
  · exact .refused _ s
  · exact paged_takenOrRefused _ _ _ s

theorem serveCrane_takenOrRefused (c : CraneId) (k : CraneKind) (body : List Byte) (s : State) :
    TakenOrRefused s (serveCrane c k body s) := by
  cases k with
  | hello => exact serveHello_takenOrRefused c body s
  | report => exact serveReport_takenOrRefused c body s
  | claim => exact serveClaim_takenOrRefused c body s
  | withdraw => exact serveWithdraw_takenOrRefused c body s
  | release => exact serveRelease_takenOrRefused c body s
  | arm => exact serveArm_takenOrRefused c s
  | liftDone => exact serveLiftDone_takenOrRefused c body s
  | status => exact serveStatus_takenOrRefused c body s

/-! #### Planner requests -/

theorem serveConfigAreas_takenOrRefused (body : List Byte) (s : State) :
    TakenOrRefused s (serveConfigAreas body s) := by
  unfold serveConfigAreas
  split
  · exact .refused _ s
  · exact .ok rfl

theorem serveConfigCrane_takenOrRefused (body : List Byte) (s : State) :
    TakenOrRefused s (serveConfigCrane body s) := by
  unfold serveConfigCrane
  iterate 3
    split
    · exact .refused _ s
  exact .ok rfl

theorem serveConfigChannel_takenOrRefused (body : List Byte) (s : State) :
    TakenOrRefused s (serveConfigChannel body s) := by
  unfold serveConfigChannel
  split
  · exact .ok rfl
  · exact .refused _ s

theorem serveSetTripMask_takenOrRefused (body : List Byte) (s : State) :
    TakenOrRefused s (serveSetTripMask body s) := by
  unfold serveSetTripMask
  split
  · split
    · exact .refused _ s
    · exact .ok rfl
  · exact .refused _ s

theorem serveStageZone_takenOrRefused (body : List Byte) (s : State) :
    TakenOrRefused s (serveStageZone body s) := by
  unfold serveStageZone
  split
  · split
    · exact .refused _ s
    · exact .ok rfl
  · exact .refused _ s

theorem serveApplyGeometry_takenOrRefused (s : State) : TakenOrRefused s (serveApplyGeometry s) := by
  unfold serveApplyGeometry
  split
  · exact .refused _ s
  split
  · exact .ok rfl
  split
  · exact .ok rfl
  · exact .inl (.inr (.inr (.inr rfl)))

theorem serveAbandonApply_takenOrRefused (s : State) : TakenOrRefused s (serveAbandonApply s) := by
  unfold serveAbandonApply
  split
  · exact .ok rfl
  · exact .refused _ s

theorem serveBook_takenOrRefused (body : List Byte) (s : State) : TakenOrRefused s (serveBook body s) := by
  unfold serveBook
  split
  · exact .refused _ s
  dsimp only
  iterate 5
    split
    · exact .refused _ s
  exact .ok rfl

theorem serveCancel_takenOrRefused (body : List Byte) (s : State) : TakenOrRefused s (serveCancel body s) := by
  unfold serveCancel
  iterate 2
    split
    · exact .refused _ s
  exact .ok rfl

theorem serveSetClock_takenOrRefused (body : List Byte) (s : State) : TakenOrRefused s (serveSetClock body s) := by
  unfold serveSetClock
  iterate 2
    split
    · exact .refused _ s
  exact .ok rfl

theorem serveHoldClock_takenOrRefused (s : State) : TakenOrRefused s (serveHoldClock s) := by
  unfold serveHoldClock
  split
  · exact .refused _ s
  · exact .ok rfl
  · exact .ok rfl

theorem serveRunClock_takenOrRefused (s : State) : TakenOrRefused s (serveRunClock s) := by
  unfold serveRunClock
  split
  · exact .refused _ s
  · exact .ok rfl
  · exact .ok rfl

theorem serveHalt_takenOrRefused (body : List Byte) (s : State) : TakenOrRefused s (serveHalt body s) := by
  unfold serveHalt
  iterate 2
    split
    · exact .refused _ s
  exact .ok rfl

theorem serveResume_takenOrRefused (body : List Byte) (s : State) : TakenOrRefused s (serveResume body s) := by
  unfold serveResume
  iterate 3
    split
    · exact .refused _ s
  exact .ok rfl

theorem State.takeEmergency_accepts (c : CraneId) (z : ZoneId) (s : State) :
    (s.takeEmergency c z).1.result.accepts := by
  unfold State.takeEmergency
  split
  · exact .inr (.inr (.inl rfl))
  split
  · exact .inl rfl
  dsimp only
  split
  · exact .inr (.inl rfl)
  · exact .inr (.inr (.inl rfl))

theorem serveEmergencyClaim_takenOrRefused (body : List Byte) (s : State) :
    TakenOrRefused s (serveEmergencyClaim body s) := by
  unfold serveEmergencyClaim
  split
  · split
    · exact .refused _ s
    split
    · exact .refused _ s
    split
    · exact .refused _ s
    split
    · exact .refused _ s
    split
    · exact .refused _ s
    · exact .inl (State.takeEmergency_accepts _ _ s)
  · exact .refused _ s

theorem servePlannerWithdraw_takenOrRefused (body : List Byte) (s : State) :
    TakenOrRefused s (servePlannerWithdraw body s) := by
  unfold servePlannerWithdraw
  split
  · split
    · exact .ok rfl
    · exact .refused _ s
  · exact .refused _ s

theorem serveForceRelease_takenOrRefused (body : List Byte) (s : State) :
    TakenOrRefused s (serveForceRelease body s) := by
  unfold serveForceRelease
  split
  · split
    · exact .refused _ s
    split
    · exact .refused _ s
    · exact .ok rfl
  · exact .refused _ s

theorem serveSetEventEnables_takenOrRefused (body : List Byte) (s : State) :
    TakenOrRefused s (serveSetEventEnables body s) := by
  unfold serveSetEventEnables
  split
  · exact .refused _ s
  · exact .ok rfl

theorem serveCraneStatus_takenOrRefused (body : List Byte) (s : State) :
    TakenOrRefused s (serveCraneStatus body s) := by
  unfold serveCraneStatus
  split
  · exact paged_takenOrRefused _ _ _ s
  iterate 2
    split
    · exact .refused _ s
  exact paged_takenOrRefused _ _ _ s

theorem serveZoneStatus_takenOrRefused (body : List Byte) (s : State) :
    TakenOrRefused s (serveZoneStatus body s) := by
  unfold serveZoneStatus
  split
  · exact paged_takenOrRefused _ _ _ s
  split
  · exact .refused _ s
  · exact paged_takenOrRefused _ _ _ s

theorem serveBookingStatus_takenOrRefused (body : List Byte) (s : State) :
    TakenOrRefused s (serveBookingStatus body s) := by
  unfold serveBookingStatus
  split
  · exact paged_takenOrRefused _ _ _ s
  split
  · exact .refused _ s
  · exact paged_takenOrRefused _ _ _ s

theorem servePlanner_takenOrRefused (k : PlannerKind) (body : List Byte) (s : State) :
    TakenOrRefused s (servePlanner k body s) := by
  cases k with
  | configAreas => exact serveConfigAreas_takenOrRefused body s
  | configCrane => exact serveConfigCrane_takenOrRefused body s
  | configChannel => exact serveConfigChannel_takenOrRefused body s
  | setTripMask => exact serveSetTripMask_takenOrRefused body s
  | stageZone => exact serveStageZone_takenOrRefused body s
  | applyGeometry => exact serveApplyGeometry_takenOrRefused s
  | abandonApply => exact serveAbandonApply_takenOrRefused s
  | book => exact serveBook_takenOrRefused body s
  | cancel => exact serveCancel_takenOrRefused body s
  | setClock => exact serveSetClock_takenOrRefused body s
  | holdClock => exact serveHoldClock_takenOrRefused s
  | runClock => exact serveRunClock_takenOrRefused s
  | halt => exact serveHalt_takenOrRefused body s
  | resume => exact serveResume_takenOrRefused body s
  | emergencyClaim => exact serveEmergencyClaim_takenOrRefused body s
  | withdraw => exact servePlannerWithdraw_takenOrRefused body s
  | forceRelease => exact serveForceRelease_takenOrRefused body s
  | readEvents => exact .ok rfl
  | setEventEnables => exact serveSetEventEnables_takenOrRefused body s
  | siteStatus => exact paged_takenOrRefused _ _ _ s
  | craneStatus => exact serveCraneStatus_takenOrRefused body s
  | zoneStatus => exact serveZoneStatus_takenOrRefused body s
  | bookingStatus => exact serveBookingStatus_takenOrRefused body s
  | coldRestart => exact .ok rfl

/-- Every completed request is taken, or refused with no effect behind its port (R165). -/
theorem serve_takenOrRefused (p : Port) (f : Frame) (s : State) : TakenOrRefused s (serve p f s) := by
  unfold serve
  split
  · split
    · exact .refused _ s
    split
    · exact .refused _ s
    · exact serveCrane_takenOrRefused _ _ _ s
  · split
    · exact .refused _ s
    split
    · exact .refused _ s
    · exact servePlanner_takenOrRefused _ _ s

/-! ### CONFIG_AREAS (R169) -/

/-- Six areas are good where each is within the store and no two share a slot. -/
theorem areasBad_eq_false_iff {areas : List (Nat × Nat)} (six : areas.length = 6) :
    areasBad areas = false ↔ (∀ c, (areaOf areas c).1 ≤ (areaOf areas c).2 ∧ (areaOf areas c).2 ≤ 256) ∧
      ∀ c d, c ≠ d → ∀ slot, ¬((areaOf areas c).1 ≤ slot ∧ slot < (areaOf areas c).2 ∧
        (areaOf areas d).1 ≤ slot ∧ slot < (areaOf areas d).2) := by
  have at_ (i : Nat) (hi : i < areas.length) : areaOf areas ⟨i, six ▸ hi⟩ = areas[i] :=
    List.getD_eq_getElem _ _ hi
  rw [areasBad_eq_false]
  refine ⟨fun ⟨bounds, apart⟩ => ⟨areaOf_bounds bounds, fun _ _ hcd => areaOf_apart apart hcd⟩,
    fun ⟨bounds, apart⟩ => ⟨fun a ha => ?_, List.pairwise_iff_getElem.2 fun i j hi hj before => ?_⟩⟩
  · obtain ⟨i, hi, rfl⟩ := List.mem_iff_getElem.1 ha
    rw [← at_ i hi]
    exact bounds _
  · rw [← Bool.not_eq_true, areasClash_iff]
    rintro ⟨slot, shared⟩
    rw [← at_ i hi, ← at_ j hj] at shared
    exact apart _ _ (fun same => Nat.ne_of_lt before (Fin.mk.inj same)) slot shared

theorem areasBad_iff {areas : List (Nat × Nat)} (six : areas.length = 6) :
    areasBad areas = true ↔ (∃ c, (areaOf areas c).2 < (areaOf areas c).1 ∨ 256 < (areaOf areas c).2) ∨
      ∃ c d, c ≠ d ∧ ∃ slot, (areaOf areas c).1 ≤ slot ∧ slot < (areaOf areas c).2 ∧
        (areaOf areas d).1 ≤ slot ∧ slot < (areaOf areas d).2 := by
  rw [← Bool.not_eq_false, areasBad_eq_false_iff six, not_and_or]
  refine or_congr ?_ ?_
  · simp only [not_forall, not_and_or, not_le]
  · simp only [not_forall, not_not, exists_prop]

theorem areaOf_areasOf (b : List Byte) (c : CraneId) :
    areaOf (areasOf b) c = (wordAt b (4 * c.val), wordAt b (4 * c.val + 2)) := by
  simp [areaOf, areasOf]

theorem State.storeAreas_eq (areas : List (Nat × Nat)) (s : State) :
    s.storeAreas areas = { s with boxes := Vector.ofFn fun c =>
      if (s.box c).start = (areaOf areas c).1 ∧ (s.box c).stop = (areaOf areas c).2 then s.box c
      else { start := (areaOf areas c).1, stop := (areaOf areas c).2, queue := [], loss := true } } := rfl

end Sys2Proof.Machine

namespace Sys2Proof.Proofs

open Sys2Proof.Machine

/-- Settles O5: no code of the port's class is found. -/
theorem unknownKindRefused : Obligations.UnknownKindRefused := by
  intro p f s hr fits foreign
  refine congrArg Host.Outcome.next (State.arrive_refused s p f hr fits .unknownKind ?_)
  cases p with
  | crane c => simp only [serve, craneKindOf_eq_none foreign]
  | planner => simp only [serve, plannerKindOf_eq_none foreign]

/-- Settles O6, kind by kind by the length of R163. -/
theorem wrongLengthRefused : Obligations.WrongLengthRefused := by
  intro c tag b s fits
  refine ⟨fun hr => ?_, fun hr => ?_⟩
  · exact ⟨refusedAs_craneLength .hello rfl hr fits, refusedAs_craneLength .report rfl hr fits,
      refusedAs_craneLength .claim rfl hr fits, refusedAs_craneLength .withdraw rfl hr fits,
      refusedAs_craneLength .release rfl hr fits, refusedAs_craneLength .arm rfl hr fits,
      refusedAs_craneLength .liftDone rfl hr fits, refusedAs_craneLength .status rfl hr fits⟩
  · exact ⟨refusedAs_plannerLength .configAreas rfl hr fits, refusedAs_plannerLength .configCrane rfl hr fits,
      refusedAs_plannerLength .configChannel rfl hr fits, refusedAs_plannerLength .setTripMask rfl hr fits,
      refusedAs_plannerLength .stageZone rfl hr fits, refusedAs_plannerLength .applyGeometry rfl hr fits,
      refusedAs_plannerLength .abandonApply rfl hr fits, refusedAs_plannerLength .book rfl hr fits,
      refusedAs_plannerLength .cancel rfl hr fits, refusedAs_plannerLength .setClock rfl hr fits,
      refusedAs_plannerLength .holdClock rfl hr fits, refusedAs_plannerLength .runClock rfl hr fits,
      refusedAs_plannerLength .halt rfl hr fits, refusedAs_plannerLength .resume rfl hr fits,
      refusedAs_plannerLength .emergencyClaim rfl hr fits, refusedAs_plannerLength .withdraw rfl hr fits,
      refusedAs_plannerLength .forceRelease rfl hr fits, refusedAs_plannerLength .readEvents rfl hr fits,
      refusedAs_plannerLength .setEventEnables rfl hr fits, refusedAs_plannerLength .siteStatus rfl hr fits,
      refusedAs_plannerLength .craneStatus rfl hr fits, refusedAs_plannerLength .zoneStatus rfl hr fits,
      refusedAs_plannerLength .bookingStatus rfl hr fits, refusedAs_plannerLength .coldRestart rfl hr fits⟩

/-- Settles O12: a request that is not taken is refused (`serve_takenOrRefused`), and a refusal is the answer alone
(`State.arrive_refused`). -/
theorem refusalsChangeNothing : Obligations.RefusalsChangeNothing := by
  intro p f s t r hr he answer notOk notGranted notQueued notPending
  obtain rfl : s.arrive p f = t := Host.Outcome.next.inj he
  have fits : f.body.length ≤ 60 := by
    by_contra long
    rw [State.arrive_oversize (Nat.not_le.1 long) hr.2.2.2] at answer
    have empty : ((s.dropOversize p).link p).buffer = none := by
      show ((s.editLink p fun l => { l with rx := .hunt, oversize := saturate l.oversize }).link p).buffer = none
      rw [State.editLink_link_same]
      exact hr.1
    rw [empty] at answer
    cases answer
  have given : s.responseTo p f = r := by
    rw [State.arrive_link s p f hr fits] at answer
    exact Option.some.inj answer
  rcases serve_takenOrRefused p f (s.underway p) with taken | ⟨x, refused⟩
  · have result : (serve p f (s.underway p)).1.result = r.result := congrArg Response.result given
    rw [result] at taken
    rcases taken with h | h | h | h
    · exact absurd h notOk
    · exact absurd h notGranted
    · exact absurd h notQueued
    · exact absurd h notPending
  · have same : s.responseTo p f = { kind := f.kind, tag := f.tag, result := x, loss := s.lossOn p, body := [] } := by
      have loss : (s.underway p).lossOn p = s.lossOn p := State.editLink_lossOn s p p _
      simp only [State.responseTo, refused, refuse, respond, loss]
    subst given
    rw [State.arrive_refused s p f hr fits x refused, same]
    exact ⟨rfl, rfl, rfl, rfl, rfl⟩

/-- Settles O28: the refusal by `areasBad_iff`, the areas stored by `State.storeAreas_eq`. -/
theorem areasConfigured : Obligations.AreasConfigured := by
  intro tag b s hr length start stop bad
  have refused : areasBad (areasOf b) = true ↔ bad := by
    rw [areasBad_iff (by simp [areasOf])]
    simp only [areaOf_areasOf, bad, start, stop]
  refine ⟨fun h => ?_, fun h => ?_⟩
  · exact refusedAs_planner .configAreas rfl hr length (if_pos (refused.2 h))
  · refine takenAs_planner .configAreas (reply := { result := .ok }) rfl hr length ?_ rfl (fun _ _ => rfl) rfl
    have stored := State.storeAreas_eq (areasOf b) (s.underway .planner)
    simp only [areaOf_areasOf] at stored
    rw [← stored]
    exact if_neg (mt refused.1 h)

end Sys2Proof.Proofs

/-! ## The records after a reset (R179)

One read per record at its reset value. `State.restarted` keeps the waiting commands and the count of open orders;
the state after reset is `State.reset.restarted`. -/

namespace Sys2Proof.Machine

/-! ### Every record at its reset value

Ports and areas by R172, flags and enables by R173, lines by R88, channels by R102, wind records by R103 and R118,
position records by R42, zones by R19, permits by R134. -/

section

variable (s : State)

@[simp] theorem State.restarted_link (p : Port) : s.restarted.link p = {} := Table.entry_replicate _ _

@[simp] theorem State.restarted_box (c : CraneId) : s.restarted.box c = {} := Table.entry_replicate _ _

@[simp] theorem State.restarted_line (l : ChannelId) : s.restarted.line l = .hunt := Table.entry_replicate _ _

@[simp] theorem State.restarted_event (e : SiteEvent) : s.restarted.event e = true ↔ e = .restarted := by
  have flags : s.restarted.event e = (s.clearEvents.setEvent .restarted).event e := rfl
  have clear : s.clearEvents.event e = false := Table.entry_replicate _ _
  rw [flags, State.setEvent_event, clear, Bool.or_false, decide_eq_true_iff]

@[simp] theorem State.restarted_enables (i : Fin 10) : Table.entry s.restarted.enables i = false :=
  Table.entry_replicate _ _

@[simp] theorem State.restarted_channel (k : ChannelId) : s.restarted.channel k = {} := Table.entry_replicate _ _

@[simp] theorem State.restarted_wind (c : CraneId) : s.restarted.wind c = {} := Table.entry_replicate _ _

@[simp] theorem State.restarted_position (c : CraneId) : s.restarted.position c = {} := Table.entry_replicate _ _

@[simp] theorem State.restarted_record (z : ZoneId) : s.restarted.record z = {} := Table.entry_replicate _ _

@[simp] theorem State.restarted_shadowRecord (z : ZoneId) : s.restarted.shadowRecord z = {} :=
  Table.entry_replicate _ _

@[simp] theorem State.restarted_footprint (z : ZoneId) (c : CraneId) : s.restarted.footprint z c = none := by
  simp [State.footprint]

@[simp] theorem State.restarted_zone (z : ZoneId) : s.restarted.zone z = {} := Table.entry_replicate _ _

@[simp] theorem State.restarted_permit (c : CraneId) : s.restarted.permit c = none := Table.entry_replicate _ _

/-! ### The invariants at the reset values -/

theorem State.restarted_queuesOk : s.restarted.queuesOk :=
  queuesOk_of_empty fun z => by rw [s.restarted_zone z]

/-- No crane has a permit record, and none is at STOP (R118, R134). -/
theorem State.restarted_permitFits (c : CraneId) : PermitFits (s.restarted.wind c).stage (s.restarted.permit c) := by
  rw [s.restarted_wind c, s.restarted_permit c]
  exact Stage.noConfusion

theorem Channel.ok_initial : ({} : Channel).ok := by
  simp [Channel.ok]

theorem State.restarted_channelsOk : s.restarted.channelsOk := fun k => by
  rw [s.restarted_channel k]
  exact Channel.ok_initial

theorem State.restarted_linesOk : s.restarted.linesOk := fun l => by
  rw [s.restarted_line l]
  exact trivial

/-- The clock is INVALID at zero with its timer stopped, and the lead time is 10 minutes (R142). -/
theorem State.restarted_clockOk : s.restarted.clockOk := by
  simp [State.restarted, State.reset, State.clockOk]

end

end Sys2Proof.Machine

/-! ## Site events (R173 to R175) -/

namespace Sys2Proof.Machine

/-! ### ATTN (R175) -/

/-- Every flag is the flag of a site event (R173). -/
theorem SiteEvent.idx_surjective : Function.Surjective SiteEvent.idx
  | 0 => ⟨.restarted, rfl⟩
  | 1 => ⟨.trip, rfl⟩
  | 2 => ⟨.silence, rfl⟩
  | 3 => ⟨.stowOverdue, rfl⟩
  | 4 => ⟨.windStop, rfl⟩
  | 5 => ⟨.sensor, rfl⟩
  | 6 => ⟨.applyDone, rfl⟩
  | 7 => ⟨.booking, rfl⟩
  | 8 => ⟨.noticeLoss, rfl⟩
  | 9 => ⟨.frame, rfl⟩

theorem State.attn_iff (s : State) :
    s.attn = true ↔ ∃ e : SiteEvent, s.event e = true ∧ Table.entry s.enables e.idx = true := by
  unfold State.attn State.event
  rw [← SiteEvent.idx_surjective.exists (p := fun i => Table.entry s.flags i = true ∧ Table.entry s.enables i = true)]
  simp only [List.any_eq_true, List.mem_finRange, true_and, Bool.and_eq_true]

/-- With every enable no, as after a reset, ATTN is low (R173, R175). -/
theorem State.attn_eq_false {s : State} (h : ∀ i, Table.entry s.enables i = false) : s.attn = false := by
  rw [← Bool.not_eq_true, s.attn_iff]
  rintro ⟨e, -, enabled⟩
  rw [h] at enabled
  cases enabled

/-! ### Flags as bytes (R162) -/

theorem eventBytes_eq_map (t : Table Bool 10) :
    eventBytes t = t.toList.map fun f => if f then 0x01#8 else 0x00#8 := by
  rw [List.map_eq_flatMap]
  exact congrArg t.toList.flatMap (funext fun f => by cases f <;> rfl)

theorem byteAt_eq_getElem {b : List Byte} {i : Nat} (h : i < b.length) : byteAt b i = b[i].toNat :=
  congrArg BitVec.toNat (List.getD_eq_getElem b 0 h)

/-- A byte that is neither yes nor no leaves the list of flags unread (R162). -/
theorem flagsOf_eq_none {b : List Byte} (bad : ∃ x ∈ b, 1 < x.toNat) :
    ((List.range b.length).mapM fun i => flagOf (byteAt b i)) = none := by
  obtain ⟨x, hx, neither⟩ := bad
  obtain ⟨i, hi, rfl⟩ := List.mem_iff_getElem.1 hx
  rw [Option.eq_none_iff_forall_ne_some]
  intro es h
  obtain ⟨length, places⟩ := mapM_range_inv h
  have read := places i (length ▸ hi)
  rw [byteAt_eq_getElem hi, flagOf_eq_none neither] at read
  cases read

/-- Bytes that are yes or no read as their flags (R162). -/
theorem flagsOf_eq_some {b : List Byte} (good : ∀ x ∈ b, x.toNat ≤ 1) :
    ((List.range b.length).mapM fun i => flagOf (byteAt b i)) = some (b.map (· == 0x01#8)) := by
  rw [← List.length_map (as := b) (· == 0x01#8)]
  refine mapM_range _ _ fun i hi => ?_
  rw [List.length_map] at hi
  rw [byteAt_eq_getElem hi, flagOf_byte (good _ (List.getElem_mem hi)), List.getElem_map]

/-- The enables that a body of yes/no bytes gives (R175). -/
def enablesOf (b : List Byte) : Table Bool 10 := Vector.ofFn fun i => b.getD i.val 0x00#8 == 0x01#8

theorem toList_enablesOf {b : List Byte} (length : b.length = 10) : (enablesOf b).toList = b.map (· == 0x01#8) := by
  refine List.ext_getElem (by simp [length]) fun i _ hi => ?_
  rw [List.length_map] at hi
  simp [enablesOf, hi]

/-- The enables stored are answered as they came (R175). -/
theorem eventBytes_enablesOf {b : List Byte} (length : b.length = 10) (good : ∀ x ∈ b, x.toNat ≤ 1) :
    eventBytes (enablesOf b) = b := by
  rw [eventBytes_eq_map, toList_enablesOf length, List.map_map]
  refine (List.map_congr_left fun x hx => ?_).trans b.map_id
  obtain rfl | rfl : x = 0x00#8 ∨ x = 0x01#8 := by
    have := good x hx
    bv_omega
  all_goals rfl

/-! ### SET_EVENT_ENABLES (R175) -/

theorem serveSetEventEnables_badField {b : List Byte} (length : b.length = 10) (bad : ∃ x ∈ b, 1 < x.toNat)
    (s : State) : serveSetEventEnables b s = refuse .badField s := by
  have unread := flagsOf_eq_none bad
  rw [length] at unread
  unfold serveSetEventEnables
  rw [unread]

theorem serveSetEventEnables_taken {b : List Byte} (length : b.length = 10) (good : ∀ x ∈ b, x.toNat ≤ 1)
    (s : State) :
    serveSetEventEnables b s = ({ result := .ok, body := b }, { s with enables := enablesOf b }) := by
  have read := flagsOf_eq_some good
  rw [length] at read
  have enables : (Table.mapAll s.enables fun i _ => (b.map (· == 0x01#8)).getD i.val false) = enablesOf b :=
    Vector.ext fun i hi => by simp [Table.mapAll, enablesOf, length]
  unfold serveSetEventEnables
  simp only [read, enables, eventBytes_enablesOf length good]

end Sys2Proof.Machine

namespace Sys2Proof.Proofs

open Sys2Proof.Machine

/-- Settles O3: both commands lead to `s.restarted`, read record by record. -/
theorem powerOnAndReset : Obligations.PowerOnAndReset := by
  intro s
  refine ⟨s.restarted, rfl, rfl, s.restarted_link, s.restarted_box, s.restarted_line, s.restarted_event,
    s.restarted_enables, rfl, State.attn_eq_false s.restarted_enables, fun k => ?channel, fun c => ?wind,
    fun c => ?position, fun z => ?record, fun z => ?zone, rfl, rfl, rfl, rfl, rfl, rfl, rfl, rfl, rfl, rfl,
    s.restarted_permit, rfl, rfl⟩
  case channel => simp only [State.restarted_channel, and_self]
  case wind => simp only [State.restarted_wind, and_self]
  case position => simp only [State.restarted_position, and_self]
  case record =>
    simp only [State.restarted_record, State.restarted_shadowRecord, State.restarted_footprint, implies_true, and_self]
  case zone => simp only [State.restarted_zone, and_self]

/-- Settles O43: ATTN by `State.attn_iff`, the bytes answered by `eventBytes_eq_map`, the enables by the two answers
of `serveSetEventEnables`. -/
theorem eventsReadAndEnabled : Obligations.EventsReadAndEnabled := by
  intro tag b s
  refine ⟨s.attn_iff, fun hr => ⟨?_, fun length bad => ?_, fun length good => ?_⟩⟩
  · have answered : TakenAs (.readEvents .planner tag []) .planner 0x21#8 tag .ok
        (eventBytes s.flags ++ byte s.restart.code) State.clearEvents s :=
      takenAs_planner .readEvents rfl hr rfl rfl rfl (fun _ _ => rfl) rfl
    rw [eventBytes_eq_map] at answered
    cases kind : s.restart <;> rw [kind] at answered <;> exact answered
  · exact refusedAs_planner .setEventEnables rfl hr length (serveSetEventEnables_badField length bad _)
  · exact takenAs_planner .setEventEnables (eff := fun u => { u with enables := enablesOf b }) rfl hr length
      (serveSetEventEnables_taken length good _) rfl (fun _ _ => rfl) rfl

/-- Settles O55: the state after reset is the state that POWER_ON leads to from itself. -/
theorem resetMeetsInvariants : Obligations.ResetMeetsInvariants := by
  have ⟨store, links⟩ := State.reset.portsOk_restarted
  have ⟨permits, stowed⟩ := State.reset.restarted.permitFits_iff.1 State.reset.restarted_permitFits
  exact ⟨store, links, State.reset.restarted_linesOk, State.reset.restarted_queuesOk, permits, stowed,
    State.reset.restarted_channelsOk, State.reset.restarted_clockOk⟩

end Sys2Proof.Proofs

/-! ## One step: a command, or 10 ms of time

The queue of the commands and the idle step are the model's choice (log entries 1, 2 and 20). -/

namespace Sys2Proof.Machine

/-- With a command waiting, a step is that command on the state that no longer holds it. -/
theorem step_of_pending_cons {c : Instr} {rest : List Instr} {s : State} (waiting : s.pending = c :: rest) :
    step s = exec c { s with pending := rest } := by
  simp only [step, waiting]

/-- With no command waiting, a step lets time pass. -/
theorem step_of_pending_nil {s : State} (idle : s.pending = []) : step s = .next s.elapse := by
  simp only [step, idle]

/-! ### What the passing of time does to each table -/

@[simp] theorem State.elapse_link (s : State) (p : Port) :
    s.elapse.link p = { s.link p with rx := (s.link p).rx.elapse } := by
  simp only [State.elapse, State.link, Table.entry_mapAll]

@[simp] theorem State.elapse_line (s : State) (l : ChannelId) : s.elapse.line l = (s.line l).elapse := by
  simp only [State.elapse, State.line, Table.entry_mapAll]

@[simp] theorem State.elapse_channel (s : State) (k : ChannelId) :
    s.elapse.channel k =
      { s.channel k with
        staleTimer := Timer.elapse (s.channel k).staleTimer, binTimer := (s.channel k).binTimer - 1 } := by
  simp only [State.elapse, State.channel, Table.entry_mapAll]

@[simp] theorem State.elapse_wind (s : State) (c : CraneId) :
    s.elapse.wind c = { s.wind c with holdTimer := Timer.elapse (s.wind c).holdTimer } := by
  simp only [State.elapse, State.wind, Table.entry_mapAll]

@[simp] theorem State.elapse_position (s : State) (c : CraneId) :
    s.elapse.position c = { s.position c with timer := Timer.elapse (s.position c).timer } := by
  simp only [State.elapse, State.position, Table.entry_mapAll]

@[simp] theorem State.elapse_zone (s : State) (z : ZoneId) :
    s.elapse.zone z = { s.zone z with state := (s.zone z).state.elapse } := by
  simp only [State.elapse, State.zone, Table.entry_mapAll]

@[simp] theorem State.elapse_permit (s : State) (c : CraneId) :
    s.elapse.permit c = (s.permit c).map fun p => { p with stowTimer := Timer.elapse p.stowTimer } := by
  simp only [State.elapse, State.permit, Table.entry_mapAll]

end Sys2Proof.Machine

namespace Sys2Proof.Proofs

open Sys2Proof.Machine

/-- Settles O1: the case of `step` with a command waiting. -/
theorem stepRunsFrontCommand : Obligations.StepRunsFrontCommand :=
  fun _ _ _ waiting => step_of_pending_cons waiting

/-- Settles O2: the idle step leads to `s.elapse`, read table by table; what has no timer is untouched. -/
theorem idleStepPassesTime : Obligations.IdleStepPassesTime := fun s idle =>
  ⟨s.elapse, step_of_pending_nil idle, s.elapse_link, s.elapse_line, s.elapse_channel, s.elapse_wind,
    s.elapse_position, s.elapse_zone, s.elapse_permit, rfl, rfl, rfl, rfl, rfl, rfl, rfl, rfl, rfl, rfl, rfl, rfl,
    rfl, rfl⟩

end Sys2Proof.Proofs
